-- ==== Sys2Proof/Word.lean ====
section
/-! DEFINITION. The word types of Izper programs: 64-bit scalar registers, 32-bit instruction words, bytes and the
register fields of a word (01 R24, 04 R141 to R143). -/

namespace Sys2Proof

/-- A scalar register's contents, and a virtual address (01 R24, 03 R98). -/
abbrev Word := BitVec 64

/-- An instruction word (04 R141). -/
abbrev IWord := BitVec 32

/-- One byte of memory (00 R5). -/
abbrev Byte := BitVec 8

/-- The number of a scalar register s0 to s31 (04 R143). -/
abbrev SReg := BitVec 5

/-- The number of a vector register v0 to v31 (04 R143). -/
abbrev VReg := BitVec 5

/-- The number of a predicate register p0 to p7 (04 R143). -/
abbrev PReg := BitVec 3

/-- A vector register's contents (01 R24). -/
abbrev VWord := BitVec 8192

/-- A predicate register's contents (01 R24). -/
abbrev PWord := BitVec 16384

end Sys2Proof
end

