-- ==== Sys2Proof/Config.lean ====
section
/-! DEFINITION. What the spec leaves open: free values, constants without a body that no proof can evaluate. A statement
about a result that uses one holds whatever it is. -/

namespace Sys2Proof.Config

/-- The clocks that pass between sample k and the one before it (01 R39; log 5). -/
opaque elapsed : Nat → Nat

/-- VFRCP, VFRSQ, VFEXP2, VFLOG2 in FP32 and FP64: whether the operation (0 to 3), on the operand of the given width,
takes the upper of the two neighbours of the exact result (06 R220; log 7). -/
opaque approxUpper : Nat → Nat → Nat → Bool

/-- VSTXC: which of the active elements that name one location is the one whose value remains, as a position in their
list (07 R245; log 8). -/
opaque vstxcWinner : Nat → Nat → Nat

/-- Fused identity values: PARTNO is fixed by 16 R437; SERIAL is number 0, DIEUID d is number 1 + d, IODUID i is number
13 + i (log 15). -/
opaque fused : Nat → Word

/-- The SHA-256 digest of a byte string, as a number (13 R392, R393; log 17). -/
opaque sha256 : List Byte → Nat

/-- A P-256 signature verifies: public key, signature and message (13 R392; log 17). -/
opaque ecdsaVerify : List Byte → List Byte → List Byte → Bool

/-- A P-256 signature with the device identity key (13 R393; log 17). -/
opaque ecdsaSign : List Byte → List Byte

/-- The four fused key hashes (13 R392; log 17). -/
opaque keyHash : Nat → Nat

/-- What an SPDM responder answers beyond the fields the spec gives: certificates, signatures and key shares (13 R393;
log 17). -/
opaque spdmBytes : Nat → List Byte → List Byte

/-- What a firmware payload holds for a control hart's memories (13 R392; 16 R435, step 4; log 14). -/
opaque loaded : List Byte → Nat → List Byte

/-- The hash by which traffic to a granule of another device takes one of the ports that lead there (13 R391; log 9). -/
opaque portHash : Nat → Nat

/-- The translation of a peer: the system physical address of a virtual address of a context there, or none when its
tables refuse it (07 R263; log 9). -/
opaque peerTranslate : Nat → Nat → Word → Option Nat

/-- A free value of a width for which the spec states no result, numbered by the place that uses it and its operands. -/
opaque freeValue : Nat → Nat → Nat

end Sys2Proof.Config
end

