-- ==== Sys2Proof/Kinds.lean ====
section
/-! DEFINITION. Names of levels, engines, stop units and requests that the steps of the device carry. -/

namespace Sys2Proof

/-- The scratchpad levels (03 R107). -/
inductive Level where
  | s1 | s2 | s3
  deriving DecidableEq, Repr

/-- The engines that take commands (07 R253, R268; 08 R280). -/
inductive EngineKind where
  | copy | topology | colouring | binning | hod
  deriving DecidableEq, Repr

/-- The units that pre-emption stops (13 R382). -/
inductive StopUnit where
  | hart (n : Nat) | copyEngine (core : Nat) | topology (die : Nat) | colouring (die : Nat) | binning (die : Nat)
  | hod (port : Nat) | dispatcher (die : Nat)
  deriving DecidableEq, Repr

/-- A remote request that this device answers as the home (07 R263 to R266): a packed index list, a put, an atomic. -/
inductive PeerRequest where
  | gather (base : Word) (esize : Nat) (elems : List Nat)
  | put (va : Word) (data : List Byte)
  | atom (op : BitVec 4) (wide : Bool) (va operand comparand : Word)
  deriving DecidableEq, Repr

/-- A load, store or atomic of a peer that arrives by system physical address (03 R111, 13 R385). -/
inductive PeerAccess where
  | load (spa len : Nat)
  | store (spa : Nat) (data : List Byte)
  | nibble (spa : Nat) (high : Bool) (v : BitVec 4)
  | atom (op : BitVec 4) (width : Nat) (spa : Nat) (operand comparand : Word)
  deriving DecidableEq, Repr

/-- What a host request names: the memory BAR of a die, the window BAR of IOD0 (13 R387), or the configuration space of the
function (16 R435). -/
inductive HostTarget where
  | mem (die off : Nat)
  | window (off : Nat)
  | config (off : Nat)
  deriving DecidableEq, Repr

/-- The requests of an SPDM requester that the module answers (13 R393). -/
inductive SpdmRequest where
  | version | certificate (slot : Nat) | measurement (block : Nat) | challenge (nonce : List Byte) | keyExchange (pub : List Byte)
  | endSession | provision (slot : Nat) (chain : List Byte)
  deriving DecidableEq, Repr

/-- The temperature sensors: sensor `k` of the four of a compute die, the stacks, and the coolant inlet (16 R434). -/
inductive Sensor where
  | computeDie (d k : Nat) | stack (k : Nat) | inlet
  deriving DecidableEq, Repr

/-- How step 5 of the boot sequence went: the stacks that failed, and the device number that the link partner of a Beydin port
reports (13 R390; 16 R435). -/
structure Training where
  badStacks : List Nat
  partners : List (Nat × Nat)
  deriving DecidableEq, Repr

/-- What the checks of a vector word's write-back find: the lane cluster or matrix unit, how many of its two computations miss
their residue, and of register `reg` how many miss its mirror (15 R410, R411). -/
structure WriteBack where
  unit : Nat
  residue : Nat
  reg : VReg
  mismatches : Nat
  deriving DecidableEq, Repr

/-- A collective, and what the other members give of its next tile: device and bytes (07 R270). -/
structure TileData where
  id : Nat
  parts : List (Nat × List Byte)
  deriving DecidableEq, Repr

/-- An error in a control hart's memory: one that SECDED corrects, and one that it cannot, met by a load or a fetch
(14 R395; 15 R408). -/
inductive CtlError where
  | corrected | loaded | fetched
  deriving DecidableEq, Repr

/-- A go that reaches a home: all pieces of the write there perform, or the one at a position (14 R400). -/
structure Go where
  home : Nat
  only : Option Nat
  deriving DecidableEq, Repr

/-- A request of the update agent: an image, which begins to be written or is written whole (16 R436). -/
structure UpdateRequest where
  image : List Byte
  finish : Bool
  deriving DecidableEq, Repr

/-- A Beydin port fails, or a retry on a lane delivers a flit (15 R408). -/
inductive LinkError where
  | down (p : Nat)
  | retried (p : Nat) (lane : BitVec 2)
  deriving DecidableEq, Repr

/-- The AER status of a PCIe port's error, and whether it is correctable (15 R408). -/
structure AerError where
  status : Word
  corrected : Bool
  deriving DecidableEq, Repr

/-- What a check of the datapath finds in the instruction that a hart executes: of the two computations of a lane cluster,
matrix unit or scalar unit, the number whose residue mismatches (15 R410); or the code of a register's cell, which corrects the
error or cannot (15 R408). -/
inductive DataError where
  | residue (unit mismatches : Nat)
  | register (r : Fin 32) (corrected : Bool)
  deriving DecidableEq, Repr

end Sys2Proof
end

