-- ==== Sys2Proof/Syntax.lean ====
section
/-! DEFINITION. The abstract syntax: Instr has one constructor for each row of spec/opcode_table.json.
254 rows are Izper instructions, whose arguments are the fields of the word (04 R142); 94 rows are steps of the device that
no word encodes (spec/95_what_each_step_holds.md), whose arguments are what comes from outside the machine in that step.
The order is free; it puts first the 244 constructors that compiled code may build (log 16). -/

namespace Sys2Proof

/-- The steps of the machine: one constructor per row of the opcode table. -/
inductive Instr where
  /-- ADD (R175): Writes s_a + s_b, wrapping modulo 2^64, to s_d. -/
  | add (d a b : BitVec 5)
  /-- SUB (R175): Writes s_a - s_b to s_d. -/
  | sub (d a b : BitVec 5)
  /-- MUL (R175): Writes the low 64 bits of s_a × s_b to s_d. -/
  | mul (d a b : BitVec 5)
  /-- MULH (R175): Writes the high 64 bits of the signed 128-bit product to s_d. -/
  | mulh (d a b : BitVec 5)
  /-- MULHU (R175): Writes the high 64 bits of the unsigned 128-bit product to s_d. -/
  | mulhu (d a b : BitVec 5)
  /-- DIV (R175): Writes the signed quotient to s_d, rounded toward zero, with zero divisor and overflow handled as R64 states. -/
  | div (d a b : BitVec 5)
  /-- DIVU (R175): Writes the unsigned quotient to s_d. -/
  | divu (d a b : BitVec 5)
  /-- REM (R175): Writes the signed remainder, which takes the dividend's sign, to s_d. -/
  | rem (d a b : BitVec 5)
  /-- REMU (R175): Writes the unsigned remainder to s_d. -/
  | remu (d a b : BitVec 5)
  /-- AND (R175): Writes the bitwise AND of s_a and s_b to s_d. -/
  | and (d a b : BitVec 5)
  /-- OR (R175): Writes the bitwise OR of s_a and s_b to s_d. -/
  | or (d a b : BitVec 5)
  /-- XOR (R175): Writes the bitwise XOR of s_a and s_b to s_d. -/
  | xor (d a b : BitVec 5)
  /-- ANDN (R175): Writes s_a AND NOT s_b to s_d. -/
  | andn (d a b : BitVec 5)
  /-- SHL (R175): Shifts s_a left by the low 8 bits of s_b. -/
  | shl (d a b : BitVec 5)
  /-- SHR (R175): Shifts s_a right logically by the low 8 bits of s_b. -/
  | shr (d a b : BitVec 5)
  /-- SAR (R175): Shifts s_a right arithmetically by the low 8 bits of s_b. -/
  | sar (d a b : BitVec 5)
  /-- ROTR (R175): Rotates s_a right by the amount in s_b modulo 64. -/
  | rotr (d a b : BitVec 5)
  /-- MIN (R175): Writes the signed minimum of s_a and s_b to s_d. -/
  | min (d a b : BitVec 5)
  /-- MAX (R175): Writes the signed maximum of s_a and s_b to s_d. -/
  | max (d a b : BitVec 5)
  /-- MINU (R175): Writes the unsigned minimum of s_a and s_b to s_d. -/
  | minu (d a b : BitVec 5)
  /-- MAXU (R175): Writes the unsigned maximum of s_a and s_b to s_d. -/
  | maxu (d a b : BitVec 5)
  /-- SEQ (R175): Writes 1 to s_d if s_a equals s_b, else 0. -/
  | seq (d a b : BitVec 5)
  /-- SNE (R175): Writes 1 to s_d if s_a differs from s_b, else 0. -/
  | sne (d a b : BitVec 5)
  /-- SLT (R175): Writes 1 to s_d if s_a is below s_b as signed values, else 0. -/
  | slt (d a b : BitVec 5)
  /-- SLTU (R175): Writes 1 to s_d if s_a is below s_b as unsigned values, else 0. -/
  | sltu (d a b : BitVec 5)
  /-- SEL (R175): Writes s_a to s_d if the old s_d is non-zero, else s_b. -/
  | sel (d a b : BitVec 5)
  /-- CLZ (R175): Writes the count of leading zero bits of s_a to s_d. -/
  | clz (d a : BitVec 5)
  /-- CTZ (R175): Writes the count of trailing zero bits of s_a to s_d. -/
  | ctz (d a : BitVec 5)
  /-- POPC (R175): Writes the number of 1 bits of s_a to s_d. -/
  | popc (d a : BitVec 5)
  /-- BREV (R175): Writes s_a with its bit order reversed to s_d. -/
  | brev (d a : BitVec 5)
  /-- SEXT_B (R175): Sign-extends s_a[7:0] into s_d. -/
  | sextB (d a : BitVec 5)
  /-- SEXT_H (R175): Sign-extends s_a[15:0] into s_d. -/
  | sextH (d a : BitVec 5)
  /-- SEXT_W (R175): Sign-extends s_a[31:0] into s_d. -/
  | sextW (d a : BitVec 5)
  /-- ZEXT_B (R175): Zero-extends s_a[7:0] into s_d. -/
  | zextB (d a : BitVec 5)
  /-- ZEXT_H (R175): Zero-extends s_a[15:0] into s_d. -/
  | zextH (d a : BitVec 5)
  /-- ZEXT_W (R175): Zero-extends s_a[31:0] into s_d. -/
  | zextW (d a : BitVec 5)
  /-- SHADD (R175): Writes (s_a << k) + s_b to s_d, with k taken from fn[2:0]. -/
  | shadd (d a b : BitVec 5) (k : BitVec 3)
  /-- ADDI (R176): Writes s_a plus the sign-extended 16-bit immediate to s_d. -/
  | addi (d a : BitVec 5) (i : BitVec 16)
  /-- ANDI (R176): ANDs s_a with the sign-extended 13-bit immediate. -/
  | andi (d a : BitVec 5) (i : BitVec 13)
  /-- ORI (R176): ORs s_a with the sign-extended 13-bit immediate. -/
  | ori (d a : BitVec 5) (i : BitVec 13)
  /-- XORI (R176): XORs s_a with the sign-extended 13-bit immediate. -/
  | xori (d a : BitVec 5) (i : BitVec 13)
  /-- SLTI (R176): Writes 1 to s_d if s_a is below the immediate as signed values. -/
  | slti (d a : BitVec 5) (i : BitVec 13)
  /-- SLTIU (R176): Writes 1 to s_d if s_a is below the sign-extended immediate as unsigned values. -/
  | sltiu (d a : BitVec 5) (i : BitVec 13)
  /-- SHLI (R176): Shifts s_a left by imm[5:0]. -/
  | shli (d a : BitVec 5) (s : BitVec 6)
  /-- SHRI (R176): Shifts s_a right logically by imm[5:0]. -/
  | shri (d a : BitVec 5) (s : BitVec 6)
  /-- SARI (R176): Shifts s_a right arithmetically by imm[5:0]. -/
  | sari (d a : BitVec 5) (s : BitVec 6)
  /-- LDB (R184): Loads a byte into s_d, sign-extended. -/
  | ldb (d a : BitVec 5) (i : BitVec 13)
  /-- LDBU (R184): Loads a byte into s_d, zero-extended. -/
  | ldbu (d a : BitVec 5) (i : BitVec 13)
  /-- LDH (R184): Loads a halfword into s_d, sign-extended. -/
  | ldh (d a : BitVec 5) (i : BitVec 13)
  /-- LDHU (R184): Loads a halfword into s_d, zero-extended. -/
  | ldhu (d a : BitVec 5) (i : BitVec 13)
  /-- LDW (R184): Loads a word into s_d, sign-extended. -/
  | ldw (d a : BitVec 5) (i : BitVec 13)
  /-- LDWU (R184): Loads a word into s_d, zero-extended. -/
  | ldwu (d a : BitVec 5) (i : BitVec 13)
  /-- LDD (R184): Loads a doubleword into s_d. -/
  | ldd (d a : BitVec 5) (i : BitVec 13)
  /-- STB (R184): Stores the low byte of s_b at s_a + offset. -/
  | stb (a b : BitVec 5) (i : BitVec 13)
  /-- STH (R184): Stores the low halfword of s_b at s_a + offset. -/
  | sth (a b : BitVec 5) (i : BitVec 13)
  /-- STW (R184): Stores the low word of s_b at s_a + offset. -/
  | stw (a b : BitVec 5) (i : BitVec 13)
  /-- STD (R184): Stores s_b as a doubleword at s_a + offset. -/
  | std (a b : BitVec 5) (i : BitVec 13)
  /-- BEQ (R180): Branches when s_a equals s_b. -/
  | beq (a b : BitVec 5) (i : BitVec 13)
  /-- BNE (R180): Branches when s_a differs from s_b. -/
  | bne (a b : BitVec 5) (i : BitVec 13)
  /-- BLT (R180): Branches when s_a is below s_b as signed values. -/
  | blt (a b : BitVec 5) (i : BitVec 13)
  /-- BGE (R180): Branches when s_a is at least s_b as signed values. -/
  | bge (a b : BitVec 5) (i : BitVec 13)
  /-- BLTU (R180): Branches when s_a is below s_b as unsigned values. -/
  | bltu (a b : BitVec 5) (i : BitVec 13)
  /-- BGEU (R180): Branches when s_a is at least s_b as unsigned values. -/
  | bgeu (a b : BitVec 5) (i : BitVec 13)
  /-- BPANY (R181): Branches when any of bits 0 to VL-1 of the predicate is 1. -/
  | bpany (p : BitVec 3) (i : BitVec 16)
  /-- BPALL (R181): Branches when every one of bits 0 to VL-1 of the predicate is 1. -/
  | bpall (p : BitVec 3) (i : BitVec 16)
  /-- BPNONE (R181): Branches when none of bits 0 to VL-1 of the predicate is 1. -/
  | bpnone (p : BitVec 3) (i : BitVec 16)
  /-- FADD (R177): Adds two scalar FP64 or FP32 values, rounding by MODE.RM. -/
  | fadd (d a b : BitVec 5) (p : BitVec 1)
  /-- FSUB (R177): Subtracts two scalar floating values, rounding by MODE.RM. -/
  | fsub (d a b : BitVec 5) (p : BitVec 1)
  /-- FMUL (R177): Multiplies two scalar floating values, rounding by MODE.RM. -/
  | fmul (d a b : BitVec 5) (p : BitVec 1)
  /-- FMA (R177): Writes s_a × s_b + s_d to s_d with one rounding. -/
  | fma (d a b : BitVec 5) (p : BitVec 1)
  /-- FNMA (R177): Writes -(s_a × s_b) + s_d to s_d with one rounding. -/
  | fnma (d a b : BitVec 5) (p : BitVec 1)
  /-- FDIV (R177): Divides two scalar floating values, correctly rounded. -/
  | fdiv (d a b : BitVec 5) (p : BitVec 1)
  /-- FSQRT (R177): Writes the correctly rounded square root of s_a to s_d. -/
  | fsqrt (d a : BitVec 5) (p : BitVec 1)
  /-- FMIN (R177): Writes the floating minimum of s_a and s_b, as R75 defines it. -/
  | fmin (d a b : BitVec 5) (p : BitVec 1)
  /-- FMAX (R177): Writes the floating maximum of s_a and s_b, as R75 defines it. -/
  | fmax (d a b : BitVec 5) (p : BitVec 1)
  /-- FEQ (R177): Writes 1 to s_d if the two floating values are equal, else 0. -/
  | feq (d a b : BitVec 5) (p : BitVec 1)
  /-- FLT (R177): Writes 1 to s_d if s_a is below s_b, else 0. -/
  | flt (d a b : BitVec 5) (p : BitVec 1)
  /-- FLE (R177): Writes 1 to s_d if s_a is at most s_b, else 0. -/
  | fle (d a b : BitVec 5) (p : BitVec 1)
  /-- FCVT_FF (R178): Converts between FP32 and FP64, the target named by P. -/
  | fcvtFf (d a : BitVec 5) (p : BitVec 1)
  /-- FCVT_FS (R178): Converts a floating value to signed INT64 by R78. -/
  | fcvtFs (d a : BitVec 5) (p : BitVec 1)
  /-- FCVT_FU (R178): Converts a floating value to unsigned INT64 by R78. -/
  | fcvtFu (d a : BitVec 5) (p : BitVec 1)
  /-- FCVT_SF (R178): Converts a signed INT64 to a floating value, rounding by RM. -/
  | fcvtSf (d a : BitVec 5) (p : BitVec 1)
  /-- FCVT_UF (R178): Converts an unsigned INT64 to a floating value, rounding by RM. -/
  | fcvtUf (d a : BitVec 5) (p : BitVec 1)
  /-- FCLASS (R179): Writes a one-hot class mask of s_a to s_d. -/
  | fclass (d a : BitVec 5) (p : BitVec 1)
  /-- LDACQ (R187): Loads s_d from the address in s_a as an acquire at the given scope. -/
  | ldacq (d a : BitVec 5) (w : BitVec 2) (s : BitVec 3)
  /-- STREL (R187): Stores s_b to the address in s_a as a release at the given scope. -/
  | strel (a b : BitVec 5) (w : BitVec 2) (s : BitVec 3)
  /-- FENCE (R188): Orders the selected kinds of the hart's accesses at the given scope, after older vector instructions have committed. -/
  | fence (k : BitVec 5) (s : BitVec 3)
  /-- AMOADD (R189): Atomically adds s_b into memory at the home and returns the old value. -/
  | amoadd (d a b : BitVec 5) (w o : BitVec 2) (s : BitVec 3)
  /-- AMOAND (R189): Atomic bitwise AND at the home. -/
  | amoand (d a b : BitVec 5) (w o : BitVec 2) (s : BitVec 3)
  /-- AMOOR (R189): Atomic bitwise OR at the home. -/
  | amoor (d a b : BitVec 5) (w o : BitVec 2) (s : BitVec 3)
  /-- AMOXOR (R189): Atomic bitwise XOR at the home. -/
  | amoxor (d a b : BitVec 5) (w o : BitVec 2) (s : BitVec 3)
  /-- AMOMIN (R189): Atomic signed minimum at the home. -/
  | amomin (d a b : BitVec 5) (w o : BitVec 2) (s : BitVec 3)
  /-- AMOMAX (R189): Atomic signed maximum at the home. -/
  | amomax (d a b : BitVec 5) (w o : BitVec 2) (s : BitVec 3)
  /-- AMOMINU (R189): Atomic unsigned minimum at the home. -/
  | amominu (d a b : BitVec 5) (w o : BitVec 2) (s : BitVec 3)
  /-- AMOMAXU (R189): Atomic unsigned maximum at the home. -/
  | amomaxu (d a b : BitVec 5) (w o : BitVec 2) (s : BitVec 3)
  /-- AMOSWAP (R189): Atomically swaps s_b into memory. -/
  | amoswap (d a b : BitVec 5) (w o : BitVec 2) (s : BitVec 3)
  /-- AMOCAS (R191): Atomically writes s_b when memory equals the comparand in s_d. -/
  | amocas (d a b : BitVec 5) (w o : BitVec 2) (s : BitVec 3)
  /-- AMOFADD (R190): Atomic floating add at the home with the issuing hart's RM and FTZ16, raising no flag. -/
  | amofadd (d a b : BitVec 5) (w o : BitVec 2) (s : BitVec 3)
  /-- AMOFMIN (R190): Atomic floating minimum at the home, as R75 defines it. -/
  | amofmin (d a b : BitVec 5) (w o : BitVec 2) (s : BitVec 3)
  /-- AMOFMAX (R190): Atomic floating maximum at the home, as R75 defines it. -/
  | amofmax (d a b : BitVec 5) (w o : BitVec 2) (s : BitVec 3)
  /-- CSRR (R194): Reads a CSR into s_d, waiting on the vector queue as R29 states. -/
  | csrr (d : BitVec 5) (c : BitVec 12)
  /-- CSRW (R194): Writes s_a to a CSR, with each field acting by its access code. -/
  | csrw (a : BitVec 5) (c : BitVec 12)
  /-- CSRX (R194): Reads a CSR into s_d and then writes s_a to it, with no other event of the hart between. -/
  | csrx (d a : BitVec 5) (c : BitVec 12)
  /-- TRAP (R195): Traps with cause TRAP, with XTVAL holding the immediate. -/
  | trap (i : BitVec 12)
  /-- BRK (R195): Traps with cause BREAKPOINT, with XTVAL holding the immediate. -/
  | brk (i : BitVec 12)
  /-- WAITW (R197): Waits until the doubleword at s_a differs from s_d, then writes the value seen to s_d as a system-scope acquire. -/
  | waitw (d a : BitVec 5)
  /-- VADD (R211): Element-wise integer add. -/
  | vadd (d a b : BitVec 5) (h : BitVec 2)
  /-- VSUB (R211): Element-wise integer subtract, a - b. -/
  | vsub (d a b : BitVec 5) (h : BitVec 2)
  /-- VRSUB (R211): Element-wise reverse subtract, b - a. -/
  | vrsub (d a b : BitVec 5) (h : BitVec 2)
  /-- VMUL (R211): Element-wise low product. -/
  | vmul (d a b : BitVec 5) (h : BitVec 2)
  /-- VMULH (R211): Element-wise signed high product. -/
  | vmulh (d a b : BitVec 5) (h : BitVec 2)
  /-- VMULHU (R211): Element-wise unsigned high product. -/
  | vmulhu (d a b : BitVec 5) (h : BitVec 2)
  /-- VMADD (R211): Element-wise a × b + vd into vd. -/
  | vmadd (d a b : BitVec 5) (h : BitVec 2)
  /-- VDIV (R211): Element-wise signed quotient. -/
  | vdiv (d a b : BitVec 5) (h : BitVec 2)
  /-- VDIVU (R211): Element-wise unsigned quotient. -/
  | vdivu (d a b : BitVec 5) (h : BitVec 2)
  /-- VREM (R211): Element-wise signed remainder. -/
  | vrem (d a b : BitVec 5) (h : BitVec 2)
  /-- VMIN (R211): Element-wise signed minimum. -/
  | vmin (d a b : BitVec 5) (h : BitVec 2)
  /-- VMAX (R211): Element-wise signed maximum. -/
  | vmax (d a b : BitVec 5) (h : BitVec 2)
  /-- VMINU (R211): Element-wise unsigned minimum. -/
  | vminu (d a b : BitVec 5) (h : BitVec 2)
  /-- VMAXU (R211): Element-wise unsigned maximum. -/
  | vmaxu (d a b : BitVec 5) (h : BitVec 2)
  /-- VAND (R211): Element-wise bitwise AND, with a RAW result. -/
  | vand (d a b : BitVec 5) (h : BitVec 2)
  /-- VOR (R211): Element-wise bitwise OR, with a RAW result. -/
  | vor (d a b : BitVec 5) (h : BitVec 2)
  /-- VXOR (R211): Element-wise bitwise XOR, with a RAW result. -/
  | vxor (d a b : BitVec 5) (h : BitVec 2)
  /-- VSHL (R211): Element-wise shift left. -/
  | vshl (d a b : BitVec 5) (h : BitVec 2)
  /-- VSHR (R211): Element-wise logical shift right. -/
  | vshr (d a b : BitVec 5) (h : BitVec 2)
  /-- VSAR (R211): Element-wise arithmetic shift right. -/
  | vsar (d a b : BitVec 5) (h : BitVec 2)
  /-- VSADD (R211): Element-wise signed saturating add, raising SAT when it clamps. -/
  | vsadd (d a b : BitVec 5) (h : BitVec 2)
  /-- VSADDU (R211): Element-wise unsigned saturating add. -/
  | vsaddu (d a b : BitVec 5) (h : BitVec 2)
  /-- VSSUB (R211): Element-wise signed saturating subtract. -/
  | vssub (d a b : BitVec 5) (h : BitVec 2)
  /-- VSSUBU (R211): Element-wise unsigned saturating subtract. -/
  | vssubu (d a b : BitVec 5) (h : BitVec 2)
  /-- VABS (R211): Element-wise absolute value. -/
  | vabs (d a : BitVec 5)
  /-- VCLZ (R211): Element-wise count of leading zeros. -/
  | vclz (d a : BitVec 5)
  /-- VPOPC (R211): Element-wise population count. -/
  | vpopc (d a : BitVec 5)
  /-- VCMP (R212): Integer comparison under the variant condition, writing a predicate. -/
  | vcmp (d : BitVec 3) (a b : BitVec 5) (h : BitVec 2) (c : BitVec 3)
  /-- VSEL (R213): Selects a[i] or b per bit of the selecting predicate. -/
  | vsel (d a b : BitVec 5) (h : BitVec 2) (p : BitVec 3)
  /-- VMV (R214): Moves b into vd, tagged RAW. -/
  | vmv (d b : BitVec 5) (h : BitVec 2)
  /-- VID (R214): Writes each element's index modulo 2^EW1. -/
  | vid (d : BitVec 5)
  /-- VEXT (R215): Extracts element idx of va into s_d, extended by the tag of va. -/
  | vext (d a b : BitVec 5) (h : BitVec 2)
  /-- VINS (R215): Inserts s_a into element idx of vd. -/
  | vins (d a b : BitVec 5) (h : BitVec 2)
  /-- VWIDEN (R216): Widens b from EW2 to EW1 by sign extension, zero extension or exact float conversion. -/
  | vwiden (d b : BitVec 5) (k : BitVec 3)
  /-- VNSHR (R217): Narrowing shift right with one rounding and optional saturation. -/
  | vnshr (d a b : BitVec 5) (h : BitVec 2) (k : BitVec 3)
  /-- VFADD (R218): Element-wise floating add. -/
  | vfadd (d a b : BitVec 5) (h : BitVec 2)
  /-- VFSUB (R218): Element-wise floating subtract. -/
  | vfsub (d a b : BitVec 5) (h : BitVec 2)
  /-- VFMUL (R218): Element-wise floating multiply. -/
  | vfmul (d a b : BitVec 5) (h : BitVec 2)
  /-- VFMA (R218): Element-wise fused a × b + vd. -/
  | vfma (d a b : BitVec 5) (h : BitVec 2)
  /-- VFNMA (R218): Element-wise fused -(a × b) + vd. -/
  | vfnma (d a b : BitVec 5) (h : BitVec 2)
  /-- VFMS (R218): Element-wise fused a × b - vd. -/
  | vfms (d a b : BitVec 5) (h : BitVec 2)
  /-- VFDIV (R218): Element-wise correctly rounded division. -/
  | vfdiv (d a b : BitVec 5) (h : BitVec 2)
  /-- VFSQRT (R218): Element-wise correctly rounded square root. -/
  | vfsqrt (d a : BitVec 5)
  /-- VFMIN (R218): Element-wise floating minimum, as R75 defines it. -/
  | vfmin (d a b : BitVec 5) (h : BitVec 2)
  /-- VFMAX (R218): Element-wise floating maximum, as R75 defines it. -/
  | vfmax (d a b : BitVec 5) (h : BitVec 2)
  /-- VFSGN (R219): Sign copy, negate or XOR on the bits of each element. -/
  | vfsgn (d a b : BitVec 5) (h : BitVec 2) (k : BitVec 3)
  /-- VFRCP (R220): Element-wise approximate reciprocal. -/
  | vfrcp (d a : BitVec 5)
  /-- VFRSQ (R220): Element-wise approximate reciprocal square root. -/
  | vfrsq (d a : BitVec 5)
  /-- VFEXP2 (R220): Element-wise approximate 2^a. -/
  | vfexp2 (d a : BitVec 5)
  /-- VFLOG2 (R220): Element-wise approximate log2 a. -/
  | vflog2 (d a : BitVec 5)
  /-- VFCVT (R222): Converts each element from EW2 to EW1 by the kind its variant selects. -/
  | vfcvt (d a : BitVec 5) (k : BitVec 3)
  /-- VFCLASS (R223): Writes the class of each element as an integer. -/
  | vfclass (d a : BitVec 5)
  /-- VFCMP (R224): Floating comparison under the variant condition, writing a predicate. -/
  | vfcmp (d : BitVec 3) (a b : BitVec 5) (h : BitVec 2) (c : BitVec 3)
  /-- VMULM (R225): Mixed-width exact integer product at twice the wider width. -/
  | vmulm (d a b : BitVec 5) (h : BitVec 2) (k : BitVec 3)
  /-- VFMAM (R226): Mixed-width fused multiply-add into an FP32 or FP64 accumulator. -/
  | vfmam (d a b : BitVec 5) (h : BitVec 2)
  /-- VREDSUM (R227): Wrapping integer sum reduction from a start value. -/
  | vredsum (d a b : BitVec 5) (h : BitVec 1)
  /-- VREDMIN (R227): Signed minimum reduction. -/
  | vredmin (d a b : BitVec 5) (h : BitVec 1)
  /-- VREDMAX (R227): Signed maximum reduction. -/
  | vredmax (d a b : BitVec 5) (h : BitVec 1)
  /-- VREDMINU (R227): Unsigned minimum reduction. -/
  | vredminu (d a b : BitVec 5) (h : BitVec 1)
  /-- VREDMAXU (R227): Unsigned maximum reduction. -/
  | vredmaxu (d a b : BitVec 5) (h : BitVec 1)
  /-- VREDAND (R227): Bitwise AND reduction. -/
  | vredand (d a b : BitVec 5) (h : BitVec 1)
  /-- VREDOR (R227): Bitwise OR reduction. -/
  | vredor (d a b : BitVec 5) (h : BitVec 1)
  /-- VREDXOR (R227): Bitwise XOR reduction. -/
  | vredxor (d a b : BitVec 5) (h : BitVec 1)
  /-- VFREDSUM (R91): Floating sum reduction, in tree or sequential order by MODE.ORD. -/
  | vfredsum (d a b : BitVec 5) (h : BitVec 1)
  /-- VFREDMIN (R227): Floating minimum reduction, as R75 defines it. -/
  | vfredmin (d a b : BitVec 5) (h : BitVec 1)
  /-- VFREDMAX (R227): Floating maximum reduction, as R75 defines it. -/
  | vfredmax (d a b : BitVec 5) (h : BitVec 1)
  /-- VSLIDEUP (R228): Slides va's elements up by an offset. -/
  | vslideup (d a b : BitVec 5) (h : BitVec 2)
  /-- VSLIDEDN (R228): Slides va's elements down by an offset, zero-filling beyond VLMAX. -/
  | vslidedn (d a b : BitVec 5) (h : BitVec 2)
  /-- VPERM (R229): Permutes va by the index vector vb. -/
  | vperm (d a b : BitVec 5)
  /-- VCOMPRESS (R230): Packs the active elements of va to the front of vd. -/
  | vcompress (d a : BitVec 5)
  /-- VEXPAND (R230): Spreads consecutive elements of va into the active positions of vd. -/
  | vexpand (d a : BitVec 5)
  /-- VSCAN (R231): Inclusive running sum over the active elements, integer or floating. -/
  | vscan (d a : BitVec 5) (k : BitVec 1)
  /-- VTOPK (R232): Writes the k largest active values and their INT32 indices, filling with sentinels. -/
  | vtopk (d a b : BitVec 5) (k : BitVec 1)
  /-- PAND (R234): Predicate AND. -/
  | pand (d a b : BitVec 3)
  /-- POR (R234): Predicate OR. -/
  | por (d a b : BitVec 3)
  /-- PXOR (R234): Predicate XOR. -/
  | pxor (d a b : BitVec 3)
  /-- PANDN (R234): Predicate AND NOT. -/
  | pandn (d a b : BitVec 3)
  /-- PCNT (R235): Counts the active set bits of a predicate into s_d. -/
  | pcnt (d : BitVec 5) (a : BitVec 3)
  /-- PFIRST (R235): Writes the lowest active set bit index of a predicate, or all ones when there is none. -/
  | pfirst (d : BitVec 5) (a : BitVec 3)
  /-- PSETN (R235): Sets the predicate bits below s_a. -/
  | psetn (d : BitVec 3) (a : BitVec 5)
  /-- PMOV_PP (R236): Copies one predicate to another. -/
  | pmovPp (d a : BitVec 3)
  /-- PMOV_PV (R236): Moves a predicate into a vector register or pair, tagged PRED. -/
  | pmovPv (d : BitVec 5) (a : BitVec 3)
  /-- PMOV_VP (R236): Moves a vector register or pair into a predicate. -/
  | pmovVp (d : BitVec 3) (a : BitVec 5)
  /-- VQUANT (R322): Quantises a wide vector to a narrow format by units, electing outliers into the grout list and writing scales. -/
  | vquant (d a b : BitVec 5)
  /-- VDEQ (R324): Converts a narrow, scaled and possibly grout-bound operand to a wide floating format. -/
  | vdeq (d a b : BitVec 5)
  /-- VSCALE (R325): Multiplies each element by a power of two taken from the side register's scales. -/
  | vscale (d a b : BitVec 5)
  /-- VLD (R240): Unit-stride vector load. -/
  | vld (d a o : BitVec 5) (r : BitVec 2) (s : BitVec 3)
  /-- VLDS (R240): Strided vector load. -/
  | vlds (d a b : BitVec 5) (r : BitVec 2) (s : BitVec 3)
  /-- VLDG (R242): Segment load of F fields per element into consecutive register groups. -/
  | vldg (d a o : BitVec 5) (f : BitVec 3) (r : BitVec 2) (s : BitVec 3)
  /-- VLDX (R240): Indexed vector gather load. -/
  | vldx (d a b : BitVec 5) (r : BitVec 2) (s : BitVec 3)
  /-- VLDFF (R243): First-fault unit load that trims VL at a later faulting element. -/
  | vldff (d a o : BitVec 5) (r : BitVec 2) (s : BitVec 3)
  /-- VST (R240): Unit-stride vector store of the active elements. -/
  | vst (d a o : BitVec 5) (r : BitVec 2) (s : BitVec 3)
  /-- VSTS (R240): Strided vector store. -/
  | vsts (d a b : BitVec 5) (r : BitVec 2) (s : BitVec 3)
  /-- VSTG (R242): Segment store of F fields per element. -/
  | vstg (d a o : BitVec 5) (f : BitVec 3) (r : BitVec 2) (s : BitVec 3)
  /-- VSTX (R240): Indexed vector scatter store. -/
  | vstx (d a b : BitVec 5) (r : BitVec 2) (s : BitVec 3)
  /-- VSTXA (R244): Indexed atomic scatter-add at the home, element by element. -/
  | vstxa (d a b : BitVec 5) (r : BitVec 2) (s : BitVec 3)
  /-- VSTXC (R245): Indexed non-atomic scatter-add for conflict-free index sets. -/
  | vstxc (d a b : BitVec 5) (r : BitVec 2) (s : BitVec 3)
  /-- PLD (R246): Loads bits 0 to VL-1 of a predicate from memory. -/
  | pld (d : BitVec 3) (a o : BitVec 5) (r : BitVec 2) (s : BitVec 3)
  /-- PST (R246): Stores a predicate to memory as ⌈VL/8⌉ bytes. -/
  | pst (d : BitVec 3) (a o : BitVec 5) (r : BitVec 2) (s : BitVec 3)
  /-- SBIND (R248): Binds v28-v31 to a stream descriptor, at position 0. -/
  | sbind (d : BitVec 2) (a : BitVec 5)
  /-- SUNBIND (R248): Drains a write stream, discards read-ahead and unbinds the register. -/
  | sunbind (d : BitVec 2)
  /-- SPOS (R248): Writes a stream's position and fault bit to s_d. -/
  | spos (d : BitVec 5) (a : BitVec 2)
  /-- MZERO (R308): Zeroes the active accumulator elements from MSTART on. -/
  | mzero (d : BitVec 5)
  /-- MMA (R309): Performs one exact matrix step from register operands into the accumulator tile, with one rounding per element. -/
  | mma (d a b : BitVec 5)
  /-- MMAM (R313): Performs KTOT/K matrix steps with operands read from memory through descriptors. -/
  | mmam (d a b : BitVec 5)
  /-- MDRAIN (R316): Stores accumulator rows with conversion, optionally merging the largest magnitude into a maximum word. -/
  | mdrain (d a b : BitVec 5) (f : BitVec 6) (m : BitVec 5)
  /-- MPERT (R319): Arms a one-shot perturbation of the next MMA or MMAM step. -/
  | mpert (a b : BitVec 5)
  /-- TLDEF (R251): Defines a tile in the tile table of the window that holds s_a. -/
  | tldef (a b : BitVec 5)
  /-- TLEXP (R251): Starts a new tile phase expecting n counted bytes. -/
  | tlexp (a b : BitVec 5)
  /-- TLWAIT (R251): Waits until the tile is READY or DRAINING in the given phase. -/
  | tlwait (a b : BitVec 5)
  /-- TLREL (R251): Removes a tile entry. -/
  | tlrel (a : BitVec 5)
  /-- CPY (R255): Issues a copy command of up to 9 dimensions to the core's copy engine. -/
  | cpy (a b : BitVec 5)
  /-- CPYP (R255): Issues a permuting copy command. -/
  | cpyp (a b : BitVec 5)
  /-- CPYG (R256): Issues an indexed gather copy command. -/
  | cpyg (a b : BitVec 5)
  /-- CPYS (R256): Issues an indexed scatter copy command. -/
  | cpys (a b : BitVec 5)
  /-- MSHQ (R286): Binds a stream register to neighbour data of a range of mesh identities. -/
  | mshq (d : BitVec 2) (a b : BitVec 5)
  /-- MSHGL (R289): Queues a command that builds a gather list of faces. -/
  | mshgl (a : BitVec 5)
  /-- MSHREF (R291): Queues a command that refines the marked leaves into eight children each. -/
  | mshref (a : BitVec 5)
  /-- MSHCRS (R292): Queues a command that merges groups of eight marked sibling leaves. -/
  | mshcrs (a : BitVec 5)
  /-- MSHREN (R293): Queues a command that repacks the part, optionally rebuilding the ghost layer. -/
  | mshren (a : BitVec 5)
  /-- MSHCUT (R295): Queues a command that assigns parts along the curve from weights. -/
  | mshcut (a : BitVec 5)
  /-- MSHMIG (R296): Queues a command that migrates a part's cells to a destination part. -/
  | mshmig (a : BitVec 5)
  /-- MSHWAIT (R297): Waits for a topology command's DONE word and traps MESH on a non-zero status. -/
  | mshwait (a : BitVec 5)
  /-- CLRGEN (R298): Queues a colouring of a gather list into classes. -/
  | clrgen (a : BitVec 5)
  /-- BINAPP (R301): Reserves chunk space and appends (index, value) pairs to the bins of their regions. -/
  | binapp (d a b : BitVec 5)
  /-- BINPLAY (R302): Queues a command that applies one region's bin to the target through S3 staging. -/
  | binplay (a : BitVec 5)
  /-- BINWAIT (R297): Waits for a colouring or binning command's DONE word. -/
  | binwait (a : BitVec 5)
  /-- TAGSET (R261): Sets a mortar tag for a write declaration's tile, as a device-scope release. -/
  | tagset (a : BitVec 5)
  /-- TAGTEST (R262): Writes whether a read declaration's tile is ready, acquiring it when it is. -/
  | tagtest (d a : BitVec 5)
  /-- RGET (R263): Gathers elements from devices named in the indices through the hods. -/
  | rget (d a b : BitVec 5)
  /-- RPUT (R265): Fire-and-forget store of the active elements to local or peer memory. -/
  | rput (d a : BitVec 5)
  /-- RATOM (R266): Remote atomic at the home at system scope, through the hods. -/
  | ratom (d a b : BitVec 5) (c : BitVec 4) (w : BitVec 1)
  /-- CRED (R269): Issues a collective reduction across the listed devices. -/
  | cred (a : BitVec 5)
  /-- CBCAST (R269): Issues a collective broadcast from the root. -/
  | cbcast (a : BitVec 5)
  /-- VSETL (R33): Requests a vector configuration with AVL from s_a, grants VL and closes the course. -/
  | vsetl (d a : BitVec 5) (g e f : BitVec 3)
  /-- VSETLI (R200): Requests a vector configuration with a 10-bit immediate AVL. -/
  | vsetli (d : BitVec 5) (v : BitVec 10) (g e f : BitVec 3)
  /-- SETMODE (R201): Writes MODE from the immediate and returns the old MODE. -/
  | setmode (d : BitVec 5) (l : BitVec 4) (m : BitVec 15)
  /-- SETMODEV (R201): Writes MODE from s_a and returns the old MODE. -/
  | setmodev (d a : BitVec 5)
  /-- LDHI (R176): Replaces 16-bit chunk q of s_d with the immediate and leaves the other bits unchanged. -/
  | ldhi (d : BitVec 5) (q : BitVec 2) (i : BitVec 16)
  /-- ADDPC (R176): Writes PC + sext(imm) × 4 to s_d. -/
  | addpc (d : BitVec 5) (i : BitVec 16)
  /-- JAL (R182): Writes PC + 4 to s31 and jumps by the word displacement. -/
  | jal (i : BitVec 26)
  /-- JALR (R182): Jumps to s_a + sext(imm) with bits [1:0] cleared and writes PC + 4 to s_d. -/
  | jalr (d a : BitVec 5) (i : BitVec 16)
  /-- REP (R44): Repeats the next word COUNT times, stepping the selected register fields. -/
  | rep (c : BitVec 6) (s : BitVec 3) (t : BitVec 2)
  /-- ERET (R196): Waits for older vector instructions to commit, then returns to XEPC, restores PRIV and clears XT. -/
  | eret
  /-- YIELD (R198): Gives the hart's next issue turn to the next running hart of the core. -/
  | yield
  /-- VSYNC (R199): Waits until every older vector instruction of the hart has committed. -/
  | vsync
  /-- TEND (R260): Ends the hart's block after commits and stream drains, as a device-scope release. -/
  | tend
  /-- RFLUSH (R267): Waits until earlier remote operations have performed and reports any recorded failure. -/
  | rflush
  /-- MICRO_OPERATION_ISSUE (R17): An element-group micro-operation issues to a free lane cluster once its source groups are ready. -/
  | microOperationIssue (n j : Nat) (e : DataError)
  /-- VECTOR_COMMIT (R19): A vector instruction commits in program order once all its element groups have completed without fault. -/
  | vectorCommit (n j : Nat) (w : WriteBack)
  /-- HELD_INSTRUCTION_RETIRE (R16): A held scalar instruction retires when the older vector instructions commit, and its stores perform. -/
  | heldInstructionRetire (n : Nat)
  /-- HART_WAKE (R20): A waiting hart returns to RUNNING when its awaited condition holds. -/
  | hartWake (n : Nat)
  /-- WAITW_RECHECK (R197): After 65,536 clocks a waiting WAITW, MSHWAIT or BINWAIT re-reads its word. -/
  | waitwRecheck (n : Nat)
  /-- BLOCK_DISPATCH (R330): The die dispatcher serves a hart's work request with a ready block by the steps of R330. -/
  | blockDispatch (n : Nat)
  /-- COMMAND_CLAIM_REGISTRATION (R132): An accepted engine command issues, registering its claims once a free claim and any awaited source tile are available. -/
  | commandClaimRegistration (e : EngineKind) (k : Nat)
  /-- COPY_COMMAND_RUN (R255): The copy engine performs a command's element writes and padding. -/
  | copyCommandRun (core : Nat)
  /-- TILE_WATCHDOG_EXPIRY (R114): A FILLING tile's TIMER reaching TLHANG moves the tile to FAULT with WHY 1. -/
  | tileWatchdogExpiry (lv : Level) (k base : Nat)
  /-- TOPOLOGY_COMMAND_RUN (R280): The topology engine runs a queued mesh command and writes DONE with its status. -/
  | topologyCommandRun (die : Nat)
  /-- COLOURING_COMMAND_RUN (R298): The colouring unit runs CLRGEN and writes PERM, COUNTS and DONE. -/
  | colouringCommandRun (die : Nat)
  /-- BIN_APPEND_WRITE (R301): The binning engine writes the reserved appended pairs into chunks under claims. -/
  | binAppendWrite (die : Nat)
  /-- BINNING_COMMAND_RUN (R302): The binning engine replays a region's chunks through S3 and writes the region back. -/
  | binningCommandRun (die : Nat)
  /-- HOD_TILE_TRANSFER (R270): A hod walks one 4 KiB tile of a remote operation or collective over the Beydin ports. -/
  | hodTileTransfer (t : TileData)
  /-- REMOTE_REQUEST_AT_PEER (R263): A peer receives a packed index list or remote operation, translates it for the context and answers. -/
  | remoteRequestAtPeer (src : BitVec 8) (ctx : Nat) (q : PeerRequest)
  /-- PEER_ACCESS_ARRIVAL (R111): A load, store or atomic arrives at a Beydin port and is checked by ATPORT. -/
  | peerAccessArrival (src : BitVec 8) (ctx : Nat) (q : PeerAccess)
  /-- COLLECTIVE_COMPLETE (R269): A collective member writes DSTA and its DONE word once the parameters have been checked and the data has moved. -/
  | collectiveComplete (id : Nat) (agree : Bool) (parts : List (Nat × List Byte))
  /-- COLLECTIVE_TIMEOUT (R269): A member whose partners have not joined within 2^31 clocks ends with status 0x07. -/
  | collectiveTimeout (id : Nat)
  /-- KICK (R361): A write to KICK sets the pending bits of the slots written as 1. -/
  | kick (w : BitVec 4) (bits : Word)
  /-- TAKE (R361): A control-hart write to TAKE clears the pending bits and sets the journal's TAKEN bits. -/
  | take (w : BitVec 4) (bits : Word)
  /-- SLOT_TAKE (R365): The primary takes a pending slot, assigns a generation, snapshots the graph and starts the replay. -/
  | slotTake (slot : Nat)
  /-- KERNEL_NODE_LAUNCH (R370): An eligible kernel node sends launch packets to each die with a non-empty share. -/
  | kernelNodeLaunch (slot node : Nat)
  /-- LAUNCH_PACKET (R373): A die dispatcher accepts a launch packet, ignoring duplicates, and forms the range task. -/
  | launchPacket (die slot node : Nat)
  /-- COPY_NODE (R370): A copy node's command goes to the least-loaded copy engine of the context on its die. -/
  | copyNode (slot node : Nat)
  /-- CONDITIONAL_NODE (R370): Reads WORDA and enters the then or else range. -/
  | conditionalNode (slot node : Nat)
  /-- SWITCH_NODE (R370): Reads WORDA and enters case min(k, NCASE-1). -/
  | switchNode (slot node : Nat)
  /-- LOOP_NODE (R370): Reads WORDA and enters or skips the loop body. -/
  | loopNode (slot node : Nat)
  /-- LOOP_BODY_END (R371): On body completion, re-reads WORDA and re-enters the body or completes the loop. -/
  | loopBodyEnd (slot node : Nat)
  /-- EVENT_WAIT_NODE (R370): Reads EVA repeatedly, at least every 4,096 clocks, until it differs from VALUE. -/
  | eventWaitNode (slot node : Nat)
  /-- EVENT_SIGNAL_NODE (R370): Stores VALUE to EVA as a system release and optionally sends MSI-X. -/
  | eventSignalNode (slot node : Nat)
  /-- SELF_TEST_NODE (R372): Runs the selected in-field test on the named cores of the context. -/
  | selfTestNode (slot node : Nat)
  /-- END_NODE (R370): Skips every node not yet launched. -/
  | endNode (slot node : Nat)
  /-- NODE_COMPLETION (R336): A node completes, its remaining mortar entries are set and its completion is reported and journaled. -/
  | nodeCompletion (slot node : Nat)
  /-- COMPLETION_ACKNOWLEDGE (R377): The primary acknowledges a held node completion report after journaling it. -/
  | completionAcknowledge (die slot node : Nat)
  /-- REPLAY_END (R375): After remote operations perform, the front end writes the completion record and optionally sends MSI-X. -/
  | replayEnd (slot : Nat)
  /-- HEARTBEAT_TIMEOUT (R378): BEAT unchanged for 2^22 clocks starts the standby's take-over. -/
  | heartbeatTimeout
  /-- CONTROL_HART_MEMORY_ERROR (R395): An uncorrectable control-hart memory error is FATAL for that hart. -/
  | controlHartMemoryError (n : Nat) (addr : Word) (e : CtlError)
  /-- TAKEOVER_TIMEOUT (R378): A take-over not done within 2^18 clocks is a front-end FATAL and fails every context. -/
  | takeoverTimeout
  /-- CTXKICK (R380): Applies a context's staging record to its live record. -/
  | ctxkick (bits : Word)
  /-- INVAL (R381): Starts invalidation of every cached translation and access-table entry of the context. -/
  | inval (bits : Word)
  /-- TRANSLATION_INVALIDATION_COMPLETE (R381): INVALBUSY clears once no cache of the device holds an entry of the context. -/
  | translationInvalidationComplete (ctx : Nat)
  /-- PREEMPT (R383): The collector stops a context's units and saves their state. -/
  | preempt (bits : Word)
  /-- PREEMPT_ACKNOWLEDGE (R382): A unit acknowledges its stop at its stop unit, and its record is saved. -/
  | preemptAcknowledge (ctx : Nat) (u : StopUnit)
  /-- PREEMPT_TIMEOUT (R383): A missing acknowledgement after 2^24 clocks fails the context. -/
  | preemptTimeout (ctx : Nat) (u : StopUnit)
  /-- RESUME (R383): Restores a stopped context's records to their units and runs it. -/
  | resume (bits : Word)
  /-- INBOUND_POSTED_WRITE (R400): The ordering point numbers a host posted write and sends its granule pieces for staging at their homes. -/
  | inboundPostedWrite (port fn : Nat) (tgt : HostTarget) (data : List Byte)
  /-- INBOUND_GO (R400): A home receives a go, performs the write's staged pieces at system scope and sends an acknowledgement. -/
  | inboundGo (port num : Nat) (go : Go)
  /-- INBOUND_ACKNOWLEDGEMENT (R400): The ordering point receives an acknowledgement and sends the goes it allows. -/
  | inboundAcknowledgement (port num home : Nat)
  /-- HOST_READ_REQUEST (R388): A host read completes after every earlier posted write of the port has been acknowledged. -/
  | hostReadRequest (port fn : Nat) (tgt : HostTarget) (len : Nat)
  /-- RELEASE_RECORD (R428): Clears V of a CONTAINED or FATAL machine-check record. -/
  | releaseRecord (bank idx : Nat)
  /-- RETIRE_CHANNEL (R428): Declares a channel failed. -/
  | retireChannel (die ch : Nat)
  /-- RELEASE_RESERVE (R426): Releases a die's retirement reserve in mode 0. -/
  | releaseReserve (die : Nat)
  /-- SET_PATROL (R428): Sets PATROL from the next period. -/
  | setPatrol (die hours : Nat)
  /-- SET_SELFTEST (R428): Sets STPERIOD. -/
  | setSelftest (period : Nat)
  /-- SET_RELAYSHARE (R428): Sets RELAYSHARE from the next moved granule. -/
  | setRelayshare (die share : Nat)
  /-- READ_COVERAGE (R428): Returns a die's coverage bitmap. -/
  | readCoverage (die : Nat)
  /-- SET_DEVICE_NUMBER (R390): Assigns the device number when no context is active, stopping or stopped. -/
  | setDeviceNumber (d : Nat)
  /-- WRITE_ROUTE (R391): Writes an entry of both route tables. -/
  | writeRoute (d mask : Nat)
  /-- SPDM_REQUEST (R393): An SPDM request is answered by the module as responder. -/
  | spdmRequest (q : SpdmRequest)
  /-- FIRMWARE_UPDATE (R436): A PLDM update writes and verifies an image into the inactive bank and marks it pending. -/
  | firmwareUpdate (q : UpdateRequest)
  /-- SVN_ADVANCE (R436): After 2^36 clocks of running without front-end FATAL, the fused minimum SVN rises to the image's SVN. -/
  | svnAdvance
  /-- INJECT_CORRECTABLE (R415): Arms KIND 0 to flip correctable bits in the next CNT writes to the block. -/
  | injectCorrectable (u off : Nat) (mask : Word) (cnt : BitVec 8)
  /-- INJECT_UNCORRECTABLE (R415): Arms KIND 1 to flip uncorrectable bits in the next CNT writes. -/
  | injectUncorrectable (u off : Nat) (mask : Word) (cnt : BitVec 8)
  /-- INJECT_POISON (R415): Arms KIND 2 to store the next CNT writes as poisoned. -/
  | injectPoison (u off : Nat) (cnt : BitVec 8)
  /-- INJECT_FAIL_CHANNEL (R415): KIND 3 fails the channel CHAN at once. -/
  | injectFailChannel (u ch : Nat)
  /-- CHANNEL_FAILURE (R422): A channel is declared failed and the die's memory state advances. -/
  | channelFailure (die ch : Nat)
  /-- RELAY_GRANULE_MOVE (R424): The controller moves granules from the modulo-31 to the modulo-29 layout, recording 0x24 at the end. -/
  | relayGranuleMove (die count : Nat)
  /-- SPARE_REBUILD (R423): The spare is rebuilt into a failed channel's logical position, ending in mode 4. -/
  | spareRebuild (die : Nat)
  /-- PATROL_PERIOD_START (R420): At each PATROL period the coverage bitmap is cleared. -/
  | patrolPeriodStart (die : Nat)
  /-- PATROL_READ (R420): The controller patrol-reads uncovered regions and parity, handling findings by R419. -/
  | patrolRead (die region : Nat)
  /-- ALERT_BACKOFF (R421): An activation-count alert back-off is serviced, after postponed refreshes when at the limit. -/
  | alertBackoff (die bank postponed : Nat)
  /-- RETENTION_ENTRY (R418): An idle scratchpad array is re-encoded and its voltage is lowered. -/
  | retentionEntry (lv : Level) (k arr : Nat)
  /-- RETENTION_EXIT (R418): An array in retention is restored for a waiting access, recording corrections as 0x12. -/
  | retentionExit (lv : Level) (k arr corrected : Nat)
  /-- HOUSEKEEPER_SELF_TEST (R417): The housekeeper starts a periodic test of the eligible idle core tested longest ago. -/
  | housekeeperSelfTest (core : Nat) (full : Bool)
  /-- SELF_TEST_END (R416): A test ends; a failure records 0x40 and fences the core. -/
  | selfTestEnd (core : Nat) (pass : Bool) (block : Nat)
  /-- SELF_TEST_LIMIT (R416): A test reaching its node's LIMIT counts as a failure. -/
  | selfTestLimit (core : Nat)
  /-- SELF_TEST_ABANDON (R417): A ready block for the core's context stops the housekeeper's test within 4,096 clocks. -/
  | selfTestAbandon (core : Nat)
  /-- POWER_MEASUREMENT (R432): Every 10 µs the input power is measured and the clock is lowered 25 MHz when above 4,200 W. -/
  | powerMeasurement (watts : Nat)
  /-- CLOCK_RAISE (R432): After 1 ms below 4,100 W the clock rises 25 MHz. -/
  | clockRaise
  /-- THERMAL_LIMIT (R434): A sensor crossing a limit lowers the clock, doubles refresh or turns the module off. -/
  | thermalLimit (sn : Sensor) (celsius : Nat)
  /-- IDLE_ENTRY (R431): A die without a block for 2^20 clocks enters P1 idle. -/
  | idleEntry (die : Nat)
  /-- STANDBY_REQUEST (R431): A management request with no active context puts the module in P2. -/
  | standbyRequest
  /-- POWER_LOSS (R431): Removal of the 54 V input turns the module off. -/
  | powerLoss
  /-- COLD_RESET (R435): Power good runs the full reset and boot sequence. -/
  | coldReset (strap : Word) (t : Option Training) (badCores : List Nat)
  /-- WARM_RESET (R435): PERST# or a management reset runs the sequence from step 2. -/
  | warmReset (t : Option Training) (badCores : List Nat)
  /-- BEYDIN_PORT_DOWN (R408): A Beydin port that goes down is fenced with a FATAL record. -/
  | beydinPortDown (e : LinkError)
  /-- PCIE_PORT_DOWN (R408): A PCIe port that goes down or takes an uncorrectable error is fenced. -/
  | pciePortDown (p : Nat) (e : AerError)
  /-- REGISTER_WRITE (R6): A write to a register without its own row acts field by field by its access codes. -/
  | registerWrite (target off : Nat) (v : Word)
  /-- WORD_NOT_AN_INSTRUCTION (R158): A fetched word of major 0x00, 0x3F, a reserved major or an unassigned code traps ILLEGAL with XTVAL holding the word. -/
  | wordNotAnInstruction (w : IWord)
  /-- INSTRUCTION_FETCH_FAULT (R54): A sequential instruction fetch that cannot be translated, is denied or lies in scratchpad space traps PAGE_LOAD or ACCESS with XCAUSE.FETCH set. -/
  | instructionFetchFault (denied : Bool) (va : Word)
  /-- STREAM_READ_AHEAD (R249): A bound read stream fetches elements ahead of use, or the topology engine delivers MSHQ elements, so that a consumer held on an empty stream can proceed or trap STREAM. -/
  | streamReadAhead (n : Nat) (r : BitVec 2)
  /-- PEER_REPLY (R263): A peer's reply to an RGET, RATOM or RPUT arrives at the issuing device with the element vector, the return value or a failure status. -/
  | peerReply (n dev status : Nat)
  /-- CONTROL_HART_RELOAD (R378): A halted control hart finishes its reset and reload from the authenticated image and, if its self-test passes, resumes its role or becomes the standby. -/
  | controlHartReload (n : Nat) (pass : Bool)
  /-- STANDBY_EXIT (R431): The module leaves P2 standby for P0 through steps 5 to 7 of the reset and boot sequence. -/
  | standbyExit
  deriving DecidableEq, Repr

end Sys2Proof
end

