-- ==== Sys2Proof/Decode.lean ====
section
/-! DEFINITION. The decoder of a word (04 R141 to R157), total, rejecting by name, and after it the encoder. A word
decodes to its row of the opcode table even where a field holds a code that WellFormed refuses (a reserved shape, scope
or width): 04 R158 to R162 make the fate of such a word depend on the machine's state, so its meaning gives it.
Lean's compiler cannot build a value of a constructor with fields beyond the first 244 of a type, so the decoder of LDHI, ADDPC,
JAL, JALR and REP is marked noncomputable (log 16); Lean's kernel evaluates it as any other definition, and the compiled
step reaches those five without building the value. -/

namespace Sys2Proof

/-- Why a word is no instruction of the table (04 R158 to R162). -/
inductive DecodeError where
  /-- a reserved or illegal major (R158) -/
  | major
  /-- a selector or operation code that is not assigned (R159, R160, R162) -/
  | selector
  /-- a variant that R154 does not assign -/
  | variant
  /-- an unused field is not zero, a predicate field has its high bits set, or a fixed shape is another one -/
  | unusedField
  deriving DecidableEq, Repr

/-- What the decoder reads from a word. -/
inductive Decoded where
  | instr (i : Instr)
  | reject (e : DecodeError)
  deriving DecidableEq, Repr

/-- The field of `w` bits whose lowest bit is bit `lo` (04 R142). -/
def fld (lo w n : Nat) : BitVec w := BitVec.ofNat w (n / 2 ^ lo)

/-- Field d [25:21]. -/
def fD (n : Nat) : BitVec 5 := BitVec.ofNat 5 (n / 2097152)

/-- Field a [20:16]. -/
def fA (n : Nat) : BitVec 5 := BitVec.ofNat 5 (n / 65536)

/-- Field b [15:11]. -/
def fB (n : Nat) : BitVec 5 := BitVec.ofNat 5 (n / 2048)

/-- The predicate named by field d, in its low 3 bits (R143). -/
def pD (n : Nat) : BitVec 3 := BitVec.ofNat 3 (n / 2097152)

/-- The predicate named by field a. -/
def pA (n : Nat) : BitVec 3 := BitVec.ofNat 3 (n / 65536)

/-- The predicate named by field b. -/
def pB (n : Nat) : BitVec 3 := BitVec.ofNat 3 (n / 2048)

/-- An instruction, if the fixed bits of its row hold. -/
def ok (p : Prop) [Decidable p] (r : Decoded) : Decoded := if p then r else .reject .unusedField

/-- Major 0x01 (ADD, SUB, MUL …). -/
def decode01 (n : Nat) : Decoded :=
  match n % 2048 with
  | 0 => .instr (.add (fD n) (fA n) (fB n))
  | 1 => .instr (.sub (fD n) (fA n) (fB n))
  | 2 => .instr (.mul (fD n) (fA n) (fB n))
  | 3 => .instr (.mulh (fD n) (fA n) (fB n))
  | 4 => .instr (.mulhu (fD n) (fA n) (fB n))
  | 5 => .instr (.div (fD n) (fA n) (fB n))
  | 6 => .instr (.divu (fD n) (fA n) (fB n))
  | 7 => .instr (.rem (fD n) (fA n) (fB n))
  | 8 => .instr (.remu (fD n) (fA n) (fB n))
  | 16 => .instr (.and (fD n) (fA n) (fB n))
  | 17 => .instr (.or (fD n) (fA n) (fB n))
  | 18 => .instr (.xor (fD n) (fA n) (fB n))
  | 19 => .instr (.andn (fD n) (fA n) (fB n))
  | 24 => .instr (.shl (fD n) (fA n) (fB n))
  | 25 => .instr (.shr (fD n) (fA n) (fB n))
  | 26 => .instr (.sar (fD n) (fA n) (fB n))
  | 27 => .instr (.rotr (fD n) (fA n) (fB n))
  | 32 => .instr (.min (fD n) (fA n) (fB n))
  | 33 => .instr (.max (fD n) (fA n) (fB n))
  | 34 => .instr (.minu (fD n) (fA n) (fB n))
  | 35 => .instr (.maxu (fD n) (fA n) (fB n))
  | 40 => .instr (.seq (fD n) (fA n) (fB n))
  | 41 => .instr (.sne (fD n) (fA n) (fB n))
  | 42 => .instr (.slt (fD n) (fA n) (fB n))
  | 43 => .instr (.sltu (fD n) (fA n) (fB n))
  | 48 => .instr (.sel (fD n) (fA n) (fB n))
  | 56 => ok (n / 2048 % 32 = 0) (.instr (.clz (fD n) (fA n)))
  | 57 => ok (n / 2048 % 32 = 0) (.instr (.ctz (fD n) (fA n)))
  | 58 => ok (n / 2048 % 32 = 0) (.instr (.popc (fD n) (fA n)))
  | 59 => ok (n / 2048 % 32 = 0) (.instr (.brev (fD n) (fA n)))
  | 64 => ok (n / 2048 % 32 = 0) (.instr (.sextB (fD n) (fA n)))
  | 65 => ok (n / 2048 % 32 = 0) (.instr (.sextH (fD n) (fA n)))
  | 66 => ok (n / 2048 % 32 = 0) (.instr (.sextW (fD n) (fA n)))
  | 68 => ok (n / 2048 % 32 = 0) (.instr (.zextB (fD n) (fA n)))
  | 69 => ok (n / 2048 % 32 = 0) (.instr (.zextH (fD n) (fA n)))
  | 70 => ok (n / 2048 % 32 = 0) (.instr (.zextW (fD n) (fA n)))
  | f => if f / 8 = 9 then .instr (.shadd (fD n) (fA n) (fB n) (BitVec.ofNat 3 n)) else .reject .selector

/-- Major 0x02 (ADDI). -/
def decode02 (n : Nat) : Decoded :=
  .instr (.addi (fD n) (fA n) (BitVec.ofNat 16 n))

/-- Major 0x03 (ANDI, ORI, XORI …). -/
def decode03 (n : Nat) : Decoded :=
  match n / 8192 % 8 with
  | 0 => .instr (.andi (fD n) (fA n) (BitVec.ofNat 13 n))
  | 1 => .instr (.ori (fD n) (fA n) (BitVec.ofNat 13 n))
  | 2 => .instr (.xori (fD n) (fA n) (BitVec.ofNat 13 n))
  | 3 => .instr (.slti (fD n) (fA n) (BitVec.ofNat 13 n))
  | 4 => .instr (.sltiu (fD n) (fA n) (BitVec.ofNat 13 n))
  | 5 => ok (n / 64 % 128 = 0) (.instr (.shli (fD n) (fA n) (BitVec.ofNat 6 n)))
  | 6 => ok (n / 64 % 128 = 0) (.instr (.shri (fD n) (fA n) (BitVec.ofNat 6 n)))
  | 7 => ok (n / 64 % 128 = 0) (.instr (.sari (fD n) (fA n) (BitVec.ofNat 6 n)))
  | _ => .reject .selector

/-- Major 0x04 (LDHI). -/
noncomputable def decode04 (n : Nat) : Decoded :=
  ok (n / 262144 % 8 = 0) (.instr (.ldhi (fD n) (fld 16 2 n) (BitVec.ofNat 16 n)))

/-- Major 0x05 (ADDPC). -/
noncomputable def decode05 (n : Nat) : Decoded :=
  ok (n / 65536 % 32 = 0) (.instr (.addpc (fD n) (BitVec.ofNat 16 n)))

/-- Major 0x06 (LDB, LDBU, LDH …). -/
def decode06 (n : Nat) : Decoded :=
  match n / 8192 % 8 with
  | 0 => .instr (.ldb (fD n) (fA n) (BitVec.ofNat 13 n))
  | 1 => .instr (.ldbu (fD n) (fA n) (BitVec.ofNat 13 n))
  | 2 => .instr (.ldh (fD n) (fA n) (BitVec.ofNat 13 n))
  | 3 => .instr (.ldhu (fD n) (fA n) (BitVec.ofNat 13 n))
  | 4 => .instr (.ldw (fD n) (fA n) (BitVec.ofNat 13 n))
  | 5 => .instr (.ldwu (fD n) (fA n) (BitVec.ofNat 13 n))
  | 6 => .instr (.ldd (fD n) (fA n) (BitVec.ofNat 13 n))
  | _ => .reject .selector

/-- Major 0x07 (STB, STH, STW …). -/
def decode07 (n : Nat) : Decoded :=
  match n / 8192 % 8 with
  | 0 => .instr (.stb (fD n) (fA n) (BitVec.ofNat 13 n))
  | 1 => .instr (.sth (fD n) (fA n) (BitVec.ofNat 13 n))
  | 2 => .instr (.stw (fD n) (fA n) (BitVec.ofNat 13 n))
  | 3 => .instr (.std (fD n) (fA n) (BitVec.ofNat 13 n))
  | _ => .reject .selector

/-- Major 0x08 (BEQ, BNE, BLT …). -/
def decode08 (n : Nat) : Decoded :=
  match n / 8192 % 8 with
  | 0 => .instr (.beq (fD n) (fA n) (BitVec.ofNat 13 n))
  | 1 => .instr (.bne (fD n) (fA n) (BitVec.ofNat 13 n))
  | 2 => .instr (.blt (fD n) (fA n) (BitVec.ofNat 13 n))
  | 3 => .instr (.bge (fD n) (fA n) (BitVec.ofNat 13 n))
  | 4 => .instr (.bltu (fD n) (fA n) (BitVec.ofNat 13 n))
  | 5 => .instr (.bgeu (fD n) (fA n) (BitVec.ofNat 13 n))
  | _ => .reject .selector

/-- Major 0x09 (BPANY, BPALL, BPNONE). -/
def decode09 (n : Nat) : Decoded :=
  match n / 65536 % 32 with
  | 0 => ok (n / 16777216 % 4 = 0) (.instr (.bpany (pD n) (BitVec.ofNat 16 n)))
  | 1 => ok (n / 16777216 % 4 = 0) (.instr (.bpall (pD n) (BitVec.ofNat 16 n)))
  | 2 => ok (n / 16777216 % 4 = 0) (.instr (.bpnone (pD n) (BitVec.ofNat 16 n)))
  | _ => .reject .selector

/-- Major 0x0A (JAL). -/
noncomputable def decode0A (n : Nat) : Decoded :=
  .instr (.jal (BitVec.ofNat 26 n))

/-- Major 0x0B (JALR). -/
noncomputable def decode0B (n : Nat) : Decoded :=
  .instr (.jalr (fD n) (fA n) (BitVec.ofNat 16 n))

/-- Major 0x0C (FADD, FSUB, FMUL …). -/
def decode0C (n : Nat) : Decoded :=
  match n / 2 % 1024 with
  | 0 => .instr (.fadd (fD n) (fA n) (fB n) (BitVec.ofNat 1 n))
  | 8 => .instr (.fsub (fD n) (fA n) (fB n) (BitVec.ofNat 1 n))
  | 16 => .instr (.fmul (fD n) (fA n) (fB n) (BitVec.ofNat 1 n))
  | 24 => .instr (.fma (fD n) (fA n) (fB n) (BitVec.ofNat 1 n))
  | 32 => .instr (.fnma (fD n) (fA n) (fB n) (BitVec.ofNat 1 n))
  | 40 => .instr (.fdiv (fD n) (fA n) (fB n) (BitVec.ofNat 1 n))
  | 48 => ok (n / 2048 % 32 = 0) (.instr (.fsqrt (fD n) (fA n) (BitVec.ofNat 1 n)))
  | 56 => .instr (.fmin (fD n) (fA n) (fB n) (BitVec.ofNat 1 n))
  | 64 => .instr (.fmax (fD n) (fA n) (fB n) (BitVec.ofNat 1 n))
  | 72 => .instr (.feq (fD n) (fA n) (fB n) (BitVec.ofNat 1 n))
  | 80 => .instr (.flt (fD n) (fA n) (fB n) (BitVec.ofNat 1 n))
  | 88 => .instr (.fle (fD n) (fA n) (fB n) (BitVec.ofNat 1 n))
  | 96 => ok (n / 2048 % 32 = 0) (.instr (.fcvtFf (fD n) (fA n) (BitVec.ofNat 1 n)))
  | 97 => ok (n / 2048 % 32 = 0) (.instr (.fcvtFs (fD n) (fA n) (BitVec.ofNat 1 n)))
  | 98 => ok (n / 2048 % 32 = 0) (.instr (.fcvtFu (fD n) (fA n) (BitVec.ofNat 1 n)))
  | 99 => ok (n / 2048 % 32 = 0) (.instr (.fcvtSf (fD n) (fA n) (BitVec.ofNat 1 n)))
  | 100 => ok (n / 2048 % 32 = 0) (.instr (.fcvtUf (fD n) (fA n) (BitVec.ofNat 1 n)))
  | 104 => ok (n / 2048 % 32 = 0) (.instr (.fclass (fD n) (fA n) (BitVec.ofNat 1 n)))
  | _ => .reject .selector

/-- Major 0x0D (LDACQ, STREL, FENCE). -/
def decode0D (n : Nat) : Decoded :=
  match n / 256 % 8 with
  | 0 => ok (n / 8 % 8 = 0 ∧ n / 2048 % 32 = 0) (.instr (.ldacq (fD n) (fA n) (fld 6 2 n) (BitVec.ofNat 3 n)))
  | 1 => ok (n / 8 % 8 = 0 ∧ n / 2097152 % 32 = 0) (.instr (.strel (fA n) (fB n) (fld 6 2 n) (BitVec.ofNat 3 n)))
  | 2 => ok (n / 2048 % 32768 = 0) (.instr (.fence (fld 3 5 n) (BitVec.ofNat 3 n)))
  | _ => .reject .selector

/-- Major 0x0E (AMOADD, AMOAND, AMOOR …). -/
def decode0E (n : Nat) : Decoded :=
  match n / 128 % 16 with
  | 0 => .instr (.amoadd (fD n) (fA n) (fB n) (fld 5 2 n) (fld 3 2 n) (BitVec.ofNat 3 n))
  | 1 => .instr (.amoand (fD n) (fA n) (fB n) (fld 5 2 n) (fld 3 2 n) (BitVec.ofNat 3 n))
  | 2 => .instr (.amoor (fD n) (fA n) (fB n) (fld 5 2 n) (fld 3 2 n) (BitVec.ofNat 3 n))
  | 3 => .instr (.amoxor (fD n) (fA n) (fB n) (fld 5 2 n) (fld 3 2 n) (BitVec.ofNat 3 n))
  | 4 => .instr (.amomin (fD n) (fA n) (fB n) (fld 5 2 n) (fld 3 2 n) (BitVec.ofNat 3 n))
  | 5 => .instr (.amomax (fD n) (fA n) (fB n) (fld 5 2 n) (fld 3 2 n) (BitVec.ofNat 3 n))
  | 6 => .instr (.amominu (fD n) (fA n) (fB n) (fld 5 2 n) (fld 3 2 n) (BitVec.ofNat 3 n))
  | 7 => .instr (.amomaxu (fD n) (fA n) (fB n) (fld 5 2 n) (fld 3 2 n) (BitVec.ofNat 3 n))
  | 8 => .instr (.amoswap (fD n) (fA n) (fB n) (fld 5 2 n) (fld 3 2 n) (BitVec.ofNat 3 n))
  | 9 => .instr (.amocas (fD n) (fA n) (fB n) (fld 5 2 n) (fld 3 2 n) (BitVec.ofNat 3 n))
  | 10 => .instr (.amofadd (fD n) (fA n) (fB n) (fld 5 2 n) (fld 3 2 n) (BitVec.ofNat 3 n))
  | 11 => .instr (.amofmin (fD n) (fA n) (fB n) (fld 5 2 n) (fld 3 2 n) (BitVec.ofNat 3 n))
  | 12 => .instr (.amofmax (fD n) (fA n) (fB n) (fld 5 2 n) (fld 3 2 n) (BitVec.ofNat 3 n))
  | _ => .reject .selector

/-- Major 0x0F (CSRR, CSRW, CSRX …). -/
def decode0F (n : Nat) : Decoded :=
  match n / 4096 % 16 with
  | 0 => ok (n / 65536 % 32 = 0) (.instr (.csrr (fD n) (BitVec.ofNat 12 n)))
  | 1 => ok (n / 2097152 % 32 = 0) (.instr (.csrw (fA n) (BitVec.ofNat 12 n)))
  | 2 => .instr (.csrx (fD n) (fA n) (BitVec.ofNat 12 n))
  | 3 => ok (n / 65536 % 1024 = 0) (.instr (.trap (BitVec.ofNat 12 n)))
  | 4 => ok (n / 65536 % 1024 = 0) (.instr (.brk (BitVec.ofNat 12 n)))
  | 5 => ok (n % 4096 = 0 ∧ n / 65536 % 1024 = 0) (.instr .eret)
  | 6 => ok (n % 4096 = 0) (.instr (.waitw (fD n) (fA n)))
  | 7 => ok (n % 4096 = 0 ∧ n / 65536 % 1024 = 0) (.instr .yield)
  | 8 => ok (n % 4096 = 0 ∧ n / 65536 % 1024 = 0) (.instr .vsync)
  | _ => .reject .selector

/-- Major 0x10 (VADD, VSUB, VRSUB …). -/
def decode10 (n : Nat) : Decoded :=
  match n / 32 % 64 with
  | 0 => ok (n % 8 = 0) (.instr (.vadd (fD n) (fA n) (fB n) (fld 3 2 n)))
  | 1 => ok (n % 8 = 0) (.instr (.vsub (fD n) (fA n) (fB n) (fld 3 2 n)))
  | 2 => ok (n % 8 = 0) (.instr (.vrsub (fD n) (fA n) (fB n) (fld 3 2 n)))
  | 3 => ok (n % 8 = 0) (.instr (.vmul (fD n) (fA n) (fB n) (fld 3 2 n)))
  | 4 => ok (n % 8 = 0) (.instr (.vmulh (fD n) (fA n) (fB n) (fld 3 2 n)))
  | 5 => ok (n % 8 = 0) (.instr (.vmulhu (fD n) (fA n) (fB n) (fld 3 2 n)))
  | 6 => ok (n % 8 = 0) (.instr (.vmadd (fD n) (fA n) (fB n) (fld 3 2 n)))
  | 7 => ok (n % 8 = 0) (.instr (.vdiv (fD n) (fA n) (fB n) (fld 3 2 n)))
  | 8 => ok (n % 8 = 0) (.instr (.vdivu (fD n) (fA n) (fB n) (fld 3 2 n)))
  | 9 => ok (n % 8 = 0) (.instr (.vrem (fD n) (fA n) (fB n) (fld 3 2 n)))
  | 10 => ok (n % 8 = 0) (.instr (.vmin (fD n) (fA n) (fB n) (fld 3 2 n)))
  | 11 => ok (n % 8 = 0) (.instr (.vmax (fD n) (fA n) (fB n) (fld 3 2 n)))
  | 12 => ok (n % 8 = 0) (.instr (.vminu (fD n) (fA n) (fB n) (fld 3 2 n)))
  | 13 => ok (n % 8 = 0) (.instr (.vmaxu (fD n) (fA n) (fB n) (fld 3 2 n)))
  | _ => .reject .selector

/-- Major 0x11 (VAND, VOR, VXOR …). -/
def decode11 (n : Nat) : Decoded :=
  match n / 32 % 64 with
  | 0 => ok (n % 8 = 0) (.instr (.vand (fD n) (fA n) (fB n) (fld 3 2 n)))
  | 1 => ok (n % 8 = 0) (.instr (.vor (fD n) (fA n) (fB n) (fld 3 2 n)))
  | 2 => ok (n % 8 = 0) (.instr (.vxor (fD n) (fA n) (fB n) (fld 3 2 n)))
  | 3 => ok (n % 8 = 0) (.instr (.vshl (fD n) (fA n) (fB n) (fld 3 2 n)))
  | 4 => ok (n % 8 = 0) (.instr (.vshr (fD n) (fA n) (fB n) (fld 3 2 n)))
  | 5 => ok (n % 8 = 0) (.instr (.vsar (fD n) (fA n) (fB n) (fld 3 2 n)))
  | 6 => ok (n % 8 = 0) (.instr (.vsadd (fD n) (fA n) (fB n) (fld 3 2 n)))
  | 7 => ok (n % 8 = 0) (.instr (.vsaddu (fD n) (fA n) (fB n) (fld 3 2 n)))
  | 8 => ok (n % 8 = 0) (.instr (.vssub (fD n) (fA n) (fB n) (fld 3 2 n)))
  | 9 => ok (n % 8 = 0) (.instr (.vssubu (fD n) (fA n) (fB n) (fld 3 2 n)))
  | 10 => ok (n % 32 = 0 ∧ n / 2048 % 32 = 0) (.instr (.vabs (fD n) (fA n)))
  | 11 => ok (n % 32 = 0 ∧ n / 2048 % 32 = 0) (.instr (.vclz (fD n) (fA n)))
  | 12 => ok (n % 32 = 0 ∧ n / 2048 % 32 = 0) (.instr (.vpopc (fD n) (fA n)))
  | _ => .reject .selector

/-- Major 0x12 (VCMP, VSEL, VMV …). -/
def decode12 (n : Nat) : Decoded :=
  match n / 32 % 64 with
  | 0 => ok (n / 16777216 % 4 = 0) (.instr (.vcmp (pD n) (fA n) (fB n) (fld 3 2 n) (BitVec.ofNat 3 n)))
  | 1 => .instr (.vsel (fD n) (fA n) (fB n) (fld 3 2 n) (BitVec.ofNat 3 n))
  | 2 => ok (n % 8 = 0 ∧ n / 65536 % 32 = 0) (.instr (.vmv (fD n) (fB n) (fld 3 2 n)))
  | 3 => ok (n % 32 = 0 ∧ n / 2048 % 1024 = 0) (.instr (.vid (fD n)))
  | 4 => ok (n % 8 = 0) (.instr (.vext (fD n) (fA n) (fB n) (fld 3 2 n)))
  | 5 => ok (n % 8 = 0) (.instr (.vins (fD n) (fA n) (fB n) (fld 3 2 n)))
  | 6 => ok (n / 8 % 4 = 0 ∧ n / 65536 % 32 = 0) (.instr (.vwiden (fD n) (fB n) (BitVec.ofNat 3 n)))
  | 7 => .instr (.vnshr (fD n) (fA n) (fB n) (fld 3 2 n) (BitVec.ofNat 3 n))
  | _ => .reject .selector

/-- Major 0x13 (VFADD, VFSUB, VFMUL …). -/
def decode13 (n : Nat) : Decoded :=
  match n / 32 % 64 with
  | 0 => ok (n % 8 = 0) (.instr (.vfadd (fD n) (fA n) (fB n) (fld 3 2 n)))
  | 1 => ok (n % 8 = 0) (.instr (.vfsub (fD n) (fA n) (fB n) (fld 3 2 n)))
  | 2 => ok (n % 8 = 0) (.instr (.vfmul (fD n) (fA n) (fB n) (fld 3 2 n)))
  | 3 => ok (n % 8 = 0) (.instr (.vfma (fD n) (fA n) (fB n) (fld 3 2 n)))
  | 4 => ok (n % 8 = 0) (.instr (.vfnma (fD n) (fA n) (fB n) (fld 3 2 n)))
  | 5 => ok (n % 8 = 0) (.instr (.vfms (fD n) (fA n) (fB n) (fld 3 2 n)))
  | 6 => ok (n % 8 = 0) (.instr (.vfdiv (fD n) (fA n) (fB n) (fld 3 2 n)))
  | 7 => ok (n % 32 = 0 ∧ n / 2048 % 32 = 0) (.instr (.vfsqrt (fD n) (fA n)))
  | 8 => ok (n % 8 = 0) (.instr (.vfmin (fD n) (fA n) (fB n) (fld 3 2 n)))
  | 9 => ok (n % 8 = 0) (.instr (.vfmax (fD n) (fA n) (fB n) (fld 3 2 n)))
  | 10 => .instr (.vfsgn (fD n) (fA n) (fB n) (fld 3 2 n) (BitVec.ofNat 3 n))
  | _ => .reject .selector

/-- Major 0x14 (VFRCP, VFRSQ, VFEXP2 …). -/
def decode14 (n : Nat) : Decoded :=
  match n / 32 % 64 with
  | 0 => ok (n % 32 = 0 ∧ n / 2048 % 32 = 0) (.instr (.vfrcp (fD n) (fA n)))
  | 1 => ok (n % 32 = 0 ∧ n / 2048 % 32 = 0) (.instr (.vfrsq (fD n) (fA n)))
  | 2 => ok (n % 32 = 0 ∧ n / 2048 % 32 = 0) (.instr (.vfexp2 (fD n) (fA n)))
  | 3 => ok (n % 32 = 0 ∧ n / 2048 % 32 = 0) (.instr (.vflog2 (fD n) (fA n)))
  | 4 => ok (n / 8 % 4 = 0 ∧ n / 2048 % 32 = 0) (.instr (.vfcvt (fD n) (fA n) (BitVec.ofNat 3 n)))
  | 5 => ok (n % 32 = 0 ∧ n / 2048 % 32 = 0) (.instr (.vfclass (fD n) (fA n)))
  | 6 => ok (n / 16777216 % 4 = 0) (.instr (.vfcmp (pD n) (fA n) (fB n) (fld 3 2 n) (BitVec.ofNat 3 n)))
  | _ => .reject .selector

/-- Major 0x15 (VMULM, VFMAM). -/
def decode15 (n : Nat) : Decoded :=
  match n / 32 % 64 with
  | 0 => .instr (.vmulm (fD n) (fA n) (fB n) (fld 3 2 n) (BitVec.ofNat 3 n))
  | 1 => ok (n % 8 = 0) (.instr (.vfmam (fD n) (fA n) (fB n) (fld 3 2 n)))
  | _ => .reject .selector

/-- Major 0x16 (VREDSUM, VREDMIN, VREDMAX …). -/
def decode16 (n : Nat) : Decoded :=
  match n / 32 % 64 with
  | 0 => ok (n % 8 = 0 ∧ n / 16 % 2 = 0) (.instr (.vredsum (fD n) (fA n) (fB n) (fld 3 1 n)))
  | 1 => ok (n % 8 = 0 ∧ n / 16 % 2 = 0) (.instr (.vredmin (fD n) (fA n) (fB n) (fld 3 1 n)))
  | 2 => ok (n % 8 = 0 ∧ n / 16 % 2 = 0) (.instr (.vredmax (fD n) (fA n) (fB n) (fld 3 1 n)))
  | 3 => ok (n % 8 = 0 ∧ n / 16 % 2 = 0) (.instr (.vredminu (fD n) (fA n) (fB n) (fld 3 1 n)))
  | 4 => ok (n % 8 = 0 ∧ n / 16 % 2 = 0) (.instr (.vredmaxu (fD n) (fA n) (fB n) (fld 3 1 n)))
  | 5 => ok (n % 8 = 0 ∧ n / 16 % 2 = 0) (.instr (.vredand (fD n) (fA n) (fB n) (fld 3 1 n)))
  | 6 => ok (n % 8 = 0 ∧ n / 16 % 2 = 0) (.instr (.vredor (fD n) (fA n) (fB n) (fld 3 1 n)))
  | 7 => ok (n % 8 = 0 ∧ n / 16 % 2 = 0) (.instr (.vredxor (fD n) (fA n) (fB n) (fld 3 1 n)))
  | 8 => ok (n % 8 = 0 ∧ n / 16 % 2 = 0) (.instr (.vfredsum (fD n) (fA n) (fB n) (fld 3 1 n)))
  | 9 => ok (n % 8 = 0 ∧ n / 16 % 2 = 0) (.instr (.vfredmin (fD n) (fA n) (fB n) (fld 3 1 n)))
  | 10 => ok (n % 8 = 0 ∧ n / 16 % 2 = 0) (.instr (.vfredmax (fD n) (fA n) (fB n) (fld 3 1 n)))
  | _ => .reject .selector

/-- Major 0x17 (VSLIDEUP, VSLIDEDN, VPERM …). -/
def decode17 (n : Nat) : Decoded :=
  match n / 32 % 64 with
  | 0 => ok (n % 8 = 0) (.instr (.vslideup (fD n) (fA n) (fB n) (fld 3 2 n)))
  | 1 => ok (n % 8 = 0) (.instr (.vslidedn (fD n) (fA n) (fB n) (fld 3 2 n)))
  | 2 => ok (n % 32 = 0) (.instr (.vperm (fD n) (fA n) (fB n)))
  | 3 => ok (n % 32 = 0 ∧ n / 2048 % 32 = 0) (.instr (.vcompress (fD n) (fA n)))
  | 4 => ok (n % 32 = 0 ∧ n / 2048 % 32 = 0) (.instr (.vexpand (fD n) (fA n)))
  | 5 => ok (n / 2 % 16 = 0 ∧ n / 2048 % 32 = 0) (.instr (.vscan (fD n) (fA n) (BitVec.ofNat 1 n)))
  | 6 => ok (n / 2 % 16 = 4) (.instr (.vtopk (fD n) (fA n) (fB n) (BitVec.ofNat 1 n)))
  | _ => .reject .selector

/-- Major 0x18 (PAND, POR, PXOR …). -/
def decode18 (n : Nat) : Decoded :=
  match n / 32 % 64 with
  | 0 => ok (n % 32 = 0 ∧ n / 16384 % 4 = 0 ∧ n / 524288 % 4 = 0 ∧ n / 16777216 % 4 = 0) (.instr (.pand (pD n) (pA n) (pB n)))
  | 1 => ok (n % 32 = 0 ∧ n / 16384 % 4 = 0 ∧ n / 524288 % 4 = 0 ∧ n / 16777216 % 4 = 0) (.instr (.por (pD n) (pA n) (pB n)))
  | 2 => ok (n % 32 = 0 ∧ n / 16384 % 4 = 0 ∧ n / 524288 % 4 = 0 ∧ n / 16777216 % 4 = 0) (.instr (.pxor (pD n) (pA n) (pB n)))
  | 3 => ok (n % 32 = 0 ∧ n / 16384 % 4 = 0 ∧ n / 524288 % 4 = 0 ∧ n / 16777216 % 4 = 0) (.instr (.pandn (pD n) (pA n) (pB n)))
  | 4 => ok (n % 32 = 0 ∧ n / 2048 % 32 = 0 ∧ n / 524288 % 4 = 0) (.instr (.pcnt (fD n) (pA n)))
  | 5 => ok (n % 32 = 0 ∧ n / 2048 % 32 = 0 ∧ n / 524288 % 4 = 0) (.instr (.pfirst (fD n) (pA n)))
  | 6 => ok (n % 32 = 0 ∧ n / 2048 % 32 = 0 ∧ n / 16777216 % 4 = 0) (.instr (.psetn (pD n) (fA n)))
  | 7 =>
    match n % 8 with
    | 0 => ok (n / 2048 % 32 = 0 ∧ n / 524288 % 4 = 0 ∧ n / 16777216 % 4 = 0 ∧ n / 8 % 4 = 0) (.instr (.pmovPp (pD n) (pA n)))
    | 1 => ok (n / 2048 % 32 = 0 ∧ n / 524288 % 4 = 0 ∧ n / 8 % 4 = 0) (.instr (.pmovPv (fD n) (pA n)))
    | 2 => ok (n / 2048 % 32 = 0 ∧ n / 16777216 % 4 = 0 ∧ n / 8 % 4 = 0) (.instr (.pmovVp (pD n) (fA n)))
    | _ => .reject .variant
  | _ => .reject .selector

/-- Major 0x19 (VQUANT, VDEQ, VSCALE). -/
def decode19 (n : Nat) : Decoded :=
  match n / 32 % 64 with
  | 0 => ok (n % 32 = 8) (.instr (.vquant (fD n) (fA n) (fB n)))
  | 1 => ok (n % 32 = 8) (.instr (.vdeq (fD n) (fA n) (fB n)))
  | 2 => ok (n % 32 = 8) (.instr (.vscale (fD n) (fA n) (fB n)))
  | _ => .reject .selector

/-- Major 0x20 (VLD, VLDS, VLDG …). -/
def decode20 (n : Nat) : Decoded :=
  match n / 256 % 8 with
  | 0 => ok (n / 32 % 8 = 0) (.instr (.vld (fD n) (fA n) (fB n) (fld 3 2 n) (BitVec.ofNat 3 n)))
  | 1 => ok (n / 32 % 8 = 0) (.instr (.vlds (fD n) (fA n) (fB n) (fld 3 2 n) (BitVec.ofNat 3 n)))
  | 2 => .instr (.vldg (fD n) (fA n) (fB n) (fld 5 3 n) (fld 3 2 n) (BitVec.ofNat 3 n))
  | 3 => ok (n / 32 % 8 = 0) (.instr (.vldx (fD n) (fA n) (fB n) (fld 3 2 n) (BitVec.ofNat 3 n)))
  | 4 => ok (n / 32 % 8 = 0) (.instr (.vldff (fD n) (fA n) (fB n) (fld 3 2 n) (BitVec.ofNat 3 n)))
  | _ => .reject .selector

/-- Major 0x21 (VST, VSTS, VSTG …). -/
def decode21 (n : Nat) : Decoded :=
  match n / 256 % 8 with
  | 0 => ok (n / 32 % 8 = 0) (.instr (.vst (fD n) (fA n) (fB n) (fld 3 2 n) (BitVec.ofNat 3 n)))
  | 1 => ok (n / 32 % 8 = 0) (.instr (.vsts (fD n) (fA n) (fB n) (fld 3 2 n) (BitVec.ofNat 3 n)))
  | 2 => .instr (.vstg (fD n) (fA n) (fB n) (fld 5 3 n) (fld 3 2 n) (BitVec.ofNat 3 n))
  | 3 => ok (n / 32 % 8 = 0) (.instr (.vstx (fD n) (fA n) (fB n) (fld 3 2 n) (BitVec.ofNat 3 n)))
  | _ => .reject .selector

/-- Major 0x22 (VSTXA). -/
def decode22 (n : Nat) : Decoded :=
  match n / 256 % 8 with
  | 3 => ok (n / 32 % 8 = 0) (.instr (.vstxa (fD n) (fA n) (fB n) (fld 3 2 n) (BitVec.ofNat 3 n)))
  | _ => .reject .selector

/-- Major 0x23 (VSTXC). -/
def decode23 (n : Nat) : Decoded :=
  match n / 256 % 8 with
  | 3 => ok (n / 32 % 8 = 0) (.instr (.vstxc (fD n) (fA n) (fB n) (fld 3 2 n) (BitVec.ofNat 3 n)))
  | _ => .reject .selector

/-- Major 0x24 (PLD). -/
def decode24 (n : Nat) : Decoded :=
  match n / 256 % 8 with
  | 0 => ok (n / 32 % 8 = 0 ∧ n / 16777216 % 4 = 0) (.instr (.pld (pD n) (fA n) (fB n) (fld 3 2 n) (BitVec.ofNat 3 n)))
  | _ => .reject .selector

/-- Major 0x25 (PST). -/
def decode25 (n : Nat) : Decoded :=
  match n / 256 % 8 with
  | 0 => ok (n / 32 % 8 = 0 ∧ n / 16777216 % 4 = 0) (.instr (.pst (pD n) (fA n) (fB n) (fld 3 2 n) (BitVec.ofNat 3 n)))
  | _ => .reject .selector

/-- Major 0x26 (SBIND, SUNBIND, SPOS). -/
def decode26 (n : Nat) : Decoded :=
  match n / 32 % 64 with
  | 0 => ok (n % 32 = 0 ∧ n / 2048 % 32 = 0 ∧ n / 8388608 % 8 = 7) (.instr (.sbind (fld 21 2 n) (fA n)))
  | 1 => ok (n % 32 = 0 ∧ n / 2048 % 1024 = 0 ∧ n / 8388608 % 8 = 7) (.instr (.sunbind (fld 21 2 n)))
  | 2 => ok (n % 32 = 0 ∧ n / 2048 % 32 = 0 ∧ n / 262144 % 8 = 7) (.instr (.spos (fD n) (fld 16 2 n)))
  | _ => .reject .selector

/-- Major 0x28 (MZERO, MMA). -/
def decode28 (n : Nat) : Decoded :=
  match n / 32 % 64 with
  | 0 => ok (n % 32 = 0 ∧ n / 2048 % 1024 = 0) (.instr (.mzero (fD n)))
  | 1 => ok (n % 32 = 0) (.instr (.mma (fD n) (fA n) (fB n)))
  | _ => .reject .selector

/-- Major 0x29 (MMAM). -/
def decode29 (n : Nat) : Decoded :=
  ok (n % 2048 = 0) (.instr (.mmam (fD n) (fA n) (fB n)))

/-- Major 0x2A (MDRAIN). -/
def decode2A (n : Nat) : Decoded :=
  .instr (.mdrain (fD n) (fA n) (fB n) (fld 5 6 n) (BitVec.ofNat 5 n))

/-- Major 0x2B (MPERT). -/
def decode2B (n : Nat) : Decoded :=
  ok (n % 2048 = 0 ∧ n / 2097152 % 32 = 0) (.instr (.mpert (fA n) (fB n)))

/-- Major 0x2C (TLDEF, TLEXP, TLWAIT …). -/
def decode2C (n : Nat) : Decoded :=
  match n / 32 % 64 with
  | 0 => ok (n % 32 = 0 ∧ n / 2097152 % 32 = 0) (.instr (.tldef (fA n) (fB n)))
  | 1 => ok (n % 32 = 0 ∧ n / 2097152 % 32 = 0) (.instr (.tlexp (fA n) (fB n)))
  | 2 => ok (n % 32 = 0 ∧ n / 2097152 % 32 = 0) (.instr (.tlwait (fA n) (fB n)))
  | 3 => ok (n % 32 = 0 ∧ n / 2048 % 32 = 0 ∧ n / 2097152 % 32 = 0) (.instr (.tlrel (fA n)))
  | _ => .reject .selector

/-- Major 0x2D (CPY, CPYP, CPYG …). -/
def decode2D (n : Nat) : Decoded :=
  match n / 32 % 64 with
  | 0 => ok (n % 32 = 0 ∧ n / 2097152 % 32 = 0) (.instr (.cpy (fA n) (fB n)))
  | 1 => ok (n % 32 = 0 ∧ n / 2097152 % 32 = 0) (.instr (.cpyp (fA n) (fB n)))
  | 2 => ok (n % 32 = 0 ∧ n / 2097152 % 32 = 0) (.instr (.cpyg (fA n) (fB n)))
  | 3 => ok (n % 32 = 0 ∧ n / 2097152 % 32 = 0) (.instr (.cpys (fA n) (fB n)))
  | _ => .reject .selector

/-- Major 0x30 (MSHQ, MSHGL, MSHREF …). -/
def decode30 (n : Nat) : Decoded :=
  match n / 32 % 64 with
  | 0 => ok (n % 32 = 0 ∧ n / 8388608 % 8 = 7) (.instr (.mshq (fld 21 2 n) (fA n) (fB n)))
  | 1 => ok (n % 32 = 0 ∧ n / 2048 % 32 = 0 ∧ n / 2097152 % 32 = 0) (.instr (.mshgl (fA n)))
  | 2 => ok (n % 32 = 0 ∧ n / 2048 % 32 = 0 ∧ n / 2097152 % 32 = 0) (.instr (.mshref (fA n)))
  | 3 => ok (n % 32 = 0 ∧ n / 2048 % 32 = 0 ∧ n / 2097152 % 32 = 0) (.instr (.mshcrs (fA n)))
  | 4 => ok (n % 32 = 0 ∧ n / 2048 % 32 = 0 ∧ n / 2097152 % 32 = 0) (.instr (.mshren (fA n)))
  | 5 => ok (n % 32 = 0 ∧ n / 2048 % 32 = 0 ∧ n / 2097152 % 32 = 0) (.instr (.mshcut (fA n)))
  | 6 => ok (n % 32 = 0 ∧ n / 2048 % 32 = 0 ∧ n / 2097152 % 32 = 0) (.instr (.mshmig (fA n)))
  | 7 => ok (n % 32 = 0 ∧ n / 2048 % 32 = 0 ∧ n / 2097152 % 32 = 0) (.instr (.mshwait (fA n)))
  | _ => .reject .selector

/-- Major 0x31 (CLRGEN, BINAPP, BINPLAY …). -/
def decode31 (n : Nat) : Decoded :=
  match n / 32 % 64 with
  | 0 => ok (n % 32 = 0 ∧ n / 2048 % 32 = 0 ∧ n / 2097152 % 32 = 0) (.instr (.clrgen (fA n)))
  | 1 => ok (n % 32 = 0) (.instr (.binapp (fD n) (fA n) (fB n)))
  | 2 => ok (n % 32 = 0 ∧ n / 2048 % 32 = 0 ∧ n / 2097152 % 32 = 0) (.instr (.binplay (fA n)))
  | 3 => ok (n % 32 = 0 ∧ n / 2048 % 32 = 0 ∧ n / 2097152 % 32 = 0) (.instr (.binwait (fA n)))
  | _ => .reject .selector

/-- Major 0x34 (TEND, TAGSET, TAGTEST). -/
def decode34 (n : Nat) : Decoded :=
  match n / 32 % 64 with
  | 0 => ok (n % 32 = 0 ∧ n / 2048 % 32768 = 0) (.instr .tend)
  | 1 => ok (n % 32 = 0 ∧ n / 2048 % 32 = 0 ∧ n / 2097152 % 32 = 0) (.instr (.tagset (fA n)))
  | 2 => ok (n % 32 = 0 ∧ n / 2048 % 32 = 0) (.instr (.tagtest (fD n) (fA n)))
  | _ => .reject .selector

/-- Major 0x35 (RGET, RPUT, RATOM …). -/
def decode35 (n : Nat) : Decoded :=
  match n / 32 % 64 with
  | 0 => ok (n % 32 = 0) (.instr (.rget (fD n) (fA n) (fB n)))
  | 1 => ok (n % 32 = 0 ∧ n / 2048 % 32 = 0) (.instr (.rput (fD n) (fA n)))
  | 2 => .instr (.ratom (fD n) (fA n) (fB n) (fld 1 4 n) (BitVec.ofNat 1 n))
  | 3 => ok (n % 32 = 0 ∧ n / 2048 % 32768 = 0) (.instr .rflush)
  | 4 => ok (n % 32 = 0 ∧ n / 2048 % 32 = 0 ∧ n / 2097152 % 32 = 0) (.instr (.cred (fA n)))
  | 5 => ok (n % 32 = 0 ∧ n / 2048 % 32 = 0 ∧ n / 2097152 % 32 = 0) (.instr (.cbcast (fA n)))
  | _ => .reject .selector

/-- Major 0x38 (REP). -/
noncomputable def decode38 (n : Nat) : Decoded :=
  ok (n % 32768 = 0) (.instr (.rep (fld 20 6 n) (fld 17 3 n) (fld 15 2 n)))

/-- Major 0x39 (VSETL, VSETLI, SETMODE …). -/
def decode39 (n : Nat) : Decoded :=
  match n / 524288 % 4 with
  | 0 => ok (n / 512 % 32 = 0) (.instr (.vsetl (fD n) (fld 14 5 n) (fld 6 3 n) (fld 3 3 n) (BitVec.ofNat 3 n)))
  | 1 => .instr (.vsetli (fD n) (fld 9 10 n) (fld 6 3 n) (fld 3 3 n) (BitVec.ofNat 3 n))
  | 2 => .instr (.setmode (fD n) (fld 15 4 n) (BitVec.ofNat 15 n))
  | 3 => ok (n % 16384 = 0) (.instr (.setmodev (fD n) (fld 14 5 n)))
  | _ => .reject .selector

/-- The decoder of a word whose major is none of 0x04, 0x05, 0x0A, 0x0B and 0x38 (log 16). -/
def decodeMost (n : Nat) : Decoded :=
  match n / 67108864 % 64 with
  | 0x01 => decode01 n
  | 0x02 => decode02 n
  | 0x03 => decode03 n
  | 0x06 => decode06 n
  | 0x07 => decode07 n
  | 0x08 => decode08 n
  | 0x09 => decode09 n
  | 0x0C => decode0C n
  | 0x0D => decode0D n
  | 0x0E => decode0E n
  | 0x0F => decode0F n
  | 0x10 => decode10 n
  | 0x11 => decode11 n
  | 0x12 => decode12 n
  | 0x13 => decode13 n
  | 0x14 => decode14 n
  | 0x15 => decode15 n
  | 0x16 => decode16 n
  | 0x17 => decode17 n
  | 0x18 => decode18 n
  | 0x19 => decode19 n
  | 0x20 => decode20 n
  | 0x21 => decode21 n
  | 0x22 => decode22 n
  | 0x23 => decode23 n
  | 0x24 => decode24 n
  | 0x25 => decode25 n
  | 0x26 => decode26 n
  | 0x28 => decode28 n
  | 0x29 => decode29 n
  | 0x2A => decode2A n
  | 0x2B => decode2B n
  | 0x2C => decode2C n
  | 0x2D => decode2D n
  | 0x30 => decode30 n
  | 0x31 => decode31 n
  | 0x34 => decode34 n
  | 0x35 => decode35 n
  | 0x39 => decode39 n
  | _ => .reject .major

/-- The decoder of one word, total: an instruction of the opcode table, or a rejection by name. -/
noncomputable def decodeNat (n : Nat) : Decoded :=
  match n / 67108864 % 64 with
  | 0x04 => decode04 n
  | 0x05 => decode05 n
  | 0x0A => decode0A n
  | 0x0B => decode0B n
  | 0x38 => decode38 n
  | _ => decodeMost n

/-- The instruction of a word. -/
noncomputable def decode (w : IWord) : Decoded := decodeNat w.toNat

/-- The word whose four bytes, lowest address first, are given (R141: little-endian). -/
def wordOfBytes (b0 b1 b2 b3 : Byte) : IWord := b3 ++ b2 ++ b1 ++ b0

/-- The decoder on bytes: the instruction of the first four bytes and the bytes after them; none where fewer than four
bytes stand there or the word is no instruction. -/
noncomputable def decodeBytes : List Byte → Option (Instr × List Byte)
  | b0 :: b1 :: b2 :: b3 :: rest =>
    match decode (wordOfBytes b0 b1 b2 b3) with
    | .instr i => some (i, rest)
    | .reject _ => none
  | _ => none

/-- The decoder's answer on a word of the opcode table's numbering: one 32-bit word. -/
noncomputable def decodeTableWord (_nbits w : Nat) : Option Instr :=
  match decode (BitVec.ofNat 32 w) with
  | .instr i => some i
  | .reject _ => none

/-- Formats R, V, M and X (R142). -/
def rFmt (op d a b fn : Nat) : IWord := BitVec.ofNat 32 (op * 67108864 + d * 2097152 + a * 65536 + b * 2048 + fn)

/-- Formats I and S (R142). -/
def iFmt (op d a imm : Nat) : IWord := BitVec.ofNat 32 (op * 67108864 + d * 2097152 + a * 65536 + imm)

/-- Formats J and P (R142). -/
def jFmt (op low : Nat) : IWord := BitVec.ofNat 32 (op * 67108864 + low)

/-- Format C (R142, R157). -/
def cFmt (op d sub low : Nat) : IWord := BitVec.ofNat 32 (op * 67108864 + d * 2097152 + sub * 524288 + low)

/-- The encoder: the word of an instruction (R146 to R157); none for a step of the device, which no word encodes. -/
def encode : Instr → Option IWord
  | .add d a b => some (rFmt 0x01 d.toNat a.toNat b.toNat 0)
  | .sub d a b => some (rFmt 0x01 d.toNat a.toNat b.toNat 1)
  | .mul d a b => some (rFmt 0x01 d.toNat a.toNat b.toNat 2)
  | .mulh d a b => some (rFmt 0x01 d.toNat a.toNat b.toNat 3)
  | .mulhu d a b => some (rFmt 0x01 d.toNat a.toNat b.toNat 4)
  | .div d a b => some (rFmt 0x01 d.toNat a.toNat b.toNat 5)
  | .divu d a b => some (rFmt 0x01 d.toNat a.toNat b.toNat 6)
  | .rem d a b => some (rFmt 0x01 d.toNat a.toNat b.toNat 7)
  | .remu d a b => some (rFmt 0x01 d.toNat a.toNat b.toNat 8)
  | .and d a b => some (rFmt 0x01 d.toNat a.toNat b.toNat 0x10)
  | .or d a b => some (rFmt 0x01 d.toNat a.toNat b.toNat 0x11)
  | .xor d a b => some (rFmt 0x01 d.toNat a.toNat b.toNat 0x12)
  | .andn d a b => some (rFmt 0x01 d.toNat a.toNat b.toNat 0x13)
  | .shl d a b => some (rFmt 0x01 d.toNat a.toNat b.toNat 0x18)
  | .shr d a b => some (rFmt 0x01 d.toNat a.toNat b.toNat 0x19)
  | .sar d a b => some (rFmt 0x01 d.toNat a.toNat b.toNat 0x1a)
  | .rotr d a b => some (rFmt 0x01 d.toNat a.toNat b.toNat 0x1b)
  | .min d a b => some (rFmt 0x01 d.toNat a.toNat b.toNat 0x20)
  | .max d a b => some (rFmt 0x01 d.toNat a.toNat b.toNat 0x21)
  | .minu d a b => some (rFmt 0x01 d.toNat a.toNat b.toNat 0x22)
  | .maxu d a b => some (rFmt 0x01 d.toNat a.toNat b.toNat 0x23)
  | .seq d a b => some (rFmt 0x01 d.toNat a.toNat b.toNat 0x28)
  | .sne d a b => some (rFmt 0x01 d.toNat a.toNat b.toNat 0x29)
  | .slt d a b => some (rFmt 0x01 d.toNat a.toNat b.toNat 0x2a)
  | .sltu d a b => some (rFmt 0x01 d.toNat a.toNat b.toNat 0x2b)
  | .sel d a b => some (rFmt 0x01 d.toNat a.toNat b.toNat 0x30)
  | .clz d a => some (rFmt 0x01 d.toNat a.toNat 0 0x38)
  | .ctz d a => some (rFmt 0x01 d.toNat a.toNat 0 0x39)
  | .popc d a => some (rFmt 0x01 d.toNat a.toNat 0 0x3a)
  | .brev d a => some (rFmt 0x01 d.toNat a.toNat 0 0x3b)
  | .sextB d a => some (rFmt 0x01 d.toNat a.toNat 0 0x40)
  | .sextH d a => some (rFmt 0x01 d.toNat a.toNat 0 0x41)
  | .sextW d a => some (rFmt 0x01 d.toNat a.toNat 0 0x42)
  | .zextB d a => some (rFmt 0x01 d.toNat a.toNat 0 0x44)
  | .zextH d a => some (rFmt 0x01 d.toNat a.toNat 0 0x45)
  | .zextW d a => some (rFmt 0x01 d.toNat a.toNat 0 0x46)
  | .shadd d a b k => some (rFmt 0x01 d.toNat a.toNat b.toNat (0x48 + k.toNat))
  | .addi d a i => some (iFmt 0x02 d.toNat a.toNat i.toNat)
  | .andi d a i => some (iFmt 0x03 d.toNat a.toNat i.toNat)
  | .ori d a i => some (iFmt 0x03 d.toNat a.toNat (0x2000 + i.toNat))
  | .xori d a i => some (iFmt 0x03 d.toNat a.toNat (0x4000 + i.toNat))
  | .slti d a i => some (iFmt 0x03 d.toNat a.toNat (0x6000 + i.toNat))
  | .sltiu d a i => some (iFmt 0x03 d.toNat a.toNat (0x8000 + i.toNat))
  | .shli d a s => some (iFmt 0x03 d.toNat a.toNat (0xa000 + s.toNat))
  | .shri d a s => some (iFmt 0x03 d.toNat a.toNat (0xc000 + s.toNat))
  | .sari d a s => some (iFmt 0x03 d.toNat a.toNat (0xe000 + s.toNat))
  | .ldhi d q i => some (iFmt 0x04 d.toNat q.toNat i.toNat)
  | .addpc d i => some (iFmt 0x05 d.toNat 0 i.toNat)
  | .ldb d a i => some (iFmt 0x06 d.toNat a.toNat i.toNat)
  | .ldbu d a i => some (iFmt 0x06 d.toNat a.toNat (0x2000 + i.toNat))
  | .ldh d a i => some (iFmt 0x06 d.toNat a.toNat (0x4000 + i.toNat))
  | .ldhu d a i => some (iFmt 0x06 d.toNat a.toNat (0x6000 + i.toNat))
  | .ldw d a i => some (iFmt 0x06 d.toNat a.toNat (0x8000 + i.toNat))
  | .ldwu d a i => some (iFmt 0x06 d.toNat a.toNat (0xa000 + i.toNat))
  | .ldd d a i => some (iFmt 0x06 d.toNat a.toNat (0xc000 + i.toNat))
  | .stb a b i => some (iFmt 0x07 a.toNat b.toNat i.toNat)
  | .sth a b i => some (iFmt 0x07 a.toNat b.toNat (0x2000 + i.toNat))
  | .stw a b i => some (iFmt 0x07 a.toNat b.toNat (0x4000 + i.toNat))
  | .std a b i => some (iFmt 0x07 a.toNat b.toNat (0x6000 + i.toNat))
  | .beq a b i => some (iFmt 0x08 a.toNat b.toNat i.toNat)
  | .bne a b i => some (iFmt 0x08 a.toNat b.toNat (0x2000 + i.toNat))
  | .blt a b i => some (iFmt 0x08 a.toNat b.toNat (0x4000 + i.toNat))
  | .bge a b i => some (iFmt 0x08 a.toNat b.toNat (0x6000 + i.toNat))
  | .bltu a b i => some (iFmt 0x08 a.toNat b.toNat (0x8000 + i.toNat))
  | .bgeu a b i => some (iFmt 0x08 a.toNat b.toNat (0xa000 + i.toNat))
  | .bpany p i => some (iFmt 0x09 p.toNat 0 i.toNat)
  | .bpall p i => some (iFmt 0x09 p.toNat 1 i.toNat)
  | .bpnone p i => some (iFmt 0x09 p.toNat 2 i.toNat)
  | .jal i => some (jFmt 0x0A i.toNat)
  | .jalr d a i => some (iFmt 0x0B d.toNat a.toNat i.toNat)
  | .fadd d a b p => some (rFmt 0x0C d.toNat a.toNat b.toNat p.toNat)
  | .fsub d a b p => some (rFmt 0x0C d.toNat a.toNat b.toNat (0x10 + p.toNat))
  | .fmul d a b p => some (rFmt 0x0C d.toNat a.toNat b.toNat (0x20 + p.toNat))
  | .fma d a b p => some (rFmt 0x0C d.toNat a.toNat b.toNat (0x30 + p.toNat))
  | .fnma d a b p => some (rFmt 0x0C d.toNat a.toNat b.toNat (0x40 + p.toNat))
  | .fdiv d a b p => some (rFmt 0x0C d.toNat a.toNat b.toNat (0x50 + p.toNat))
  | .fsqrt d a p => some (rFmt 0x0C d.toNat a.toNat 0 (0x60 + p.toNat))
  | .fmin d a b p => some (rFmt 0x0C d.toNat a.toNat b.toNat (0x70 + p.toNat))
  | .fmax d a b p => some (rFmt 0x0C d.toNat a.toNat b.toNat (0x80 + p.toNat))
  | .feq d a b p => some (rFmt 0x0C d.toNat a.toNat b.toNat (0x90 + p.toNat))
  | .flt d a b p => some (rFmt 0x0C d.toNat a.toNat b.toNat (0xa0 + p.toNat))
  | .fle d a b p => some (rFmt 0x0C d.toNat a.toNat b.toNat (0xb0 + p.toNat))
  | .fcvtFf d a p => some (rFmt 0x0C d.toNat a.toNat 0 (0xc0 + p.toNat))
  | .fcvtFs d a p => some (rFmt 0x0C d.toNat a.toNat 0 (0xc2 + p.toNat))
  | .fcvtFu d a p => some (rFmt 0x0C d.toNat a.toNat 0 (0xc4 + p.toNat))
  | .fcvtSf d a p => some (rFmt 0x0C d.toNat a.toNat 0 (0xc6 + p.toNat))
  | .fcvtUf d a p => some (rFmt 0x0C d.toNat a.toNat 0 (0xc8 + p.toNat))
  | .fclass d a p => some (rFmt 0x0C d.toNat a.toNat 0 (0xd0 + p.toNat))
  | .ldacq d a w s => some (rFmt 0x0D d.toNat a.toNat 0 (w.toNat * 64 + s.toNat))
  | .strel a b w s => some (rFmt 0x0D 0 a.toNat b.toNat (0x100 + w.toNat * 64 + s.toNat))
  | .fence k s => some (rFmt 0x0D 0 0 0 (0x200 + k.toNat * 8 + s.toNat))
  | .amoadd d a b w o s => some (rFmt 0x0E d.toNat a.toNat b.toNat (w.toNat * 32 + o.toNat * 8 + s.toNat))
  | .amoand d a b w o s => some (rFmt 0x0E d.toNat a.toNat b.toNat (0x80 + w.toNat * 32 + o.toNat * 8 + s.toNat))
  | .amoor d a b w o s => some (rFmt 0x0E d.toNat a.toNat b.toNat (0x100 + w.toNat * 32 + o.toNat * 8 + s.toNat))
  | .amoxor d a b w o s => some (rFmt 0x0E d.toNat a.toNat b.toNat (0x180 + w.toNat * 32 + o.toNat * 8 + s.toNat))
  | .amomin d a b w o s => some (rFmt 0x0E d.toNat a.toNat b.toNat (0x200 + w.toNat * 32 + o.toNat * 8 + s.toNat))
  | .amomax d a b w o s => some (rFmt 0x0E d.toNat a.toNat b.toNat (0x280 + w.toNat * 32 + o.toNat * 8 + s.toNat))
  | .amominu d a b w o s => some (rFmt 0x0E d.toNat a.toNat b.toNat (0x300 + w.toNat * 32 + o.toNat * 8 + s.toNat))
  | .amomaxu d a b w o s => some (rFmt 0x0E d.toNat a.toNat b.toNat (0x380 + w.toNat * 32 + o.toNat * 8 + s.toNat))
  | .amoswap d a b w o s => some (rFmt 0x0E d.toNat a.toNat b.toNat (0x400 + w.toNat * 32 + o.toNat * 8 + s.toNat))
  | .amocas d a b w o s => some (rFmt 0x0E d.toNat a.toNat b.toNat (0x480 + w.toNat * 32 + o.toNat * 8 + s.toNat))
  | .amofadd d a b w o s => some (rFmt 0x0E d.toNat a.toNat b.toNat (0x500 + w.toNat * 32 + o.toNat * 8 + s.toNat))
  | .amofmin d a b w o s => some (rFmt 0x0E d.toNat a.toNat b.toNat (0x580 + w.toNat * 32 + o.toNat * 8 + s.toNat))
  | .amofmax d a b w o s => some (rFmt 0x0E d.toNat a.toNat b.toNat (0x600 + w.toNat * 32 + o.toNat * 8 + s.toNat))
  | .csrr d c => some (iFmt 0x0F d.toNat 0 c.toNat)
  | .csrw a c => some (iFmt 0x0F 0 a.toNat (0x1000 + c.toNat))
  | .csrx d a c => some (iFmt 0x0F d.toNat a.toNat (0x2000 + c.toNat))
  | .trap i => some (iFmt 0x0F 0 0 (0x3000 + i.toNat))
  | .brk i => some (iFmt 0x0F 0 0 (0x4000 + i.toNat))
  | .eret => some (iFmt 0x0F 0 0 0x5000)
  | .waitw d a => some (iFmt 0x0F d.toNat a.toNat 0x6000)
  | .yield => some (iFmt 0x0F 0 0 0x7000)
  | .vsync => some (iFmt 0x0F 0 0 0x8000)
  | .vadd d a b h => some (rFmt 0x10 d.toNat a.toNat b.toNat (h.toNat * 8))
  | .vsub d a b h => some (rFmt 0x10 d.toNat a.toNat b.toNat (0x20 + h.toNat * 8))
  | .vrsub d a b h => some (rFmt 0x10 d.toNat a.toNat b.toNat (0x40 + h.toNat * 8))
  | .vmul d a b h => some (rFmt 0x10 d.toNat a.toNat b.toNat (0x60 + h.toNat * 8))
  | .vmulh d a b h => some (rFmt 0x10 d.toNat a.toNat b.toNat (0x80 + h.toNat * 8))
  | .vmulhu d a b h => some (rFmt 0x10 d.toNat a.toNat b.toNat (0xa0 + h.toNat * 8))
  | .vmadd d a b h => some (rFmt 0x10 d.toNat a.toNat b.toNat (0xc0 + h.toNat * 8))
  | .vdiv d a b h => some (rFmt 0x10 d.toNat a.toNat b.toNat (0xe0 + h.toNat * 8))
  | .vdivu d a b h => some (rFmt 0x10 d.toNat a.toNat b.toNat (0x100 + h.toNat * 8))
  | .vrem d a b h => some (rFmt 0x10 d.toNat a.toNat b.toNat (0x120 + h.toNat * 8))
  | .vmin d a b h => some (rFmt 0x10 d.toNat a.toNat b.toNat (0x140 + h.toNat * 8))
  | .vmax d a b h => some (rFmt 0x10 d.toNat a.toNat b.toNat (0x160 + h.toNat * 8))
  | .vminu d a b h => some (rFmt 0x10 d.toNat a.toNat b.toNat (0x180 + h.toNat * 8))
  | .vmaxu d a b h => some (rFmt 0x10 d.toNat a.toNat b.toNat (0x1a0 + h.toNat * 8))
  | .vand d a b h => some (rFmt 0x11 d.toNat a.toNat b.toNat (h.toNat * 8))
  | .vor d a b h => some (rFmt 0x11 d.toNat a.toNat b.toNat (0x20 + h.toNat * 8))
  | .vxor d a b h => some (rFmt 0x11 d.toNat a.toNat b.toNat (0x40 + h.toNat * 8))
  | .vshl d a b h => some (rFmt 0x11 d.toNat a.toNat b.toNat (0x60 + h.toNat * 8))
  | .vshr d a b h => some (rFmt 0x11 d.toNat a.toNat b.toNat (0x80 + h.toNat * 8))
  | .vsar d a b h => some (rFmt 0x11 d.toNat a.toNat b.toNat (0xa0 + h.toNat * 8))
  | .vsadd d a b h => some (rFmt 0x11 d.toNat a.toNat b.toNat (0xc0 + h.toNat * 8))
  | .vsaddu d a b h => some (rFmt 0x11 d.toNat a.toNat b.toNat (0xe0 + h.toNat * 8))
  | .vssub d a b h => some (rFmt 0x11 d.toNat a.toNat b.toNat (0x100 + h.toNat * 8))
  | .vssubu d a b h => some (rFmt 0x11 d.toNat a.toNat b.toNat (0x120 + h.toNat * 8))
  | .vabs d a => some (rFmt 0x11 d.toNat a.toNat 0 0x140)
  | .vclz d a => some (rFmt 0x11 d.toNat a.toNat 0 0x160)
  | .vpopc d a => some (rFmt 0x11 d.toNat a.toNat 0 0x180)
  | .vcmp d a b h c => some (rFmt 0x12 d.toNat a.toNat b.toNat (h.toNat * 8 + c.toNat))
  | .vsel d a b h p => some (rFmt 0x12 d.toNat a.toNat b.toNat (0x20 + h.toNat * 8 + p.toNat))
  | .vmv d b h => some (rFmt 0x12 d.toNat 0 b.toNat (0x40 + h.toNat * 8))
  | .vid d => some (rFmt 0x12 d.toNat 0 0 0x60)
  | .vext d a b h => some (rFmt 0x12 d.toNat a.toNat b.toNat (0x80 + h.toNat * 8))
  | .vins d a b h => some (rFmt 0x12 d.toNat a.toNat b.toNat (0xa0 + h.toNat * 8))
  | .vwiden d b k => some (rFmt 0x12 d.toNat 0 b.toNat (0xc0 + k.toNat))
  | .vnshr d a b h k => some (rFmt 0x12 d.toNat a.toNat b.toNat (0xe0 + h.toNat * 8 + k.toNat))
  | .vfadd d a b h => some (rFmt 0x13 d.toNat a.toNat b.toNat (h.toNat * 8))
  | .vfsub d a b h => some (rFmt 0x13 d.toNat a.toNat b.toNat (0x20 + h.toNat * 8))
  | .vfmul d a b h => some (rFmt 0x13 d.toNat a.toNat b.toNat (0x40 + h.toNat * 8))
  | .vfma d a b h => some (rFmt 0x13 d.toNat a.toNat b.toNat (0x60 + h.toNat * 8))
  | .vfnma d a b h => some (rFmt 0x13 d.toNat a.toNat b.toNat (0x80 + h.toNat * 8))
  | .vfms d a b h => some (rFmt 0x13 d.toNat a.toNat b.toNat (0xa0 + h.toNat * 8))
  | .vfdiv d a b h => some (rFmt 0x13 d.toNat a.toNat b.toNat (0xc0 + h.toNat * 8))
  | .vfsqrt d a => some (rFmt 0x13 d.toNat a.toNat 0 0xe0)
  | .vfmin d a b h => some (rFmt 0x13 d.toNat a.toNat b.toNat (0x100 + h.toNat * 8))
  | .vfmax d a b h => some (rFmt 0x13 d.toNat a.toNat b.toNat (0x120 + h.toNat * 8))
  | .vfsgn d a b h k => some (rFmt 0x13 d.toNat a.toNat b.toNat (0x140 + h.toNat * 8 + k.toNat))
  | .vfrcp d a => some (rFmt 0x14 d.toNat a.toNat 0 0)
  | .vfrsq d a => some (rFmt 0x14 d.toNat a.toNat 0 0x20)
  | .vfexp2 d a => some (rFmt 0x14 d.toNat a.toNat 0 0x40)
  | .vflog2 d a => some (rFmt 0x14 d.toNat a.toNat 0 0x60)
  | .vfcvt d a k => some (rFmt 0x14 d.toNat a.toNat 0 (0x80 + k.toNat))
  | .vfclass d a => some (rFmt 0x14 d.toNat a.toNat 0 0xa0)
  | .vfcmp d a b h c => some (rFmt 0x14 d.toNat a.toNat b.toNat (0xc0 + h.toNat * 8 + c.toNat))
  | .vmulm d a b h k => some (rFmt 0x15 d.toNat a.toNat b.toNat (h.toNat * 8 + k.toNat))
  | .vfmam d a b h => some (rFmt 0x15 d.toNat a.toNat b.toNat (0x20 + h.toNat * 8))
  | .vredsum d a b h => some (rFmt 0x16 d.toNat a.toNat b.toNat (h.toNat * 8))
  | .vredmin d a b h => some (rFmt 0x16 d.toNat a.toNat b.toNat (0x20 + h.toNat * 8))
  | .vredmax d a b h => some (rFmt 0x16 d.toNat a.toNat b.toNat (0x40 + h.toNat * 8))
  | .vredminu d a b h => some (rFmt 0x16 d.toNat a.toNat b.toNat (0x60 + h.toNat * 8))
  | .vredmaxu d a b h => some (rFmt 0x16 d.toNat a.toNat b.toNat (0x80 + h.toNat * 8))
  | .vredand d a b h => some (rFmt 0x16 d.toNat a.toNat b.toNat (0xa0 + h.toNat * 8))
  | .vredor d a b h => some (rFmt 0x16 d.toNat a.toNat b.toNat (0xc0 + h.toNat * 8))
  | .vredxor d a b h => some (rFmt 0x16 d.toNat a.toNat b.toNat (0xe0 + h.toNat * 8))
  | .vfredsum d a b h => some (rFmt 0x16 d.toNat a.toNat b.toNat (0x100 + h.toNat * 8))
  | .vfredmin d a b h => some (rFmt 0x16 d.toNat a.toNat b.toNat (0x120 + h.toNat * 8))
  | .vfredmax d a b h => some (rFmt 0x16 d.toNat a.toNat b.toNat (0x140 + h.toNat * 8))
  | .vslideup d a b h => some (rFmt 0x17 d.toNat a.toNat b.toNat (h.toNat * 8))
  | .vslidedn d a b h => some (rFmt 0x17 d.toNat a.toNat b.toNat (0x20 + h.toNat * 8))
  | .vperm d a b => some (rFmt 0x17 d.toNat a.toNat b.toNat 0x40)
  | .vcompress d a => some (rFmt 0x17 d.toNat a.toNat 0 0x60)
  | .vexpand d a => some (rFmt 0x17 d.toNat a.toNat 0 0x80)
  | .vscan d a k => some (rFmt 0x17 d.toNat a.toNat 0 (0xa0 + k.toNat))
  | .vtopk d a b k => some (rFmt 0x17 d.toNat a.toNat b.toNat (0xc8 + k.toNat))
  | .pand d a b => some (rFmt 0x18 d.toNat a.toNat b.toNat 0)
  | .por d a b => some (rFmt 0x18 d.toNat a.toNat b.toNat 0x20)
  | .pxor d a b => some (rFmt 0x18 d.toNat a.toNat b.toNat 0x40)
  | .pandn d a b => some (rFmt 0x18 d.toNat a.toNat b.toNat 0x60)
  | .pcnt d a => some (rFmt 0x18 d.toNat a.toNat 0 0x80)
  | .pfirst d a => some (rFmt 0x18 d.toNat a.toNat 0 0xa0)
  | .psetn d a => some (rFmt 0x18 d.toNat a.toNat 0 0xc0)
  | .pmovPp d a => some (rFmt 0x18 d.toNat a.toNat 0 0xe0)
  | .pmovPv d a => some (rFmt 0x18 d.toNat a.toNat 0 0xe1)
  | .pmovVp d a => some (rFmt 0x18 d.toNat a.toNat 0 0xe2)
  | .vquant d a b => some (rFmt 0x19 d.toNat a.toNat b.toNat 8)
  | .vdeq d a b => some (rFmt 0x19 d.toNat a.toNat b.toNat 0x28)
  | .vscale d a b => some (rFmt 0x19 d.toNat a.toNat b.toNat 0x48)
  | .vld d a o r s => some (rFmt 0x20 d.toNat a.toNat o.toNat (r.toNat * 8 + s.toNat))
  | .vlds d a b r s => some (rFmt 0x20 d.toNat a.toNat b.toNat (0x100 + r.toNat * 8 + s.toNat))
  | .vldg d a o f r s => some (rFmt 0x20 d.toNat a.toNat o.toNat (0x200 + f.toNat * 32 + r.toNat * 8 + s.toNat))
  | .vldx d a b r s => some (rFmt 0x20 d.toNat a.toNat b.toNat (0x300 + r.toNat * 8 + s.toNat))
  | .vldff d a o r s => some (rFmt 0x20 d.toNat a.toNat o.toNat (0x400 + r.toNat * 8 + s.toNat))
  | .vst d a o r s => some (rFmt 0x21 d.toNat a.toNat o.toNat (r.toNat * 8 + s.toNat))
  | .vsts d a b r s => some (rFmt 0x21 d.toNat a.toNat b.toNat (0x100 + r.toNat * 8 + s.toNat))
  | .vstg d a o f r s => some (rFmt 0x21 d.toNat a.toNat o.toNat (0x200 + f.toNat * 32 + r.toNat * 8 + s.toNat))
  | .vstx d a b r s => some (rFmt 0x21 d.toNat a.toNat b.toNat (0x300 + r.toNat * 8 + s.toNat))
  | .vstxa d a b r s => some (rFmt 0x22 d.toNat a.toNat b.toNat (0x300 + r.toNat * 8 + s.toNat))
  | .vstxc d a b r s => some (rFmt 0x23 d.toNat a.toNat b.toNat (0x300 + r.toNat * 8 + s.toNat))
  | .pld d a o r s => some (rFmt 0x24 d.toNat a.toNat o.toNat (r.toNat * 8 + s.toNat))
  | .pst d a o r s => some (rFmt 0x25 d.toNat a.toNat o.toNat (r.toNat * 8 + s.toNat))
  | .sbind d a => some (rFmt 0x26 (0x1c + d.toNat) a.toNat 0 0)
  | .sunbind d => some (rFmt 0x26 (0x1c + d.toNat) 0 0 0x20)
  | .spos d a => some (rFmt 0x26 d.toNat (0x1c + a.toNat) 0 0x40)
  | .mzero d => some (rFmt 0x28 d.toNat 0 0 0)
  | .mma d a b => some (rFmt 0x28 d.toNat a.toNat b.toNat 0x20)
  | .mmam d a b => some (rFmt 0x29 d.toNat a.toNat b.toNat 0)
  | .mdrain d a b f m => some (rFmt 0x2A d.toNat a.toNat b.toNat (f.toNat * 32 + m.toNat))
  | .mpert a b => some (rFmt 0x2B 0 a.toNat b.toNat 0)
  | .tldef a b => some (rFmt 0x2C 0 a.toNat b.toNat 0)
  | .tlexp a b => some (rFmt 0x2C 0 a.toNat b.toNat 0x20)
  | .tlwait a b => some (rFmt 0x2C 0 a.toNat b.toNat 0x40)
  | .tlrel a => some (rFmt 0x2C 0 a.toNat 0 0x60)
  | .cpy a b => some (rFmt 0x2D 0 a.toNat b.toNat 0)
  | .cpyp a b => some (rFmt 0x2D 0 a.toNat b.toNat 0x20)
  | .cpyg a b => some (rFmt 0x2D 0 a.toNat b.toNat 0x40)
  | .cpys a b => some (rFmt 0x2D 0 a.toNat b.toNat 0x60)
  | .mshq d a b => some (rFmt 0x30 (0x1c + d.toNat) a.toNat b.toNat 0)
  | .mshgl a => some (rFmt 0x30 0 a.toNat 0 0x20)
  | .mshref a => some (rFmt 0x30 0 a.toNat 0 0x40)
  | .mshcrs a => some (rFmt 0x30 0 a.toNat 0 0x60)
  | .mshren a => some (rFmt 0x30 0 a.toNat 0 0x80)
  | .mshcut a => some (rFmt 0x30 0 a.toNat 0 0xa0)
  | .mshmig a => some (rFmt 0x30 0 a.toNat 0 0xc0)
  | .mshwait a => some (rFmt 0x30 0 a.toNat 0 0xe0)
  | .clrgen a => some (rFmt 0x31 0 a.toNat 0 0)
  | .binapp d a b => some (rFmt 0x31 d.toNat a.toNat b.toNat 0x20)
  | .binplay a => some (rFmt 0x31 0 a.toNat 0 0x40)
  | .binwait a => some (rFmt 0x31 0 a.toNat 0 0x60)
  | .tend => some (rFmt 0x34 0 0 0 0)
  | .tagset a => some (rFmt 0x34 0 a.toNat 0 0x20)
  | .tagtest d a => some (rFmt 0x34 d.toNat a.toNat 0 0x40)
  | .rget d a b => some (rFmt 0x35 d.toNat a.toNat b.toNat 0)
  | .rput d a => some (rFmt 0x35 d.toNat a.toNat 0 0x20)
  | .ratom d a b c w => some (rFmt 0x35 d.toNat a.toNat b.toNat (0x40 + c.toNat * 2 + w.toNat))
  | .rflush => some (rFmt 0x35 0 0 0 0x60)
  | .cred a => some (rFmt 0x35 0 a.toNat 0 0x80)
  | .cbcast a => some (rFmt 0x35 0 a.toNat 0 0xa0)
  | .rep c s t => some (jFmt 0x38 (c.toNat * 1048576 + s.toNat * 131072 + t.toNat * 32768))
  | .vsetl d a g e f => some (cFmt 0x39 d.toNat 0 (a.toNat * 16384 + g.toNat * 64 + e.toNat * 8 + f.toNat))
  | .vsetli d v g e f => some (cFmt 0x39 d.toNat 1 (v.toNat * 512 + g.toNat * 64 + e.toNat * 8 + f.toNat))
  | .setmode d l m => some (cFmt 0x39 d.toNat 2 (l.toNat * 32768 + m.toNat))
  | .setmodev d a => some (cFmt 0x39 d.toNat 3 (a.toNat * 16384))
  | .microOperationIssue .. => none
  | .vectorCommit .. => none
  | .heldInstructionRetire .. => none
  | .hartWake .. => none
  | .waitwRecheck .. => none
  | .blockDispatch .. => none
  | .commandClaimRegistration .. => none
  | .copyCommandRun .. => none
  | .tileWatchdogExpiry .. => none
  | .topologyCommandRun .. => none
  | .colouringCommandRun .. => none
  | .binAppendWrite .. => none
  | .binningCommandRun .. => none
  | .hodTileTransfer .. => none
  | .remoteRequestAtPeer .. => none
  | .peerAccessArrival .. => none
  | .collectiveComplete .. => none
  | .collectiveTimeout .. => none
  | .kick .. => none
  | .take .. => none
  | .slotTake .. => none
  | .kernelNodeLaunch .. => none
  | .launchPacket .. => none
  | .copyNode .. => none
  | .conditionalNode .. => none
  | .switchNode .. => none
  | .loopNode .. => none
  | .loopBodyEnd .. => none
  | .eventWaitNode .. => none
  | .eventSignalNode .. => none
  | .selfTestNode .. => none
  | .endNode .. => none
  | .nodeCompletion .. => none
  | .completionAcknowledge .. => none
  | .replayEnd .. => none
  | .heartbeatTimeout => none
  | .controlHartMemoryError .. => none
  | .takeoverTimeout => none
  | .ctxkick .. => none
  | .inval .. => none
  | .translationInvalidationComplete .. => none
  | .preempt .. => none
  | .preemptAcknowledge .. => none
  | .preemptTimeout .. => none
  | .resume .. => none
  | .inboundPostedWrite .. => none
  | .inboundGo .. => none
  | .inboundAcknowledgement .. => none
  | .hostReadRequest .. => none
  | .releaseRecord .. => none
  | .retireChannel .. => none
  | .releaseReserve .. => none
  | .setPatrol .. => none
  | .setSelftest .. => none
  | .setRelayshare .. => none
  | .readCoverage .. => none
  | .setDeviceNumber .. => none
  | .writeRoute .. => none
  | .spdmRequest .. => none
  | .firmwareUpdate .. => none
  | .svnAdvance => none
  | .injectCorrectable .. => none
  | .injectUncorrectable .. => none
  | .injectPoison .. => none
  | .injectFailChannel .. => none
  | .channelFailure .. => none
  | .relayGranuleMove .. => none
  | .spareRebuild .. => none
  | .patrolPeriodStart .. => none
  | .patrolRead .. => none
  | .alertBackoff .. => none
  | .retentionEntry .. => none
  | .retentionExit .. => none
  | .housekeeperSelfTest .. => none
  | .selfTestEnd .. => none
  | .selfTestLimit .. => none
  | .selfTestAbandon .. => none
  | .powerMeasurement .. => none
  | .clockRaise => none
  | .thermalLimit .. => none
  | .idleEntry .. => none
  | .standbyRequest => none
  | .powerLoss => none
  | .coldReset .. => none
  | .warmReset .. => none
  | .beydinPortDown .. => none
  | .pciePortDown .. => none
  | .registerWrite .. => none
  | .wordNotAnInstruction .. => none
  | .instructionFetchFault .. => none
  | .streamReadAhead .. => none
  | .peerReply .. => none
  | .controlHartReload .. => none
  | .standbyExit => none

/-- The word of an instruction, as XTVAL reports it (01 R54). -/
def wordOf (i : Instr) : IWord := (encode i).getD 0

/-- The instruction has a word. -/
def Instr.hasWord (i : Instr) : Bool := (encode i).isSome

end Sys2Proof
end

