-- ==== Sys2Proof/Machine/Flags.lean ====
section
/-! DEFINITION. The sticky flags and how they join (01 R36, 02 R80), and the integer results that raise or define them
(02 R62 to R65). -/

namespace Sys2Proof.Machine

/-- The flags of FFLAGS (01 R36). -/
structure Flags where
  grt : Bool := false
  sat : Bool := false
  nv : Bool := false
  dz : Bool := false
  of : Bool := false
  uf : Bool := false
  nx : Bool := false
  deriving DecidableEq, Repr

/-- No flag. -/
def Flags.none : Flags := ⟨false, false, false, false, false, false, false⟩

/-- The flags as bits of FFLAGS. -/
def Flags.bits (f : Flags) : BitVec 7 :=
  BitVec.ofBool f.grt ++ BitVec.ofBool f.sat ++ BitVec.ofBool f.nv ++ BitVec.ofBool f.dz ++ BitVec.ofBool f.of
    ++ BitVec.ofBool f.uf ++ BitVec.ofBool f.nx

/-- Both sets of flags. -/
def Flags.or (a b : Flags) : Flags :=
  ⟨a.grt || b.grt, a.sat || b.sat, a.nv || b.nv, a.dz || b.dz, a.of || b.of, a.uf || b.uf, a.nx || b.nx⟩

/-! ### Integers of a width -/

/-- The two's complement value of a number of `w` bits (R62). -/
def toS (w n : Nat) : Int := if n < 2 ^ (w - 1) then n else (n : Int) - (2 ^ w : Nat)

/-- The `w` bits of an integer. -/
def ofS (w : Nat) (v : Int) : Nat := (v % (2 ^ w : Nat)).toNat

/-- A value clamped to a range, and whether that changed it (R63). -/
def clamp (lo hi v : Int) : Int × Bool := if v < lo then (lo, true) else if v > hi then (hi, true) else (v, false)

/-- The signed or unsigned range of a width (R62). -/
def intRange (isSigned : Bool) (w : Nat) : Int × Int :=
  if isSigned then (-(2 ^ (w - 1) : Nat), (2 ^ (w - 1) : Nat) - 1) else (0, (2 ^ w : Nat) - 1)

/-- Clamped to the range of a width, with SAT when that changed it (R63). -/
def saturate (isSigned : Bool) (w : Nat) (v : Int) : Nat × Flags :=
  let (lo, hi) := intRange isSigned w
  let (r, c) := clamp lo hi v
  (ofS w r, { sat := c })

/-- The signed quotient (R64). -/
def quotS (w a b : Nat) : Nat :=
  if b = 0 then (if toS w a < 0 then 1 else 2 ^ w - 1) else ofS w ((toS w a).tdiv (toS w b))

/-- The unsigned quotient (R64). -/
def quotU (w a b : Nat) : Nat := if b = 0 then 2 ^ w - 1 else a / b

/-- The signed remainder (R64). -/
def remS (w a b : Nat) : Nat := if b = 0 then a else ofS w ((toS w a).tmod (toS w b))

/-- The unsigned remainder (R64). -/
def remU (a b : Nat) : Nat := if b = 0 then a else a % b

/-- Shift left by an amount below 256 (R65). -/
def shlN (w a n : Nat) : Nat := a * 2 ^ (n % 256) % 2 ^ w

/-- Logical shift right (R65). -/
def shrN (a n : Nat) : Nat := a / 2 ^ (n % 256)

/-- Arithmetic shift right (R65). -/
def sarN (w a n : Nat) : Nat := ofS w (toS w a / (2 ^ (n % 256) : Nat))

/-- Leading zeros within `w` bits. -/
def clzN (w a : Nat) : Nat := if a = 0 then w else w - 1 - a.log2

/-- The number of 1 bits among the `w` lowest. -/
def popcN : Nat → Nat → Nat
  | 0, _ => 0
  | w + 1, a => a % 2 + popcN w (a / 2)

/-- Trailing zeros within `w` bits. -/
def ctzN : Nat → Nat → Nat
  | 0, _ => 0
  | w + 1, a => if a % 2 = 1 then 0 else 1 + ctzN w (a / 2)

/-- The `w` lowest bits in reversed order. -/
def brevN : Nat → Nat → Nat → Nat
  | 0, _, acc => acc
  | w + 1, a, acc => brevN w (a / 2) (2 * acc + a % 2)

end Sys2Proof.Machine
end

