-- ==== Sys2Proof/Machine/HartState.lean ====
section
/-! DEFINITION. The state of one hart: registers, CSRs, streams, arming and the block it runs (01 R14, R20 to R51). -/

namespace Sys2Proof.Machine

/-- The states of a hart (01 R20). -/
inductive HartSt where
  | idle | running | waiting | stopped | halted
  deriving DecidableEq, Repr

/-- What a register v28 to v31 is bound to (07 R247, 08 R286). -/
inductive Binding where
  /-- unbound -/
  | none
  /-- an affine walk: address of element 0, write direction, and the count and stride of each dimension -/
  | affine (base : Word) (write : Bool) (dims : List (Nat × Int))
  /-- a neighbour query: block fields MESHA, FIELDA, first identity, NQ, QK, MAXF, BVAL and the EPOCH at binding -/
  | query (mesha fielda : Word) (first nq qk maxf : Nat) (bval epoch : Word)
  deriving DecidableEq, Repr

/-- A stream: its binding, the descriptor's address, format code, element width code, position and fault bit
(07 R248 to R250). A neighbour query has passed the cells below `cell`, whose elements are those below `cellPos` (08 R287). -/
structure Stream where
  bind : Binding
  desc : Word
  fmt : BitVec 5
  ewc : Nat
  pos : Nat
  fault : Bool
  cell : Nat := 0
  cellPos : Nat := 0
  deriving DecidableEq, Repr

/-- An unbound stream. -/
def Stream.unbound : Stream := ⟨.none, 0, 0, 0, 0, false, 0, 0⟩

/-- An armed perturbation: ROW, COL, MATCH and the value (09 R319). -/
structure Arming where
  row : Nat
  col : Nat
  matches_ : Bool
  value : Word
  deriving DecidableEq, Repr

/-- The block a hart runs: slot, node and generation of its launch and its grains (10 R329). -/
structure Block where
  slot : Nat
  node : Nat
  gen : Nat
  g0 : Nat
  g1 : Nat
  deriving DecidableEq, Repr

/-- One hart. `num` is the package hart number (01 R39), or 1152 + n for control hart n (14 R394). -/
structure Hart where
  num : Nat
  st : HartSt
  /-- s0 to s31; entry 0 holds zero (R24) -/
  regs : Vector Word 32
  /-- v0 to v31 (R24) -/
  vregs : Vector VWord 32
  /-- the format tags of v0 to v31 (R40) -/
  tags : Vector (BitVec 6) 32
  /-- p0 to p7; entry 0 is not read (R24) -/
  preds : Vector PWord 8
  pc : Word
  vl : BitVec 15
  vlmax : BitVec 15
  vstart : BitVec 15
  mstart : BitVec 9
  repidx : BitVec 6
  vcfg : Word
  mode : Word
  fflags : BitVec 7
  /-- XT in bit 2, PPRIV in bit 1, PRIV in bit 0 (R49) -/
  xstatus : BitVec 3
  /-- FETCH, REP, MAT, VEC and CODE (R50) -/
  xcause : BitVec 12
  xepc : Word
  xtval : Word
  xvec : Word
  xscratch : Word
  heapbase : Word
  heaplim : Word
  heapoff : Word
  ptroot : Word
  ctxcfg : Word
  atmem : Word
  atscr : Word
  atiod : Word
  atport : Word
  ctxid : BitVec 6
  blklo : Word
  blkhi : Word
  /-- NODEID: graph slot and node (R39) -/
  slot : BitVec 10
  node : BitVec 16
  gen : BitVec 16
  retired : Word
  /-- streams of v28 to v31 -/
  streams : Vector Stream 4
  arming : Option Arming
  /-- VCOMMIT: the address of the oldest vector instruction that has not committed, or 1 where there is none (R37; log 65) -/
  vcommit : Word
  /-- YIELD has given the hart's next turn away (05 R198; log 68) -/
  yielded : Bool
  /-- the release at system scope that the hart waits in: RETIRED as it began, and the number of the context's next remote
  operation at that time (03 R137) -/
  relMark : Option (Word × Nat)
  /-- VSTXC words that a trap interrupted, by address: the number of the draw that fixed which element remains at a location that
  several name (07 R245; log 8) -/
  scatter : List (Nat × Nat)
  /-- devices that an RGET or RATOM waits for (07 R263, R266) -/
  asked : List Nat
  /-- replies received for the waiting instruction: device and status -/
  replies : List (Nat × Nat)
  block : Option Block
  deriving DecidableEq, Repr

/-- A hart right after reset (01 R27, R48; registers without a stated value hold zero, log 4). A compute hart is IDLE
(R20); a control hart runs in supervisor mode from the first word of its instruction memory (14 R394, log 6). -/
def Hart.reset (n : Nat) : Hart where
  num := n
  st := if n < 1152 then .idle else .running
  regs := Vector.replicate 32 0
  vregs := Vector.replicate 32 0
  tags := Vector.replicate 32 0
  preds := Vector.replicate 8 0
  pc := if n < 1152 then 0 else 0x8000000000000000
  vl := 0
  vlmax := 0
  vstart := 0
  mstart := 0
  repidx := 0
  vcfg := 0x8000000000000000
  mode := 0
  fflags := 0
  xstatus := if n < 1152 then 0 else 1
  xcause := 0
  xepc := 0
  xtval := 0
  xvec := 0
  xscratch := 0
  heapbase := 0
  heaplim := 0
  heapoff := 0
  ptroot := 0
  ctxcfg := 0
  atmem := 0
  atscr := 0
  atiod := 0
  atport := 0
  ctxid := 0
  blklo := 0
  blkhi := 0
  slot := 0
  node := 0
  gen := 0
  retired := 0
  streams := Vector.replicate 4 Stream.unbound
  arming := none
  vcommit := 1
  yielded := false
  relMark := none
  scatter := []
  asked := []
  replies := []
  block := none

end Sys2Proof.Machine
end

