-- ==== Sys2Proof/Machine/DeviceState.lean ====
section
/-! DEFINITION. The state of the module outside its harts: tiles, claims, engine queues, the front end, contexts, reliability,
power, ports and firmware. -/

namespace Sys2Proof.Machine

/-- The states of a tile (03 R113). -/
inductive TileSt where
  | empty | filling | ready | draining | fault
  deriving DecidableEq, Repr

/-- A tile table entry (03 R113) with its instance and the context that defined it (07 R251). -/
structure Tile where
  lv : Level
  inst : Nat
  base : Nat
  size : Nat
  st : TileSt
  ph : Bool
  count : Nat
  drn : Nat
  arm : Nat
  why : Bool
  rep : Bool
  timer : Nat
  ctx : Nat
  deriving DecidableEq, Repr

/-- A claim: the memory controller that holds it, as device × 16 + target, the claimed 256-byte granules as the keys of
their first and last byte, and the command (03 R132). -/
structure Claim where
  home : Nat
  lo : Nat
  hi : Nat
  cmd : Nat
  deriving DecidableEq, Repr

/-- The translation environment of a party: what the context and the place of the party fix (01 R48, R51; 03 R98 to R107).
`user` is false for supervisor mode; `core` is die × 24 + core; `master` is the identity of R385. -/
structure Env where
  heapbase : Word
  heaplim : Word
  heapoff : Word
  ptroot : Word
  ctxcfg : Word
  atmem : Word
  atscr : Word
  atiod : Word
  core : Nat
  ctx : Nat
  master : Nat
  user : Bool
  /-- the number of a control hart, which translates nothing (14 R394) -/
  ctl : Option Nat
  deriving DecidableEq, Repr

/-- Where bytes lie. -/
inductive Place where
  /-- memory of this device, by key, with the page's H and P bits -/
  | mem (key : Nat) (h p : Bool)
  /-- a discarded page (R110) -/
  | zeros
  /-- the function window of I/O die 0 or 1 (13 R360) -/
  | window (die off : Nat)
  /-- memory of a peer (R111) -/
  | peer (device spa : Nat)
  /-- a scratchpad instance (R107) -/
  | scratch (lv : Level) (inst off : Nat)
  deriving DecidableEq, Repr

/-- Bytes of one access that lie together: their address, number and place. -/
structure Part where
  va : Word
  len : Nat
  place : Place
  deriving DecidableEq, Repr

/-- A command in an engine's queue. `id` numbers the commands in order of acceptance, `unit` is the core (copy), the die, or
0 (hod), `stamp` is the issue stamp once it has issued (03 R134). `src`, `dst` and `fin` are what is read, the ranges
written and the completion word, as translated and pinned at issue (07 R257); `tiles` are the tiles that it made DRAINING, by level,
instance and base; `status` is how it ended, while its DONE word is not yet written. -/
structure Command where
  id : Nat
  kind : EngineKind
  unit : Nat
  op : Nat
  blockVa : Word
  block : List Byte
  done : Option Word
  env : Env
  hart : Nat
  launch : Option (Nat × Nat × Nat)
  stamp : Option Nat
  src : List Part
  dst : List (List Part)
  fin : List Part
  claimed : Bool
  tiles : List (Level × Nat × Nat)
  status : Option (Nat × Nat)
  /-- what acceptance fixed beyond the block: index list (copy), chain of chunks and epoch (engines), list of devices (hod) -/
  extra : List Nat
  /-- the writes of a run that stopped part-way: their addresses (copy, hod) or keys (other engines), bytes, and whether the data
  is poisoned; `at_` counts those performed, and `ends` is the status and detail the run has (03 R138; 13 R382) -/
  rest : List (Nat × List Byte × Bool) := []
  at_ : Nat := 0
  ends : Nat × Nat := (0, 0)
  deriving DecidableEq, Repr

/-- Who takes the next steps: a hart, or a step of the device (log 2). -/
inductive Turn where
  | hart (n : Nat)
  | event (i : Instr)
  /-- the translation buffer of hart `n`'s core takes the leaf entry of an address (03 R106) -/
  | fill (n : Nat) (va : Word)
  deriving DecidableEq, Repr

/-- A leaf entry in the translation buffer of a core: context, level and page, and the entry as it was read (03 R106). -/
structure Buffered where
  core : Nat
  ctx : Nat
  lvl : Nat
  page : Nat
  entry : Nat
  deriving DecidableEq, Repr

/-- A mortar table entry that is reserved (13 R374). -/
structure Mortar where
  tile : Nat
  gen : Nat
  node : Nat
  slot : Nat
  decl : Nat
  replay : Nat
  ctx : Nat
  isSet : Bool
  deriving DecidableEq, Repr

/-- A fault record (13 R376). -/
structure FaultRec where
  kind : Nat
  cause : Nat
  node : Nat
  die : Nat
  core : Nat
  hart : Nat
  xtval : Word
  xepc : Word
  detail : Word
  deriving DecidableEq, Repr

/-- A replay record: its place in the journal, its node states (0 not launched, 1 launching, 2 launched, 3 complete or
skipped), loop counts and counters (13 R364, R365, R375, R377; 14 R396). -/
structure Replay where
  jrec : Nat
  slot : Nat
  gen : Nat
  ctx : Nat
  st : Nat
  snapa : Word
  fallback : Nat
  loops : List (Nat × Nat)
  nodes : List (Nat × Nat)
  rseq : Nat
  nrun : Nat
  nskip : Nat
  stfail : Nat
  maxiter : Bool
  start : Word
  /-- ranges [lo, hi) entered, with the owner node -/
  entered : List (Nat × Nat × Nat)
  /-- write declarations in fallback: node and declaration -/
  fell : List (Nat × Nat)
  fault : Option FaultRec
  /-- completion record, and the MSI-X vector where the slot entry asks for one (13 R363) -/
  compla : Word
  msix : Option Nat
  deriving DecidableEq, Repr

/-- A slot's status, of which STATE follows from its pending bit and its replay, and its journal record (13 R364, R377). -/
structure SlotStat where
  err : Nat
  gen : Nat
  ended : Nat
  jst : Nat
  jrec : Nat
  jgen : Nat
  jseq : Nat
  deriving DecidableEq, Repr

/-- A declaration of a launch packet (13 R373). -/
structure Decl where
  write : Bool
  idx : Nat
  set : Nat
  count : Nat
  base : Int
  stride : Int
  tsaddr : Word
  bytes : Nat
  tsCount : Nat
  pnode : Nat
  pdecl : Nat
  edge : Nat
  deriving DecidableEq, Repr

/-- An interval of grains [g0, g1) that no block has started, and its owner hart (10 R330). -/
structure Interval where
  g0 : Nat
  g1 : Nat
  owner : Option Nat
  deriving DecidableEq, Repr

/-- A launch packet held by a die, with its range task (10 R328 to R331, 13 R373). -/
structure Launch where
  die : Nat
  slot : Nat
  node : Nat
  gen : Nat
  ctx : Nat
  entry : Word
  param : Word
  lo : Int
  hi : Int
  grain : Nat
  blkgr : Nat
  decls : List Decl
  meshes : List Word
  /-- .scratch bytes of S1, S2 and S3 (13 R373) -/
  scratch : List Nat
  pool : List Interval
  /-- blocks running -/
  running : Nat
  /-- topology commands accepted before the packet that name a declared mesh (08 R285) -/
  meshWait : List Nat
  /-- the completion has been reported and waits for its acknowledgement (13 R377) -/
  reported : Bool
  deriving DecidableEq, Repr

/-- A shadow task slot that is filled: its hart, the launch, and the block's grains [g0, g1) (10 R331). -/
structure Shadow where
  hart : Nat
  slot : Nat
  node : Nat
  gen : Nat
  g0 : Nat
  g1 : Nat
  deriving DecidableEq, Repr

/-- A context record (13 R379). -/
structure CtxRec where
  heapbase : Word
  heaplim : Word
  heapoff : Word
  ptroot : Word
  ctxcfg : Word
  atmem : Word
  atscr : Word
  atiod : Word
  atport : Word
  xvec : Word
  tlhang : Nat
  savea : Word
  savesz : Nat
  peermap : Word
  func0 : Word
  func1 : Word
  /-- cores held: die × 24 + core -/
  cores : List Nat
  deriving DecidableEq, Repr

/-- A context: record, CTXSTATE and CTXERR (13 R380), and while it stops the units that have not acknowledged. -/
structure Ctx where
  live : CtxRec
  st : Nat
  err : Nat
  owed : List StopUnit
  deriving DecidableEq, Repr

/-- What pre-emption saved of the units whose records are their own (13 R384). -/
structure Saved where
  ctx : Nat
  /-- records written, and bytes used of the save area -/
  nrec : Nat
  used : Nat
  /-- stopped harts: number, key of the record body, hart -/
  harts : List (Nat × Nat × Hart)
  /-- slices of stopped blocks: hart, and key of the record body -/
  slices : List (Nat × Nat)
  cmds : List Command
  /-- records of tile table entries: keys of their bodies -/
  tiles : List Nat
  launches : List Launch
  deriving DecidableEq, Repr

/-- The front end, its journal and the dispatchers (13 R361 to R378). -/
structure FrontEnd where
  pend : BitVec 1024
  active : BitVec 1024
  taken : BitVec 1024
  lastTaken : Nat
  slots : List (Nat × SlotStat)
  replays : List Replay
  mortar : List Mortar
  launches : List Launch
  /-- launch packets sent and not yet accepted (13 R373) -/
  sent : List Launch
  /-- ended commands of copy nodes, oldest first: slot, node, generation, status and command block (13 R370) -/
  copyEnds : List (Nat × Nat × Nat × Nat × Word)
  /-- harts that wait for work, longest first -/
  waiting : List Nat
  /-- the filled shadow task slots, at most two to a hart, slot 0 first (10 R331) -/
  shadows : List Shadow
  seq : Nat
  primary : Nat
  standby : Nat
  takeovers : Nat
  beat : Word
  takeover : Bool
  hold : Bool
  lost : Bool
  housekeeper : Bool
  /-- the primary that a take-over halted, whose writes are fenced until it is reloaded (13 R378) -/
  fencedCtl : Option Nat
  /-- control harts whose self-test failed after a reload: they stay halted until the next reset (14 R395) -/
  failedCtl : List Nat
  /-- the pending slots that the standby listed at the last take-over, in ascending order, and that are not yet taken (14 R397) -/
  listed : Option (List Nat)
  deriving DecidableEq, Repr

/-- The contexts (13 R379 to R384). -/
structure Contexts where
  ctxs : List (Nat × Ctx)
  busy : BitVec 64
  invalBusy : BitVec 64
  /-- a RESUME waits for scratchpad arrays in retention (15 R418) -/
  resuming : BitVec 64
  saved : List Saved
  deriving DecidableEq, Repr

/-- A machine-check record that was made (15 R407); its release clears V alone (15 R428). -/
structure McRec where
  valid : Bool
  cls : BitVec 2
  inj : Bool
  unit : BitVec 8
  adrk : BitVec 3
  code : BitVec 8
  master : BitVec 12
  ctx : BitVec 6
  count : BitVec 16
  addr : Word
  synd : Word
  time : Word
  deriving DecidableEq, Repr

/-- A machine-check bank (15 R406); a record index that is not listed is invalid. -/
structure Bank where
  next : Nat
  ncorr : BitVec 32
  ncont : BitVec 32
  nfatal : BitVec 32
  lost : BitVec 32
  fenced : Bool
  recs : List (Nat × McRec)
  deriving DecidableEq, Repr

/-- An injection block (15 R415). -/
structure Inj where
  ctl : Word
  addr : Word
  mask : Word
  deriving DecidableEq, Repr

/-- The memory state of a die (15 R420 to R427). -/
structure MemSt where
  mode : Nat
  spare : Nat
  rshare : Nat
  rsvheld : Bool
  failmask : BitVec 32
  relaypos : Nat
  abolim : Nat
  patrolb : Nat
  rebuilt : Nat
  corrb : Nat
  poisonb : Nat
  /-- covered 2 MiB regions of the patrol period -/
  covered : List Nat
  /-- hours of PATROL, and of the next period -/
  patrol : Nat
  patrolNext : Nat
  /-- a failed channel whose logical position a former spare takes: the channel and that spare -/
  replaced : Option (Nat × Nat)
  /-- the spare is being rebuilt into that position -/
  rebuilding : Bool
  deriving DecidableEq, Repr

/-- A running in-field test (15 R416, R417): TESTSEL, whether the housekeeper runs it, and the slot, node and generation that
run it. -/
structure SelfTest where
  sel : Nat
  keeper : Bool
  node : Option (Nat × Nat × Nat)
  deriving DecidableEq, Repr

/-- The reliability state: banks, injection, poison, latent errors, parity, memory states, tests, retention. -/
structure Reliab where
  banks : List (Nat × Bank)
  injs : List (Nat × Inj)
  /-- keys of the first byte of poisoned 64-byte blocks -/
  poison : List Nat
  /-- injected bits not yet found: block key and mask of its first 8 bytes -/
  latent : List (Nat × Word)
  /-- stripes whose parity was skipped: die × 2^23 + stripe -/
  skipped : List Nat
  mems : List (Nat × MemSt)
  tests : List (Nat × SelfTest)
  /-- cores (die × 24 + core) that were fenced -/
  fencedCores : List Nat
  /-- CLOCK of the last test of a core -/
  lastTest : List (Nat × Word)
  stperiod : Nat
  /-- arrays in retention: instance number of R415 × 32 + array -/
  retention : List Nat
  /-- those of them whose exit something waits upon, in the order of their first waiters (15 R418) -/
  exits : List Nat
  /-- uncorrectable blocks that channels returned: die × 32 + channel, and CLOCK (15 R422) -/
  uncorr : List (Nat × Word)
  /-- telemetry counters by window offset (15 R427) -/
  tele : List (Nat × Word)
  deriving DecidableEq, Repr

/-- The power states (16 R431). -/
inductive PowerSt where
  | run | idle | standby | off
  deriving DecidableEq, Repr

/-- Power, clock and temperature (16 R431 to R434). -/
structure Power where
  st : PowerSt
  /-- the clock of the compute dies, in MHz -/
  mhz : Nat
  /-- measurements in a row below 4,100 W, 10 µs each -/
  below : Nat
  /-- stacks whose refresh rate is doubled -/
  refresh2 : List Nat
  /-- sensors that hold the clock down; sensor 0 stands for a compute die -/
  hot : List Sensor
  /-- the last readings of the compute dies' sensors: die × 4 + sensor, and °C (R434) -/
  temps : List (Nat × Nat)
  inlet : Bool
  /-- dies in idle -/
  idleDies : List Nat
  deriving DecidableEq, Repr

/-- Identity in the load-store domain and routes (13 R390, R391). -/
structure Fabric where
  device : BitVec 8
  enumerated : Bool
  /-- route tables: device to port mask; an entry that is not listed is 0 -/
  routes : List (Nat × Nat)
  /-- the device number that a Beydin port's link partner reported when the link trained (R390) -/
  partners : List (Nat × Nat)
  deriving DecidableEq, Repr

/-- An inbound posted write at a port's ordering point (14 R400): number, homes, pieces that have not performed (home, key, bytes), homes
that got the go and homes that acknowledged. -/
structure Inbound where
  port : Nat
  num : Nat
  homes : List Nat
  pieces : List (Nat × Nat × List Byte)
  gone : List Nat
  acked : List Nat
  deriving DecidableEq, Repr

/-- The ports to the host: writes in flight and what the module sent (13 R387 to R389, 14 R400). -/
structure HostIo where
  inbound : List Inbound
  nextNum : List (Nat × Nat)
  /-- MSI-X vectors sent, oldest first -/
  msix : List Nat
  /-- completions of host reads and of management and SPDM requests, oldest first: none for one that is unsupported or completes
  with error -/
  replies : List (Option (List Byte))
  /-- PCIe ports that are fenced (15 R408) -/
  down : List Nat
  /-- configuration requests that completed with Request Retry Status (16 R435) -/
  retries : Nat
  deriving DecidableEq, Repr

/-- Firmware, straps and trust (13 R392, R393; 16 R435 to R437). -/
structure Firmware where
  bankA : List Byte
  bankB : List Byte
  /-- the active bank is B -/
  active : Bool
  pending : Option Bool
  minSvn : Nat
  advances : Nat
  /-- the fused key hashes that are revoked -/
  revoked : List Nat
  svn : Nat
  recovery : Bool
  strap : Word
  /-- step 7 of the boot sequence has been reached -/
  served : Bool
  /-- the image that runs is bank B's -/
  booted : Bool
  /-- an image that an update is writing into the inactive bank (16 R436) -/
  updating : Option (List Byte)
  /-- certificate chains of slots 1 to 7 -/
  slots : List (Nat × List Byte)
  /-- an SPDM secured session is established -/
  session : Bool
  deriving DecidableEq, Repr

/-- A fire-and-forget remote operation that has committed and not performed: its number, hart and context, the graph slot,
generation and node of the block that committed it, its address, the device and the accesses there (07 R265, R266). -/
structure RemoteOp where
  num : Nat
  hart : Nat
  ctx : Nat
  slot : Nat
  gen : Nat
  node : Nat
  pc : Word
  dev : Nat
  q : List PeerAccess
  deriving DecidableEq, Repr

/-- A recorded failure of a fire-and-forget remote operation: device and status, and whose it was (07 R265, R267). -/
structure RemoteFailure where
  hart : Nat
  ctx : Nat
  slot : Nat
  gen : Nat
  node : Nat
  pc : Word
  dev : Nat
  status : Nat
  deriving DecidableEq, Repr

/-- Peers and collectives: members of a collective in progress are commands of kind hod; `reach` lists what peers answered
to accesses by system physical address: device and status, where not 0 (log 9). -/
structure Peers where
  /-- remote operations that have not performed, oldest first, and the number of the next one -/
  ops : List RemoteOp
  nextOp : Nat
  /-- recorded failures, oldest first -/
  failures : List RemoteFailure
  reach : List (Nat × Nat)
  /-- what this device answered to peers, oldest first: status and bytes -/
  answers : List (Nat × List Byte)
  deriving DecidableEq, Repr

end Sys2Proof.Machine
end

