-- ==== Sys2Proof/Machine/Table.lean ====
section
/-! DEFINITION. Tables by key as lists of pairs in rising key order: sparse collections of the machine, plain data. -/

namespace Sys2Proof.Table

/-- The entry of key `k`. -/
def find? {α : Type} : List (Nat × α) → Nat → Option α
  | [], _ => none
  | (k', v) :: t, k => if k' = k then some v else find? t k

/-- The entry of key `k`, or a default. -/
def get {α : Type} (t : List (Nat × α)) (k : Nat) (d : α) : α := (find? t k).getD d

/-- The table with the entry of key `k` set, keys kept rising. -/
def set {α : Type} : List (Nat × α) → Nat → α → List (Nat × α)
  | [], k, v => [(k, v)]
  | (k', v') :: t, k, v => if k' = k then (k, v) :: t else if k < k' then (k, v) :: (k', v') :: t else (k', v') :: set t k v

/-- The table without the entry of key `k`. -/
def erase {α : Type} : List (Nat × α) → Nat → List (Nat × α)
  | [], _ => []
  | (k', v') :: t, k => if k' = k then t else (k', v') :: erase t k

end Sys2Proof.Table
end

