-- ==== Sys2Proof/Machine/State.lean ====
section
/-! DEFINITION. The machine's state, plain data, its two reason types and State.reset. -/

namespace Sys2Proof.Machine

/-- Why a step can stop with a fault. -/
inductive Fault where
  /-- raised by the step alone, where State.agenda names a hart number that the module does not have (01 R13, R39: 1,152
  compute harts and three control harts); safe: no party takes that step -/
  | noSuchHart
  deriving DecidableEq, Repr

/-- Why a step can be refused. -/
inductive Refusal where
  /-- raised by exec's arm of an instruction that has no meaning yet; safe: nothing is claimed of it -/
  | notModelled (mnemonic : String)
  deriving DecidableEq, Repr

/-- The machine. -/
structure State where
  /-- the hart whose turn it is -/
  hart : Hart
  /-- the other harts that differ from their state at reset, by number -/
  parked : List (Nat × Hart)
  /-- the parties of the next steps (log 2) -/
  agenda : List Turn
  /-- every byte that is not zero, by key: a system physical address, or a place in a scratchpad or a control hart's memory
  (log 3) -/
  mem : List Host.Cell
  /-- CLOCK (01 R39), as of its last sample (log 5) -/
  clock : Word
  /-- the number of free values drawn (logs 5, 8) -/
  ticks : Nat
  /-- the next issue stamp (03 R134) -/
  stamp : Nat
  /-- the translation buffers (03 R106) -/
  tlb : List Buffered
  tiles : List Tile
  claims : List Claim
  cmds : List Command
  fe : FrontEnd
  cx : Contexts
  rel : Reliab
  pow : Power
  fab : Fabric
  host : HostIo
  fw : Firmware
  peers : Peers
  deriving DecidableEq, Repr

/-- The front end after reset: no slot pending, control hart 0 primary and 1 standby (13 R361, R377; log 13). -/
def FrontEnd.reset : FrontEnd where
  pend := 0
  active := 0
  taken := 0
  lastTaken := 1023
  slots := []
  replays := []
  mortar := []
  launches := []
  sent := []
  copyEnds := []
  waiting := []
  shadows := []
  seq := 0
  primary := 0
  standby := 1
  takeovers := 0
  beat := 0
  takeover := false
  hold := false
  lost := false
  housekeeper := true
  fencedCtl := none
  failedCtl := []
  listed := none

/-- The telemetry after a reset in which every core passed its test: PASS, and each core's PASS (15 R416, R427; 16 R435,
step 6). -/
def bootTelemetry : List (Nat × Word) := (0x100, 288) :: (List.range 288).map fun c => (0x2020 + 64 * c, 1)

/-- The reliability state after cold reset (15 R406, R415, R417, R422, R427). -/
def Reliab.reset : Reliab where
  banks := []
  injs := []
  poison := []
  latent := []
  skipped := []
  mems := []
  tests := []
  fencedCores := []
  lastTest := []
  stperiod := 1024
  retention := []
  exits := []
  uncorr := []
  tele := bootTelemetry

/-- The memory state of a die after cold reset (15 R422, R427). -/
def MemSt.reset : MemSt where
  mode := 0
  spare := 255
  rshare := 3
  rsvheld := true
  failmask := 0
  relaypos := 0
  abolim := 0
  patrolb := 0
  rebuilt := 0
  corrb := 0
  poisonb := 0
  covered := []
  patrol := 24
  patrolNext := 24
  replaced := none
  rebuilding := false

/-- An image of the boot flash with an empty payload and SVN 0, as the header of 13 R392 lays it out; key, digest and
signature hold zero (log 14). -/
def Firmware.firstImage : List Byte :=
  [0x44, 0x56, 0x46, 0x57, 1, 0] ++ List.replicate 170 0

/-- Right after reset: the cold-reset sequence of 16 R435 is complete, no graph is kicked, every context is free and every
compute hart is IDLE. -/
def State.reset : State where
  hart := Hart.reset 0
  parked := []
  agenda := []
  mem := []
  clock := 0
  ticks := 0
  stamp := 0
  tlb := []
  tiles := []
  claims := []
  cmds := []
  fe := FrontEnd.reset
  cx := ⟨[], 0, 0, 0, []⟩
  rel := Reliab.reset
  pow := ⟨.run, 1800, 0, [], [], [], false, []⟩
  fab := ⟨0, false, [], []⟩
  host := ⟨[], [], [], [], [], 0⟩
  fw := ⟨Firmware.firstImage, Firmware.firstImage, false, none, 0, 0, [], 0, false, 0, true, false, none, [], false⟩
  peers := ⟨[], 0, [], [], []⟩

end Sys2Proof.Machine
end

