-- ==== Sys2Proof/Machine/Cause.lean ====
section
/-! DEFINITION. Trap causes with what XTVAL reports of them (01 R54), and the three ends of an instruction's effect. -/

namespace Sys2Proof.Machine

/-- A trap condition. The word that ILLEGAL and PRIV report is added at trap entry. -/
inductive Cause where
  | illegal
  /-- an unsupported rounding mode: XTVAL holds MODE -/
  | illegalRm
  | priv
  | privCsr (csr : Nat)
  | format (found expected : BitVec 6) (reg : Nat)
  | vcfgIll
  | misalign (va : Word)
  | page (store : Bool) (va : Word)
  | access (va : Word)
  | windowCross (va : Word)
  | discardedWrite (va : Word)
  | tileOverflow (base : Word)
  | tileState (base : Word)
  | tileHang (base : Word)
  | copyOverlap (block : Word)
  | copyIndex (block : Word)
  | groutOverflow (list : Word)
  | staleTag (arg : Word)
  | stream (reg : Nat)
  | mesh (block : Word)
  | remote (device status : Nat)
  | breakpoint (imm : BitVec 12)
  | trap (imm : BitVec 12)
  | mcheckContained (bank idx : Nat)
  | mcheckSdc (bank idx : Nat)
  deriving DecidableEq, Repr

/-- The place of a cause among the conditions of one instruction, the lowest first (01 R53): machine checks, ILLEGAL, VCFG_ILL, PRIV,
STREAM, FORMAT, the element and row faults in the order of its step 4, the causes that owners report, BREAKPOINT and TRAP. -/
def Cause.rank : Cause → Nat
  | .mcheckContained .. => 0
  | .mcheckSdc .. => 0
  | .illegal => 1
  | .illegalRm => 1
  | .vcfgIll => 2
  | .priv => 3
  | .privCsr _ => 3
  | .stream _ => 4
  | .format .. => 5
  | .misalign _ => 6
  | .windowCross _ => 7
  | .page .. => 8
  | .access _ => 9
  | .discardedWrite _ => 10
  | .tileOverflow _ => 11
  | .tileState _ => 11
  | .tileHang _ => 11
  | .copyOverlap _ => 11
  | .copyIndex _ => 11
  | .groutOverflow _ => 11
  | .staleTag _ => 11
  | .mesh _ => 11
  | .remote .. => 11
  | .breakpoint _ => 12
  | .trap _ => 12

/-- XCAUSE.CODE (R54). -/
def Cause.code : Cause → Nat
  | .illegal => 0x01
  | .illegalRm => 0x01
  | .priv => 0x02
  | .privCsr _ => 0x02
  | .format .. => 0x03
  | .vcfgIll => 0x04
  | .misalign _ => 0x05
  | .page store _ => if store then 0x07 else 0x06
  | .access _ => 0x08
  | .windowCross _ => 0x09
  | .discardedWrite _ => 0x0A
  | .tileOverflow _ => 0x0B
  | .tileState _ => 0x0C
  | .tileHang _ => 0x0D
  | .copyOverlap _ => 0x0E
  | .copyIndex _ => 0x0F
  | .groutOverflow _ => 0x10
  | .staleTag _ => 0x11
  | .stream _ => 0x12
  | .mesh _ => 0x13
  | .remote .. => 0x14
  | .breakpoint _ => 0x15
  | .trap _ => 0x16
  | .mcheckContained .. => 0x17
  | .mcheckSdc .. => 0x18

/-- XTVAL (R54); `word` is the trapping word, or prefix and repeated word (R45, R46); `mode` and `vcfg` are the CSRs. -/
def Cause.xtval (word mode vcfg : Word) : Cause → Word
  | .illegal => word
  | .illegalRm => mode
  | .priv => word
  | .privCsr csr => BitVec.ofNat 64 csr
  | .format found expected reg => BitVec.ofNat 64 (found.toNat + expected.toNat * 256 + reg * 65536)
  | .vcfgIll => vcfg
  | .misalign va => va
  | .page _ va => va
  | .access va => va
  | .windowCross va => va
  | .discardedWrite va => va
  | .tileOverflow b => b
  | .tileState b => b
  | .tileHang b => b
  | .copyOverlap b => b
  | .copyIndex b => b
  | .groutOverflow a => a
  | .staleTag a => a &&& 0x0000FFFFFFFFFFFF
  | .stream r => BitVec.ofNat 64 r
  | .mesh b => b
  | .remote d st => BitVec.ofNat 64 (d % 256 + st % 256 * 256)
  | .breakpoint imm => imm.setWidth 64
  | .trap imm => imm.setWidth 64
  | .mcheckContained b i => BitVec.ofNat 64 (b + i * 65536)
  | .mcheckSdc b i => BitVec.ofNat 64 (b + i * 65536)

/-- How an instruction's effect ends: it completes and the pc moves past the word, it completes with a pc of its own, it
traps with the state it leaves (R52), or it waits and has not started (R23). -/
inductive Eff where
  | done (s : State)
  | jump (s : State)
  | trap (c : Cause) (s : State)
  | wait (s : State)
  deriving DecidableEq, Repr

end Sys2Proof.Machine
end

