-- ==== Sys2Proof/Machine/Memory.lean ====
section
/-! DEFINITION. Memory as a canonical list of bytes by key. A key is the low 40 bits of a local system physical address, or a
place beyond them: scratchpads, control-hart memories, peers (03 R100, R107, R111; 14 R394). -/

namespace Sys2Proof.Machine

namespace Memory

/-- What a byte that is not listed reads as (log 3). -/
def unlisted : Byte := 0

/-- The byte at a key. -/
def read : List Host.Cell → Nat → Byte
  | [], _ => unlisted
  | (k', b) :: t, k => if k' = k then b else if k < k' then unlisted else read t k

/-- The memory with the byte at a key set. -/
def write : List Host.Cell → Nat → Byte → List Host.Cell
  | [], k, b => if b = unlisted then [] else [(k, b)]
  | (k', b') :: t, k, b =>
    if k' = k then (if b = unlisted then t else (k, b) :: t)
    else if k < k' then (if b = unlisted then (k', b') :: t else (k, b) :: (k', b') :: t)
    else (k', b') :: write t k b

/-- The canonical form: keys strictly rising, and no byte equal to what an unlisted key reads as. -/
def wf : List Host.Cell → Bool
  | [] => true
  | [(_, b)] => b != unlisted
  | (k, b) :: (k', b') :: t => b != unlisted && decide (k < k') && wf ((k', b') :: t)

/-- `n` bytes from a key, as a little-endian number (00 R5). -/
def readLE (m : List Host.Cell) (k : Nat) : Nat → Nat
  | 0 => 0
  | n + 1 => (read m k).toNat + 256 * readLE m (k + 1) n

/-- `n` bytes to a key, from a number, little-endian. -/
def writeLE (m : List Host.Cell) (k : Nat) : Nat → Nat → List Host.Cell
  | 0, _ => m
  | n + 1, v => writeLE (write m k (BitVec.ofNat 8 v)) (k + 1) n (v / 256)

/-- `n` bytes from a key, lowest first. -/
def readBytes (m : List Host.Cell) (k : Nat) : Nat → List Byte
  | 0 => []
  | n + 1 => read m k :: readBytes m (k + 1) n

/-- Bytes to a key, lowest first. -/
def writeBytes (m : List Host.Cell) (k : Nat) : List Byte → List Host.Cell
  | [] => m
  | b :: bs => writeBytes (write m k b) (k + 1) bs

end Memory

/-- The key of byte `off` of an S1 instance (03 R107). -/
def s1Key (core off : Nat) : Nat := 2 ^ 48 + core * 2 ^ 21 + off

/-- The key of byte `off` of an S2 instance. -/
def s2Key (quad off : Nat) : Nat := 2 ^ 49 + quad * 2 ^ 23 + off

/-- The key of byte `off` of an S3 instance. -/
def s3Key (die off : Nat) : Nat := 2 ^ 50 + die * 2 ^ 26 + off

/-- The key of byte `off` of the memories of control hart `n`: instruction memory from 0, data memory from 2^19. -/
def ctlKey (n off : Nat) : Nat := 2 ^ 51 + n * 2 ^ 20 + off

/-- The key of a system physical address of a peer. -/
def peerKey (spa : Nat) : Nat := 2 ^ 52 + spa

/-- The array of a byte of a level, as `Reliab.retention` lists it (15 R415, R418). -/
def arrayOf (lv : Level) (inst off : Nat) : Nat :=
  (match lv with | .s1 => 12 + inst | .s2 => 300 + inst | .s3 => 372 + inst) * 32 + off / 2 ^ 21

/-- The key of a byte of a scratchpad level. -/
def levelKey (lv : Level) (inst off : Nat) : Nat :=
  match lv with
  | .s1 => s1Key inst off
  | .s2 => s2Key inst off
  | .s3 => s3Key inst off

/-- The size of an instance (03 R107). -/
def levelSize : Level → Nat
  | .s1 => 2097152
  | .s2 => 8388608
  | .s3 => 50331648

/-- The base of a level's window (03 R107). -/
def levelBase : Level → Nat
  | .s1 => 0xFFFFFF0000000000
  | .s2 => 0xFFFFFF4000000000
  | .s3 => 0xFFFFFF8000000000

/-- The instance that a core reaches at a level: `core` is die × 24 + core (03 R107). -/
def levelInst (lv : Level) (core : Nat) : Nat :=
  match lv with
  | .s1 => core
  | .s2 => core / 4
  | .s3 => core / 24

/-- The key of byte `off` of compute die `d`'s memory. -/
def dieKey (d off : Nat) : Nat := d * 2 ^ 36 + off

/-- The key of offset `off` of the function window of I/O die `i` (0 or 1). -/
def iodKey (i off : Nat) : Nat := (12 + i) * 2 ^ 36 + off

end Sys2Proof.Machine
end

