-- ==== Sys2Proof/Machine/Translate.lean ====
section
/-! DEFINITION. Address spaces, paged translation, scratchpad windows, access tables and the checks of one access
(03 R98 to R111, R119, R438; 13 R360, R386; 14 R394). -/

namespace Sys2Proof.Machine

/-- The kinds of access (03 R105). -/
inductive Acc where
  | load | store | atomic | fetch
  deriving DecidableEq, Repr

/-- The access writes. -/
def Acc.writes : Acc → Bool
  | .store => true
  | .atomic => true
  | _ => false

/-- The spaces of R98, each window counted as a space of its own (R108). -/
inductive Space where
  | scratch (lv : Level)
  | hole
  | heap
  | paged
  | ctl
  deriving DecidableEq, Repr

/-- The space of an address (R98). -/
def Env.space (e : Env) (va : Word) : Space :=
  let a := va.toNat
  if e.ctl.isSome then .ctl
  else if 0xFFFFFF0000000000 ≤ a then
    if a < levelBase .s1 + levelSize .s1 then .scratch .s1
    else if levelBase .s2 ≤ a ∧ a < levelBase .s2 + levelSize .s2 then .scratch .s2
    else if levelBase .s3 ≤ a ∧ a < levelBase .s3 + levelSize .s3 then .scratch .s3
    else .hole
  else if e.heaplim ≠ 0 ∧ e.heapbase.toNat ≤ a ∧ a < e.heapbase.toNat + e.heaplim.toNat then .heap
  else .paged

/-- The memory state of a die (15 R422). -/
def State.memSt (s : State) (die : Nat) : MemSt := Table.get s.rel.mems die MemSt.reset

/-- The first OFFSET of a die's memory that is denied: 58 GiB while the reserve is held, else 62 GiB (03 R119; 15 R426). A reserve
that is released stays so until cold reset, and the layout of modulo 29 is entered only with the reserve held (15 R422, R423). -/
def State.memLimit (s : State) (die : Nat) : Nat :=
  let m := s.memSt die
  if m.rsvheld = false then 62 * 2 ^ 30 else 58 * 2 ^ 30

/-- How a resolution of an address fails: a translation fault, or a denial. -/
inductive Refused where
  | page
  | denied
  deriving DecidableEq, Repr

/-- The entry of master `m` of the access table at `ptr` permits an access (13 R386). A pointer of 0 permits classes 0 and 1
only. A table outside readable main memory of this device permits nothing (log 18). -/
def State.tablePermits (s : State) (ptr : Word) (m : Nat) (acc : Acc) : Bool :=
  if ptr = 0 then decide (m < 2048)
  else
    let a := ptr.toNat + m / 4
    if a / 2 ^ 40 ≠ s.fab.device.toNat ∨ a / 2 ^ 36 % 16 ≥ 12 ∨ a % 2 ^ 36 ≥ s.memLimit (a / 2 ^ 36 % 16) then false
    else
      let bits := (Memory.read s.mem (a % 2 ^ 40)).toNat / 4 ^ (m % 4) % 4
      match acc with
      | .load => bits % 2 = 1
      | .fetch => bits % 2 = 1
      | .store => bits / 2 = 1
      | .atomic => bits = 3

/-- The check of an access that has a system physical address, by its target (R100, R119; 05 R192). -/
def State.target (s : State) (e : Env) (acc : Acc) (pa : Nat) (h p : Bool) : Except Refused Place :=
  if pa ≥ 2 ^ 48 then .error .denied
  else
    let t := pa / 2 ^ 36 % 16
    let off := pa % 2 ^ 36
    if t ≥ 14 ∨ (t ≥ 12 ∧ (acc = .atomic ∨ acc = .fetch)) ∨ (t < 12 ∧ off ≥ 62 * 2 ^ 30) then .error .denied
    else if pa / 2 ^ 40 ≠ s.fab.device.toNat then .ok (.peer (pa / 2 ^ 40) pa)
    else if t ≥ 12 then
      if e.ctl.isNone ∧ s.tablePermits e.atiod e.master acc = false then .error .denied else .ok (.window (t - 12) off)
    else if off ≥ s.memLimit t then .error .denied
    else if e.ctl.isNone ∧ s.tablePermits e.atmem e.master acc = false then .error .denied
    else .ok (.mem (pa % 2 ^ 40) h p)

/-- A field of a table entry. -/
def bitsOf (n lo w : Nat) : Nat := n / 2 ^ lo % 2 ^ w

/-- The table entry at a system physical address, or why the walk cannot read it (R105; 15 R425). -/
def State.readEntry (s : State) (e : Env) (pa : Nat) : Except Refused Nat :=
  match s.target e .load pa false true with
  | .error _ => .error .denied
  | .ok (.mem key _ _) => if (s.memSt (key / 2 ^ 36)).mode = 5 then .error .page else .ok (Memory.readLE s.mem key 8)
  | .ok (.peer _ spa) => if spa / 2 ^ 36 % 16 ≥ 12 then .error .denied else .ok (Memory.readLE s.mem (peerKey spa) 8)
  | .ok _ => .error .denied

/-- How a walk ends: a fault, a denial of a table entry, a discarded page, or an address with the H and P bits. -/
inductive Walk where
  | fault
  | unreadable
  | discarded
  | to (pa : Nat) (h p : Bool)
  deriving DecidableEq, Repr

/-- The shift of the index bits of a level (R102). -/
def levelShift : Nat → Nat
  | 0 => 16
  | n => 12 + 9 * n

/-- The checks of a leaf entry at a level (R104, R105, R110). -/
def leafOf (user : Bool) (acc : Acc) (va : Nat) (lvl entry : Nat) : Walk :=
  if bitsOf entry 48 16 ≠ 0 ∨ bitsOf entry 9 7 ≠ 0 then .fault
  else if lvl = 3 then .fault
  else if lvl = 1 ∧ bitsOf entry 16 5 ≠ 0 then .fault
  else if lvl = 2 ∧ bitsOf entry 16 14 ≠ 0 then .fault
  else
    let rd := bitsOf entry 2 1 = 1
    let wr := bitsOf entry 3 1 = 1
    let ex := bitsOf entry 4 1 = 1
    let allowed :=
      match acc with
      | .load => decide rd
      | .store => decide wr
      | .atomic => decide (rd ∧ wr)
      | .fetch => decide ex
    if allowed = false then .fault
    else if user ∧ bitsOf entry 5 1 = 0 then .fault
    else if bitsOf entry 8 1 = 1 then .discarded
    else .to (bitsOf entry 16 32 * 2 ^ 16 + va % 2 ^ levelShift lvl) (bitsOf entry 6 1 = 1) (bitsOf entry 7 1 = 1)

/-- What a walk reaches: a leaf entry at a level, a fault, or an entry that cannot be read. -/
inductive Reached where
  | leaf (lvl entry : Nat)
  | fault
  | unreadable
  deriving DecidableEq, Repr

/-- The walk from the table at `table`, at level `lvl` (R102 to R105). -/
def State.reach (s : State) (e : Env) (va : Nat) : Nat → Nat → Reached
  | lvl, table =>
    let idx := va / 2 ^ levelShift lvl % (if lvl = 0 then 32 else 512)
    match s.readEntry e (table + 8 * idx) with
    | .error .page => .fault
    | .error .denied => .unreadable
    | .ok entry =>
      if entry % 2 = 0 then .fault
      else if bitsOf entry 1 1 = 1 then .leaf lvl entry
      else if bitsOf entry 48 16 ≠ 0 ∨ bitsOf entry 2 10 ≠ 0 then .fault
      else
        match lvl with
        | 0 => .fault
        | l + 1 => s.reach e va l (bitsOf entry 12 36 * 2 ^ 12)

/-- An access of the page that a walk from the table at `table` reaches (R102 to R105). -/
def State.walk (s : State) (e : Env) (acc : Acc) (va lvl table : Nat) : Walk :=
  match s.reach e va lvl table with
  | .fault => .fault
  | .unreadable => .unreadable
  | .leaf l entry => leafOf e.user acc va l entry

/-- The leaf entry that a translation buffer gives an access: one that it holds for the page, where the access uses it. Which of
the entry and the table an access uses is a free choice (R106; log 24). -/
def State.buffered (s : State) (e : Env) (va : Nat) : Option (Nat × Nat) :=
  (s.tlb.find? fun b => b.core == e.core && b.ctx == e.ctx && b.page == va / 2 ^ levelShift b.lvl
    && Config.freeValue 45 (s.ticks * 2 ^ 48 + va) % 2 == 1).map fun b => (b.lvl, b.entry)

/-- The translation of an address of paged space, through the buffer or the tables (R102 to R106). -/
def State.translate (s : State) (e : Env) (acc : Acc) (va : Nat) : Walk :=
  match s.buffered e va with
  | some (l, entry) => leafOf e.user acc va l entry
  | none => s.walk e acc va 3 e.ptroot.toNat

/-- A translation buffer of core `core` takes the leaf entry that context `e.ctx` reaches for an address (R106; 10 R331). -/
def State.buffer (s : State) (e : Env) (va : Word) : State :=
  let a := va.toNat % 2 ^ 48
  match e.space va, s.reach e a 3 e.ptroot.toNat with
  | .paged, .leaf l entry => { s with tlb := ⟨e.core, e.ctx, l, a / 2 ^ levelShift l, entry⟩ :: s.tlb }
  | _, _ => s

/-- The address bits [63:48] all equal bit 47 (R99). -/
def canonical (va : Word) : Bool := va.toNat / 2 ^ 47 = 0 ∨ va.toNat / 2 ^ 47 = 2 ^ 17 - 1

/-- Where one byte lies, for a compute hart or an engine (R98 to R107), or for a control hart (14 R394). A fetch from
scratchpad space is denied and a fetch from the heap window faults (R101, R107). The Bool beside a denial says that a table
entry could not be read. -/
def State.resolve (s : State) (e : Env) (acc : Acc) (va : Word) : Except (Refused × Bool) Place :=
  let lift := fun (r : Except Refused Place) =>
    match r with
    | .ok p => Except.ok p
    | .error c => Except.error (c, false)
  match e.ctl with
  | some n =>
    let a := va.toNat
    if a < 2 ^ 48 then (if acc = .fetch then .error (.denied, false) else lift (s.target e acc a false true))
    else if 2 ^ 63 ≤ a ∧ a < 2 ^ 63 + 2 ^ 20 then
      if acc = .fetch ∧ a ≥ 2 ^ 63 + 2 ^ 19 then .error (.denied, false)
      else .ok (.mem (ctlKey n (a - 2 ^ 63)) false true)
    else .error (.denied, false)
  | none =>
    match e.space va with
    | .hole => .error (.denied, false)
    | .ctl => .error (.denied, false)
    | .scratch lv =>
      if acc = .fetch ∨ s.tablePermits e.atscr e.master acc = false then .error (.denied, false)
      else .ok (.scratch lv (levelInst lv e.core) (va.toNat - levelBase lv))
    | .heap =>
      if acc = .fetch then .error (.page, false) else lift (s.target e acc (va + e.heapoff).toNat false true)
    | .paged =>
      if canonical va = false then .error (.page, false)
      else
        match s.translate e acc (va.toNat % 2 ^ 48) with
        | .fault => .error (.page, false)
        | .unreadable => .error (.denied, true)
        | .discarded => .ok .zeros
        | .to pa h p => lift (s.target e acc pa h p)

/-- The parts of the bytes [va, va + len), byte by byte in ascending order, and the fault of the first byte that has one
(R438, R53); `first` is the first byte of the access, which a denied walk and a discarded page report (R54). Bytes that
follow each other in one place form one part. -/
def State.partsFrom (s : State) (e : Env) (acc : Acc) (first : Word) : Nat → Word → Except Cause (List Part)
  | 0, _ => .ok []
  | n + 1, va =>
    match s.resolve e acc va with
    | .error (.page, _) => .error (.page acc.writes va)
    | .error (.denied, walked) => .error (.access (if walked then first else va))
    | .ok pl =>
      if pl = .zeros ∧ acc.writes then .error (.discardedWrite first)
      else
        match s.partsFrom e acc first n (va + 1) with
        | .error c => .error c
        | .ok [] => .ok [⟨va, 1, pl⟩]
        | .ok (p :: ps) =>
          let joins :=
            match pl, p.place with
            | .mem k h q, .mem k' h' q' => decide (k' = k + 1 ∧ h = h' ∧ q = q' ∧ k / 2 ^ 36 = k' / 2 ^ 36)
            | .zeros, .zeros => true
            | .window d o, .window d' o' => decide (d = d' ∧ o' = o + 1)
            | .peer d a, .peer d' a' => decide (d = d' ∧ a' = a + 1)
            | .scratch l i o, .scratch l' i' o' => decide (l = l' ∧ i = i' ∧ o' = o + 1)
            | _, _ => false
          if joins then .ok (⟨va, p.len + 1, pl⟩ :: ps) else .ok (⟨va, 1, pl⟩ :: p :: ps)

/-- The parts of an access of `len` bytes, after the window crossing check (R108). -/
def State.access (s : State) (e : Env) (acc : Acc) (va : Word) (len : Nat) : Except Cause (List Part) :=
  if e.space va ≠ e.space (va + BitVec.ofNat 64 (len - 1)) then .error (.windowCross va)
  else s.partsFrom e acc va len va

end Sys2Proof.Machine
end

