-- ==== Sys2Proof/Machine/Ops.lean ====
section
/-! DEFINITION. The named operations over registers, the clock and machine-check records; taking an exception and returning
from one (01 R24, R39, R55 to R57; 15 R405 to R409). -/

namespace Sys2Proof.Machine

/-! ### Sorted lists -/

/-- An element put into an ascending list, before those equal to it. -/
def insertBy {α : Type} (le : α → α → Bool) (x : α) : List α → List α
  | [] => [x]
  | y :: ys => if le x y then x :: y :: ys else y :: insertBy le x ys

/-- A list in ascending order; elements equal in it keep their order. -/
def sortBy {α : Type} (le : α → α → Bool) (xs : List α) : List α := xs.foldr (insertBy le) []

/-- Numbers in ascending order. -/
def sortNats (xs : List Nat) : List Nat := sortBy (fun a b => decide (a ≤ b)) xs

/-! ### Registers -/

/-- The bits of MODE that are not reserved (01 R34). -/
def modeMask : Word := 0xF7FFF

/-- The bits of VCFG that are not reserved (01 R32). -/
def vcfgMask : Word := 0x80000000000001FF

/-- The bits of STRAP that are not reserved (16 R437). -/
def strapMask : Word := 0xFFFC

/-- An instruction address: a multiple of 4 (04 R141; 01 R48 for XEPC and XVEC). -/
def align4 (a : Word) : Word := a &&& ~~~(3 : Word)

/-- Scalar register `r`; s0 reads as zero (01 R24). -/
def Hart.readS (h : Hart) (r : SReg) : Word := if r = 0 then 0 else h.regs[r.toNat]

/-- The hart with scalar register `r` set; s0 ignores writes (01 R24). -/
def Hart.writeS (h : Hart) (r : SReg) (v : Word) : Hart :=
  if r = 0 then h else { h with regs := h.regs.set r.toNat v }

/-- Predicate register `p`; p0 reads as all ones (01 R24). -/
def Hart.readP (h : Hart) (p : PReg) : PWord := if p = 0 then BitVec.allOnes 16384 else h.preds[p.toNat]

/-- The hart with predicate register `p` set; p0 ignores writes (01 R24). -/
def Hart.writeP (h : Hart) (p : PReg) (v : PWord) : Hart :=
  if p = 0 then h else { h with preds := h.preds.set p.toNat v }

/-- Vector register `n`, a number below 32 (01 R24). -/
def Hart.readV (h : Hart) (n : Nat) : VWord := h.vregs.getD n 0

/-- The hart with vector register `n` set. -/
def Hart.writeV (h : Hart) (n : Nat) (v : VWord) : Hart := { h with vregs := h.vregs.setIfInBounds n v }

/-- The format tag of vector register `n` (01 R40). -/
def Hart.tag (h : Hart) (n : Nat) : BitVec 6 := h.tags.getD n 0

/-- The hart with the tag of register `n` set. -/
def Hart.setTag (h : Hart) (n : Nat) (t : BitVec 6) : Hart := { h with tags := h.tags.setIfInBounds n t }

/-- The hart is a control hart (14 R394). -/
def Hart.isCtl (h : Hart) : Bool := decide (1152 ≤ h.num)

/-- Supervisor mode (01 R47, R49). -/
def Hart.inX (h : Hart) : Bool := h.xstatus.getLsbD 0

/-- XSTATUS.XT (01 R49). -/
def Hart.xt (h : Hart) : Bool := h.xstatus.getLsbD 2

/-- Core of a compute hart, die × 24 + core (01 R39). -/
def Hart.core (h : Hart) : Nat := h.num / 4

/-- Die of a compute hart (01 R39). -/
def Hart.die (h : Hart) : Nat := h.num / 96

/-- The master identity of a party of a core: die, core and unit, 0 hart and 1 copy engine (13 R385). -/
def coreMaster (core unit : Nat) : Nat := core / 24 * 64 + core % 24 * 2 + unit

/-- The master identity of a hart (13 R385). -/
def Hart.master (h : Hart) : Nat := if h.isCtl then 1024 + 12 * 64 + 32 + (h.num - 1152) else coreMaster h.core 0

/-- The translation environment of a hart's accesses. -/
def Hart.env (h : Hart) : Env where
  heapbase := h.heapbase
  heaplim := h.heaplim
  heapoff := h.heapoff
  ptroot := h.ptroot
  ctxcfg := h.ctxcfg
  atmem := h.atmem
  atscr := h.atscr
  atiod := h.atiod
  core := h.core
  ctx := h.ctxid.toNat
  master := h.master
  user := !h.inX
  ctl := if h.isCtl then some (h.num - 1152) else none

/-- The state with a scalar register of the current hart set. -/
def State.setS (s : State) (r : SReg) (v : Word) : State := { s with hart := s.hart.writeS r v }

/-- The state with the program counter of the current hart set. -/
def State.setPc (s : State) (pc : Word) : State := { s with hart := { s.hart with pc := pc } }

/-- Raising flags: they are sticky (01 R36). -/
def Hart.raise (h : Hart) (f : Flags) : Hart := { h with fflags := h.fflags ||| f.bits }

/-- Hart `n`: the current one, a parked one, or one as reset left it. -/
def State.hartAt (s : State) (n : Nat) : Hart := if n = s.hart.num then s.hart else Table.get s.parked n (Hart.reset n)

/-- The state with hart `h` in its place. -/
def State.putHart (s : State) (h : Hart) : State :=
  if h.num = s.hart.num then { s with hart := h } else { s with parked := Table.set s.parked h.num h }

/-- The state in which hart `n` has the turn. -/
def State.switchTo (s : State) (n : Nat) : State :=
  if n = s.hart.num then s
  else { s with hart := s.hartAt n, parked := Table.erase (Table.set s.parked s.hart.num s.hart) n }

/-- The harts of a core. -/
def coreHarts (core : Nat) : List Nat := [4 * core, 4 * core + 1, 4 * core + 2, 4 * core + 3]

/-- The next hart of the current hart's core that is RUNNING, in turn (05 R198). A control hart shares no core. -/
def State.nextRunning (s : State) : Option Nat :=
  if s.hart.isCtl then none
  else
    ([1, 2, 3].map fun k => s.hart.core * 4 + (s.hart.num + k) % 4).find? fun n => (s.hartAt n).st == .running

/-- YIELD: the hart's next turn is the core's next RUNNING hart's, if there is one (05 R198; log 68). -/
def State.yield (s : State) : State :=
  if s.nextRunning.isSome then { s with hart := { s.hart with yielded := true } } else s

/-- A turn of the current hart, which it may have given away (05 R198; log 68). -/
def State.givenTurn (s : State) : State :=
  if s.hart.yielded then
    let s := { s with hart := { s.hart with yielded := false } }
    match s.nextRunning with
    | some n => s.switchTo n
    | none => s
  else s

/-! ### Clock and records -/

/-- A sample of CLOCK: it has advanced by a free number of clocks, while the power state lets it count (01 R39, 16 R431;
log 5). -/
def State.tick (s : State) : State :=
  let d := if s.pow.st = .run ∨ s.pow.st = .idle then Config.elapsed s.ticks else 0
  { s with clock := s.clock + BitVec.ofNat 64 d, ticks := s.ticks + 1 }

/-- A machine-check bank (15 R406). -/
def State.bank (s : State) (b : Nat) : Bank := Table.get s.rel.banks b ⟨0, 0, 0, 0, 0, false, []⟩

/-- The state with a bank set. -/
def State.setBank (s : State) (b : Nat) (k : Bank) : State :=
  { s with rel := { s.rel with banks := Table.set s.rel.banks b k } }

/-- A slot of a bank can take a new record: it is invalid or CORRECTED (15 R407). -/
def Bank.slotFree (k : Bank) (i : Nat) : Bool :=
  match Table.find? k.recs i with
  | none => true
  | some r => !r.valid || r.cls = 0

/-- The slot that a new record takes: the first free one from NEXT upward, wrapping (15 R407). -/
def Bank.slot (k : Bank) : Option Nat := ((List.range 30).map fun j => (k.next + j) % 30).find? k.slotFree

/-- The valid CORRECTED record that a CORRECTED error merges into (15 R407). -/
def Bank.mergeSlot (k : Bank) (r : McRec) : Option Nat :=
  if r.cls = 0 then
    (k.recs.find? fun (_, q) => q.valid ∧ q.cls = 0 ∧ q.code = r.code ∧ q.unit = r.unit ∧ q.addr = r.addr).map Prod.fst
  else none

/-- The bank with its class counter raised (15 R406). -/
def Bank.count (k : Bank) (cls : BitVec 2) : Bank :=
  if cls = 0 then { k with ncorr := k.ncorr + 1 }
  else if cls = 1 then { k with ncont := k.ncont + 1 }
  else { k with nfatal := k.nfatal + 1 }

/-- The bank after an error, and the index of its record, if one was made or merged (15 R407). -/
def Bank.record (k : Bank) (r : McRec) : Bank × Option Nat :=
  let k := k.count r.cls
  match k.mergeSlot r with
  | some i =>
    let q := Table.get k.recs i r
    ({ k with recs := Table.set k.recs i { q with count := if q.count = 0xFFFF then 0xFFFF else q.count + 1 } }, some i)
  | none =>
    match k.slot with
    | some i => ({ k with recs := Table.set k.recs i r, next := (i + 1) % 30 }, some i)
    | none => ({ k with lost := k.lost + 1 }, none)

/-- The class of an error code (15 R408). -/
def codeClass (code : Nat) : BitVec 2 :=
  if code ∈ [0x02, 0x04, 0x05, 0x06, 0x08, 0x11, 0x22, 0x50, 0x51] then 1
  else if code ∈ [0x26, 0x31, 0x33, 0x34, 0x35, 0x40, 0x61, 0x63] then 2
  else 0

/-- What a record says besides class, count and time. -/
structure McInfo where
  code : Nat
  unit : Nat := 0
  adrk : Nat := 0
  addr : Word := 0
  synd : Word := 0
  master : Nat := 0
  ctx : Nat := 0
  inj : Bool := false

/-- An error is recorded in bank `b` and counted over all banks (15 R406, R427); with the index of its record. Where no record could
be made the index is a free value (log 19). -/
def State.report (s : State) (b : Nat) (i : McInfo) : State × Nat :=
  let s := s.tick
  let r : McRec := ⟨true, codeClass i.code, i.inj, BitVec.ofNat 8 i.unit, BitVec.ofNat 3 i.adrk, BitVec.ofNat 8 i.code,
    BitVec.ofNat 12 i.master, BitVec.ofNat 6 i.ctx, 1, i.addr, i.synd, s.clock⟩
  let (k, idx) := (s.bank b).record r
  let off := 8 * r.cls.toNat
  let s := { s with rel := { s.rel with tele := Table.set s.rel.tele off (Table.get s.rel.tele off 0 + 1) } }
  (s.setBank b k, idx.getD (Config.freeValue 0 s.ticks))

/-- A bank's unit is fenced (15 R406). -/
def State.fence (s : State) (b : Nat) : State := s.setBank b { s.bank b with fenced := true }

/-- The bank of a hart's core, or of IOD0 for a control hart (15 R405). -/
def Hart.bank (h : Hart) : Nat := if h.isCtl then 708 else h.core

/-! ### Releases -/

/-- An engine command that the current hart issued has not registered its claims (03 R127, R132). -/
def State.unregistered (s : State) : Bool := s.cmds.any fun k => k.hart == s.hart.num && !k.claimed

/-- The number below which a release of the current hart waits for the remote operations of its context: those that had
committed when the release began (03 R137). -/
def State.releaseLimit (s : State) : Nat :=
  match s.hart.relMark with
  | some (n, k) => if n = s.hart.retired then k else s.peers.nextOp
  | none => s.peers.nextOp

/-- A remote operation that a release at system scope of the current hart waits for has not performed (03 R137). -/
def State.remotePending (s : State) : Bool :=
  s.peers.ops.any fun o => o.ctx == s.hart.ctxid.toNat && decide (o.num < s.releaseLimit)

/-- A release at a scope code may perform: at die scope or wider every earlier engine command has registered its claims, at
system scope every remote operation that the context had committed when it began has performed (03 R127, R137). -/
def State.releaseReady (s : State) (c : Nat) : Bool :=
  (decide (c < 3) || !s.unregistered) && (c != 5 || !s.remotePending)

/-- A release that must wait has begun: a remote operation that commits from now on does not hold it back (03 R137). -/
def State.beginRelease (s : State) : State :=
  { s with hart := { s.hart with relMark := some (s.hart.retired, s.releaseLimit) } }

/-! ### Contexts that fail, and the take-over -/

/-- A replay's fault record with no hart concerned (13 R376). -/
def FaultRec.bare (kind cause node : Nat) : FaultRec := ⟨kind, cause, node, 255, 255, 255, 0, 0, 0⟩

/-- A running replay that a fault ends: it runs no further node, and REPLAY_END reports it (10 R338, 13 R376). -/
def Replay.failWith (r : Replay) (f : FaultRec) : Replay :=
  if r.st = 0 then r else { r with st := 4, fault := if r.fault.isSome then r.fault else some f }

/-- A hart of a failed context enters IDLE; a halted one stays until the front end resets it (01 R20, log 20). -/
def Hart.drop (h : Hart) : Hart :=
  if h.st = .halted then h else { h with st := .idle, block := none, arming := none, relMark := none }

/-- A set of contexts without one. -/
def without (b : BitVec 64) (c : Nat) : BitVec 64 := b &&& ~~~((1 : BitVec 64) <<< c)

/-- The context fails: its state is 4, its harts leave their blocks, its replays end with the given fault, and a request in progress
and what was saved of it end (01 R56; 13 R378, R383; 15 R404). -/
def State.failContext (s : State) (ctx : Nat) (f : FaultRec) : State :=
  match Table.find? s.cx.ctxs ctx with
  | none => s
  | some c =>
    let own := fun (h : Hart) => !h.isCtl && h.core ∈ c.live.cores
    { s with
      cx := { s.cx with
        ctxs := Table.set s.cx.ctxs ctx { c with st := 4, owed := [] }
        busy := without s.cx.busy ctx, resuming := without s.cx.resuming ctx
        saved := s.cx.saved.filter fun v => v.ctx != ctx }
      hart := if own s.hart then s.hart.drop else s.hart
      parked := s.parked.map fun (n, h) => (n, if own h then h.drop else h)
      cmds := s.cmds.filter fun k => k.env.ctx != ctx
      claims := s.claims.filter fun cl => !(s.cmds.any fun k => k.id == cl.cmd && k.env.ctx == ctx)
      fe := { s.fe with
        replays := s.fe.replays.map fun r => if r.ctx = ctx then r.failWith f else r
        launches := s.fe.launches.filter fun l => l.ctx != ctx
        sent := s.fe.sent.filter fun l => l.ctx != ctx
        waiting := s.fe.waiting.filter fun n => !(n / 4 ∈ c.live.cores) } }

/-- The contexts that are not free. -/
def State.contexts (s : State) : List Nat := (s.cx.ctxs.filter fun (_, c) => c.st != 0).map Prod.fst

/-- A front-end FATAL: record 0x33, every replay ends with a fault of kind 5 and every context fails (13 R378). -/
def State.loseFrontEnd (s : State) : State :=
  let s := (s.report 708 { code := 0x33 }).1
  let s := s.contexts.foldl (fun s c => s.failContext c (FaultRec.bare 5 0 0)) s
  { s with fe := { s.fe with lost := true, takeover := false, hold := false, standby := 3
                             replays := s.fe.replays.map fun r => r.failWith (FaultRec.bare 5 0 0) } }

/-- The primary is lost: its writes are fenced and TAKEOVER and HOLD set (13 R378, step 1), or the front end is lost where no
standby is left. -/
def State.beginTakeover (s : State) : State :=
  if s.fe.standby = 3 ∨ s.fe.takeover then s.loseFrontEnd
  else { s with fe := { s.fe with takeover := true, hold := true, fencedCtl := some s.fe.primary, listed := none } }

/-- The standby lists the pending slots, once (14 R397). -/
def State.listPending (s : State) : State :=
  if s.fe.listed.isSome then s
  else { s with fe := { s.fe with listed := some ((List.range 1024).filter fun n => s.fe.pend.getLsbD n) } }

/-- Control hart `n` has halted: the primary's loss begins a take-over, a lost standby leaves none (14 R395). -/
def State.controlHalted (s : State) (n : Nat) : State :=
  if n = s.fe.primary then s.beginTakeover
  else if n = s.fe.standby then (if s.fe.takeover then s.loseFrontEnd else { s with fe := { s.fe with standby := 3 } })
  else if n = 2 then { s with fe := { s.fe with housekeeper := false } }
  else s

/-! ### Taking an exception and returning from one -/

/-- What trap entry knows of the trapping word beside its cause: the value XTVAL reports for ILLEGAL and PRIV, and the bits
FETCH, REP, MAT and VEC of XCAUSE (01 R50, R54). -/
structure TrapInfo where
  word : Word
  fetch : Bool := false
  rep : Bool := false
  mat : Bool := false
  vec : Bool := false

/-- XCAUSE for a cause (01 R50). -/
def trapCause (t : TrapInfo) (c : Cause) : BitVec 12 :=
  BitVec.ofBool t.fetch ++ BitVec.ofBool t.rep ++ BitVec.ofBool t.mat ++ BitVec.ofBool t.vec ++ BitVec.ofNat 8 c.code

/-- The second trap while XT is set (01 R56): the hart halts, its XEPC, XCAUSE and XTVAL unchanged; a compute hart's core
bank records 0x06 and its context fails, a control hart is FATAL for itself. The fault record names the second trap (13 R376). -/
def State.doubleTrap (s : State) (t : TrapInfo) (c : Cause) : State :=
  let h := s.hart
  let s := { s with hart := { h with st := .halted } }
  if h.isCtl then
    let s := (s.report 708 { code := 0x35, unit := h.num - 1152, master := h.master,
                             synd := BitVec.ofNat 64 (h.num - 1152 + c.code * 256) }).1
    s.controlHalted (h.num - 1152)
  else
    let s := (s.report h.core { code := 0x06, unit := h.num % 4, master := h.master, ctx := h.ctxid.toNat,
                                synd := (trapCause t c).setWidth 64 }).1
    s.failContext h.ctxid.toNat
      ⟨0, c.code, h.node.toNat, h.die, h.core % 24, h.num % 4, c.xtval t.word h.mode h.vcfg, h.pc, 0⟩

/-- Trap entry (01 R55): the saved registers, the mode and the program counter. The state already holds the progress of the
instruction in VSTART, MSTART and REPIDX. VCOMMIT names a word of the vector queue that traps (R52; log 65). An arming that was
not consumed is cleared (09 R319), and so are replies that an instruction waited for. -/
def State.takeTrap (s : State) (t : TrapInfo) (c : Cause) : State :=
  let h := s.hart
  if h.xt then s.doubleTrap t c
  else
    { s with hart := { h with
        st := .running
        xepc := h.pc
        xcause := trapCause t c
        xtval := c.xtval t.word h.mode h.vcfg
        xstatus := BitVec.ofBool true ++ BitVec.ofBool h.inX ++ BitVec.ofBool true
        vcommit := if t.vec then h.pc else h.vcommit
        arming := none
        asked := []
        replies := []
        relMark := none
        pc := h.xvec } }

/-- The return from a trap (01 R57); a control hart returns to supervisor mode (14 R394). No vector instruction is uncommitted
until the next one begins (log 65). -/
def State.returnFromTrap (s : State) : State :=
  let h := s.hart
  { s with hart := { h with
      pc := h.xepc
      vcommit := 1
      xstatus := BitVec.ofBool false ++ h.xstatus.extractLsb' 1 1
        ++ (if h.isCtl then BitVec.ofBool true else h.xstatus.extractLsb' 1 1) } }

/-! ### The end of an instruction -/

/-- The major opcode of a word (04 R141). -/
def majorOf (w : IWord) : Nat := w.toNat / 2 ^ 26

/-- Words of these majors enter the vector queue (01 R15), and a REP prefix with its word. -/
def entersQueue (w : IWord) : Bool := decide (0x10 ≤ majorOf w ∧ majorOf w ≤ 0x39)

/-- The trap information of a word that stands alone (01 R50); a control hart has no vector queue (14 R394). -/
def wordInfo (ctl : Bool) (w : IWord) : TrapInfo where
  word := w.setWidth 64
  mat := !ctl && decide (0x28 ≤ majorOf w ∧ majorOf w ≤ 0x2A)
  vec := !ctl && entersQueue w

/-- An instruction retires: the counter rises (01 R39). -/
def State.retire (s : State) (n : Nat) : State := { s with hart := { s.hart with retired := s.hart.retired + BitVec.ofNat 64 n } }

/-- The state after an instruction whose word is `w`, from the end of its effect (01 R20, R39, R55). -/
def State.finish (w : IWord) : Eff → State
  | .done s => (s.retire 1).setPc (s.hart.pc + 4)
  | .jump s => s.retire 1
  | .trap c s => s.takeTrap (wordInfo s.hart.isCtl w) c
  | .wait s => { s with hart := { s.hart with st := .waiting } }

/-- A scalar instruction on a hart. -/
def runScalar (w : IWord) (f : State → Eff) (s : State) : Host.Outcome State Fault Refusal := .next (State.finish w (f s))

/-- An instruction of the vector queue; on a control hart it traps ILLEGAL (13, control harts). -/
def runQueued (w : IWord) (f : State → Eff) (s : State) : Host.Outcome State Fault Refusal :=
  .next (State.finish w (if s.hart.isCtl then .trap .illegal s else f s))

end Sys2Proof.Machine
end

