-- ==== Sys2Proof/Machine/Ecc.lean ====
section
/-! DEFINITION. What a read finds and a write leaves beside the bytes: codes, rebuild, poison, parity and injection
(03 R118, R121; 15 R413, R415, R419 to R425). -/

namespace Sys2Proof.Machine

/-- The injection unit of a key (15 R415): memory controllers from 0, S1 from 12, S2 from 300, S3 from 372. -/
def unitOfKey (k : Nat) : Option Nat :=
  if k < 12 * 2 ^ 36 then some (k / 2 ^ 36)
  else if k < 2 ^ 48 then none
  else if k < 2 ^ 49 then some (12 + (k - 2 ^ 48) / 2 ^ 21)
  else if k < 2 ^ 50 then some (300 + (k - 2 ^ 49) / 2 ^ 23)
  else if k < 2 ^ 51 then some (372 + (k - 2 ^ 50) / 2 ^ 26)
  else none

/-- The byte offset of a key within its unit. -/
def offsetOfKey (k : Nat) : Nat :=
  if k < 2 ^ 48 then k % 2 ^ 36
  else if k < 2 ^ 49 then k % 2 ^ 21
  else if k < 2 ^ 50 then k % 2 ^ 23
  else k % 2 ^ 26

/-- The machine-check bank of an injection unit (15 R405). -/
def bankOfUnit (u : Nat) : Nat :=
  if u < 12 then 696 + u else if u < 300 then u - 12 else if u < 372 then 576 + (u - 300) else 648 + (u - 372)

/-- The channel of data position `j` of a stripe whose parity position is `p`. -/
def skipParity (j p : Nat) : Nat := if j < p then j else j + 1

/-- The physical channel of logical channel `q`: the channels in use in ascending order without the spare; a spare that has
taken a failed channel's place stands there (15 R423). -/
def MemSt.physical (m : MemSt) (q : Nat) : Nat :=
  let failed := (m.replaced.map Prod.fst).getD 255
  let by_ := (m.replaced.map Prod.snd).getD 255
  let c := ((List.range 32).filter fun c =>
    (c == failed || !m.failmask.getLsbD c) && c != m.spare && c != by_).getD q 255
  if c = failed then by_ else c

/-- The granule at an OFFSET has moved to the layout of modulo 29 (15 R422 to R424; log 22). -/
def MemSt.moved (m : MemSt) (off : Nat) : Bool := m.mode = 3 ∨ m.mode = 4 ∨ (m.mode = 2 ∧ off / 256 < m.relaypos)

/-- The channel that holds the granule at an OFFSET (03 R118, 15 R423). -/
def MemSt.channel (m : MemSt) (off : Nat) : Nat :=
  let g := off / 256
  if m.moved off then m.physical (skipParity (g % 29) (g / 29 % 30)) else skipParity (g % 31) (g / 31 % 32)

/-- The stripe of the granule at an OFFSET; stripes of the layout of modulo 29 are numbered from 2^27. -/
def MemSt.stripe (m : MemSt) (off : Nat) : Nat := if m.moved off then 2 ^ 27 + off / 256 / 29 else off / 256 / 31

/-- The number under which `Reliab.skipped` lists a stripe of a die. -/
def stripeNum (die stripe : Nat) : Nat := die * 2 ^ 23 + stripe

/-- The channel byte address of the byte at an OFFSET (03 R118; 15 R423). -/
def MemSt.channelByte (m : MemSt) (off : Nat) : Nat := off / 256 / (if m.moved off then 29 else 31) * 256 + off % 256

/-- A stripe lies wholly within one 64 KiB frame (03 R121). -/
def MemSt.framed (m : MemSt) (off : Nat) : Bool :=
  let n := (if m.moved off then 29 else 31) * 256
  let first := off / n * n
  first / 65536 = (first + n - 1) / 65536

/-- The memory state of a die changed. -/
def State.setMemSt (s : State) (die : Nat) (m : MemSt) : State :=
  { s with rel := { s.rel with mems := Table.set s.rel.mems die m } }

/-- A block becomes poisoned; one of main memory is counted (15 R413, R427). -/
def State.addPoison (s : State) (block : Nat) : State :=
  if block ∈ s.rel.poison then s
  else
    let m := s.memSt (block / 2 ^ 36)
    { s with rel := { s.rel with
      poison := block :: s.rel.poison
      mems := if block < 12 * 2 ^ 36 then Table.set s.rel.mems (block / 2 ^ 36) { m with poisonb := m.poisonb + 1 } else s.rel.mems } }

/-- The record of an error in the block at a key: its bank, the channel or array it lies in, kind of address and SYND (15 R407, R408, R418). -/
def State.reportBlock (s : State) (block : Nat) (code : Nat) (synd : Nat) (inj : Bool) : State :=
  match unitOfKey block with
  | none => s
  | some u =>
    let addr := if u < 12 then s.fab.device.toNat * 2 ^ 40 + block else offsetOfKey block
    (s.report (bankOfUnit u)
      { code := code, unit := if u < 12 then (s.memSt u).channel (block % 2 ^ 36) else offsetOfKey block / 2 ^ 21,
        adrk := if u < 12 then 2 else 4, addr := BitVec.ofNat 64 addr, synd := BitVec.ofNat 64 synd, inj := inj }).1

/-- A block is lost: it is poisoned, with a record 0x22 where it was not poisoned before (15 R413, R419). -/
def State.loseBlock (s : State) (block : Nat) (inj : Bool) : State :=
  if block ∈ s.rel.poison then s
  else (s.addPoison block).reportBlock block 0x22 ((s.memSt (block / 2 ^ 36)).channel (block % 2 ^ 36)) inj

/-- The four blocks of the granule at an OFFSET of a die. -/
def granuleBlocks (die off : Nat) : List Nat := (List.range 4).map fun i => dieKey die (off / 256 * 256 + 64 * i)

/-- The 16-bit symbols of a mask that are not zero. -/
def symbolsOf (mask : Word) : List Nat := (List.range 4).filter fun i => mask.toNat / 65536 ^ i % 65536 != 0

/-- The bits of a mask that are set. -/
def bitsSet (mask : Word) : List Nat := (List.range 64).filter fun i => mask.getLsbD i

/-- No channel holds the granule at an OFFSET: its channel has failed and it has not moved, or the spare that takes its place is
being rebuilt (15 R422, R423). -/
def MemSt.absent (m : MemSt) (off : Nat) : Bool :=
  if m.moved off then m.rebuilding && m.replaced.any fun r => m.channel off == r.2
  else decide (m.mode = 1 ∨ m.mode = 2) && m.failmask.getLsbD (m.channel off)

/-- The granules that the stripe of an OFFSET lacks. -/
def MemSt.lacking (m : MemSt) (off : Nat) : Nat :=
  if m.moved off then m.rebuilding.toNat else ((List.range 32).filter fun c => m.failmask.getLsbD c).length

/-- A key is in another granule of the stripe of an OFFSET of a die. -/
def MemSt.sibling (m : MemSt) (die off k : Nat) : Bool :=
  k / 2 ^ 36 == die && k % 2 ^ 36 / 256 != off / 256 && m.stripe (k % 2 ^ 36) == m.stripe off

/-- The granule at an OFFSET can be rebuilt from the others of its stripe: its parity was not skipped, and no other granule of the
stripe is missing or unreadable (15 R419; 03 R121). -/
def State.rebuildable (s : State) (die off : Nat) : Bool :=
  let m := s.memSt die
  !(s.rel.skipped.contains (stripeNum die (m.stripe off))) && decide (m.lacking off ≤ (m.absent off).toNat)
    && !(s.rel.latent.any fun (k, mask) => m.sibling die off k && decide (2 ≤ (symbolsOf mask).length))
    && !(s.rel.poison.any (m.sibling die off))

/-- The granules of the layout of modulo 29 in a channel of a die that the others of their stripes do not give back, by OFFSET
(R419, R423, R424; 03 R121). -/
def State.unreadable (s : State) (die ch : Nat) : List Nat :=
  let m := s.memSt die
  let marked := (s.rel.skipped.filter fun n => n / 2 ^ 23 == 16 + die).map (· % 2 ^ 23)
  let bad := (s.rel.poison ++ s.rel.latent.map Prod.fst).filter fun k => k / 2 ^ 36 == die && m.moved (k % 2 ^ 36)
  ((marked ++ bad.map fun k => k % 2 ^ 36 / 256 / 29).eraseDups.flatMap fun n => (List.range 29).map fun j => (n * 29 + j) * 256).filter
    fun off => m.moved off && m.channel off == ch && !(s.rebuildable die off)

/-- The die's memory is fenced: mode 5, record 0x26 and FENCED (15 R425). -/
def State.fenceMemory (s : State) (die : Nat) : State :=
  let m := s.memSt die
  let s := s.setMemSt die { m with mode := 5 }
  ((s.report (696 + die) { code := 0x26, synd := m.failmask.setWidth 64 }).1).fence (696 + die)

/-- The highest-numbered channel that has not failed (15 R423). -/
def MemSt.highest (m : MemSt) : Nat := (((List.range 32).filter fun c => !m.failmask.getLsbD c).getLast?).getD 255

/-- A die's memory state changed. -/
def State.onMem (s : State) (die : Nat) (f : MemSt → MemSt) : State := s.setMemSt die (f (s.memSt die))

/-- A channel is declared failed: record 0x23, and the die's memory advances by the table of R422. A channel that has
failed already changes nothing. ADDR of the record holds the channel above bit 32 and, below it, the channel byte address of the
error that told (R407, ADRK 3; the packing is a DESIGN CHOICE, log 67). -/
def State.failChannel (s : State) (die ch : Nat) (byte : Nat := 0) : State :=
  let m := s.memSt die
  if 12 ≤ die ∨ 32 ≤ ch ∨ m.mode = 5 ∨ m.failmask.getLsbD ch then s
  else
    let s := (s.report (696 + die) { code := 0x23, unit := ch, adrk := 3, addr := BitVec.ofNat 64 (ch * 2 ^ 32 + byte),
                                     synd := BitVec.ofNat 64 ch }).1
    let m := { m with failmask := m.failmask ||| ((1 : BitVec 32) <<< ch) }
    if m.mode = 0 then
      if m.rsvheld then s.setMemSt die { m with mode := 2, spare := m.highest, relaypos := 0 }
      else s.setMemSt die { m with mode := 1 }
    else if m.mode = 2 ∧ m.spare ≠ 255 then
      let lost := if ch = m.spare then [] else (s.unreadable die ch).flatMap (granuleBlocks die)
      (lost.foldl (fun s b => s.loseBlock b false) s).onMem die fun m => { m with failmask := m.failmask ||| ((1 : BitVec 32) <<< ch), spare := 255 }
    else if m.mode = 3 ∧ m.rebuilding = false then
      if ch = m.spare then s.setMemSt die { m with mode := 4, spare := 255 }
      else s.setMemSt die { m with replaced := some (ch, m.spare), rebuilding := true, spare := 255 }
    else (s.setMemSt die m).fenceMemory die

/-- A channel returned an uncorrectable block: more than 16 within 2^32 clocks declare it failed (15 R422). -/
def State.noteBad (s : State) (die ch byte : Nat) : State :=
  let recent := s.rel.uncorr.filter fun (_, t) => decide ((s.clock - t).toNat < 2 ^ 32)
  let l := (die * 32 + ch, s.clock) :: recent
  let s := { s with rel := { s.rel with uncorr := l } }
  if 16 < (l.filter fun (k, _) => k == die * 32 + ch).length then s.failChannel die ch byte else s

/-- A granule is rebuilt from parity, with record 0x21 where an error, not a failed channel, asked for it (15 R419, R427). -/
def State.rebuild (s : State) (block : Nat) (inj : Bool) : State :=
  let s := s.onMem (block / 2 ^ 36) fun m => { m with rebuilt := m.rebuilt + 1 }
  if inj then s.reportBlock block 0x21 ((s.memSt (block / 2 ^ 36)).channel (block % 2 ^ 36)) true else s

/-- The injected error of a block is found (15 R415, R419): corrected, rebuilt, or the block is poisoned. -/
def State.findLatent (s : State) (block : Nat) (mask : Word) : State :=
  let s := { s with rel := { s.rel with latent := Table.erase s.rel.latent block } }
  match unitOfKey block with
  | none => s
  | some u =>
    if u < 12 then
      let m := s.memSt u
      let off := block % 2 ^ 36
      let ch := m.channel off
      match symbolsOf mask with
      | [sym] => (s.setMemSt u { m with corrb := m.corrb + 1 }).reportBlock block 0x20 (ch + sym * 256) true
      | _ => (if s.rebuildable u off then s.rebuild block true else s.loseBlock block true).noteBad u ch (m.channelByte off)
    else
      match bitsSet mask with
      | [b] => s.reportBlock block 0x10 b true
      | _ => (s.addPoison block).reportBlock block 0x11 0 true

/-- A read reaches the block: injected errors, and a granule that no channel holds, which is rebuilt or lost (15 R419, R422, R423;
03 R121). -/
def State.touchBlock (s : State) (block : Nat) : State :=
  let s :=
    match Table.find? s.rel.latent block with
    | some mask => s.findLatent block mask
    | none => s
  match unitOfKey block with
  | none => s
  | some u =>
    let off := block % 2 ^ 36
    if 12 ≤ u ∨ (s.memSt u).absent off = false ∨ block ∈ s.rel.poison then s
    else if s.rebuildable u off then s.rebuild block false
    else s.loseBlock block false

/-- The parity granule of a stripe of modulo `n`, byte `i`: the XOR of its data granules (03 R118). -/
def State.parityByte (s : State) (die n stripe i : Nat) : Byte :=
  ((List.range n).map fun j => Memory.read s.mem (dieKey die ((stripe * n + j) * 256 + i))).foldr (· ^^^ ·) 0

/-- The 64-byte blocks that the bytes [k, k + len) touch. -/
def blocksOf (k len : Nat) : List Nat :=
  if len = 0 then [] else (List.range ((k + len - 1) / 64 - k / 64 + 1)).map fun i => (k / 64 + i) * 64

/-- The die's memory that holds a key is fenced (15 R425). -/
def State.fenced (s : State) (k : Nat) : Bool := k < 12 * 2 ^ 36 ∧ (s.memSt (k / 2 ^ 36)).mode = 5

/-- Bytes are read: what the codes find, and the lowest poisoned byte (15 R413, R419, R425). -/
def State.readCheck (s : State) (k len : Nat) : State × Option Nat :=
  if s.fenced k then (s, some k)
  else
    let s := (blocksOf k len).foldl State.touchBlock s
    (s, ((blocksOf k len).find? fun b => b ∈ s.rel.poison).map fun b => max k b)

/-- An armed injection meets a write on a block (15 R415). -/
def State.inject (s : State) (block : Nat) : State :=
  match unitOfKey block with
  | none => s
  | some u =>
    match Table.find? s.rel.injs u with
    | none => s
    | some j =>
      let cnt := j.ctl.toNat / 65536 % 256
      let kind := j.ctl.toNat / 2 % 8
      if j.ctl.getLsbD 0 ∧ 1 ≤ cnt ∧ j.addr.toNat / 64 = offsetOfKey block / 64 then
        let ctl := j.ctl.toNat - 65536 - (if cnt = 1 then 1 else 0)
        let s := { s with rel := { s.rel with injs := Table.set s.rel.injs u { j with ctl := BitVec.ofNat 64 ctl } } }
        if kind = 2 then
          if u < 12 then (s.addPoison block).reportBlock block 0x22 ((s.memSt u).channel (block % 2 ^ 36)) true
          else (s.addPoison block).reportBlock block 0x11 0 true
        else { s with rel := { s.rel with latent := Table.set s.rel.latent block j.mask } }
      else s

/-- Parity of the stripe that a write touches: skipped with P = 0 in a stripe within one frame, else maintained (03 R121). -/
def State.parity (s : State) (block : Nat) (p : Bool) : State :=
  if 12 * 2 ^ 36 ≤ block then s
  else
    let die := block / 2 ^ 36
    let m := s.memSt die
    let n := stripeNum die (m.stripe (block % 2 ^ 36))
    if !p && m.framed (block % 2 ^ 36) then
      { s with rel := { s.rel with skipped := if n ∈ s.rel.skipped then s.rel.skipped else n :: s.rel.skipped } }
    else { s with rel := { s.rel with skipped := s.rel.skipped.filter (· != n) } }

/-- What one write leaves on a block it touches: a full write clears poison and injected errors (15 R413, R415). -/
def State.writeBlock (s : State) (k len : Nat) (p : Bool) (block : Nat) : State :=
  let s :=
    if k ≤ block ∧ block + 64 ≤ k + len then
      { s with rel := { s.rel with poison := s.rel.poison.filter (· != block), latent := Table.erase s.rel.latent block } }
    else s
  (s.parity block p).inject block

/-- One write of bytes at a key; fenced memory discards it (15 R425). -/
def State.storeBytes (s : State) (k : Nat) (p : Bool) (bytes : List Byte) : State :=
  if s.fenced k then s
  else
    let s := { s with mem := Memory.writeBytes s.mem k bytes }
    (blocksOf k bytes.length).foldl (fun s b => s.writeBlock k bytes.length p b) s

/-! ### Arrays in retention (R418) -/

/-- The scratchpad arrays in retention that a part touches (15 R418). -/
def State.retainedIn (s : State) (p : Part) : List Nat :=
  match p.place with
  | .scratch lv inst off => ([arrayOf lv inst off, arrayOf lv inst (off + p.len - 1)].eraseDups).filter s.rel.retention.contains
  | _ => []

/-- Something waits upon arrays in retention: the exits that were not asked for before come after those that were (15 R418). -/
def State.awaits (s : State) (on : List Nat) : State :=
  { s with rel := { s.rel with exits := s.rel.exits ++ on.filter fun a => !(s.rel.exits.contains a) } }

/-- A command waits upon the arrays in retention that it has a range in (15 R418). -/
def State.commandAwaits (s : State) (k : Command) : State := s.awaits ((k.src ++ k.dst.flatten ++ k.fin).flatMap s.retainedIn)

end Sys2Proof.Machine
end

