-- ==== Sys2Proof/Machine/Channels.lean ====
section
/-! DEFINITION. The memory states of a die: re-lay and spare rebuild (15 R423, R424). -/

namespace Sys2Proof.Machine

/-- The granules of a die's 58 GiB (15 R423). -/
def granules : Nat := 58 * 2 ^ 30 / 256

/-- A granule is lost with its failed channel: the others of its stripe do not give it back (15 R419, R424; 03 R121). -/
def State.lost (s : State) (die g : Nat) : Bool := (s.memSt die).absent (g * 256) && !(s.rebuildable die (g * 256))

/-- One granule moves to the new layout; a lost one is written as poisoned, with one record. With the last granule of a new stripe its
parity is written, whatever was skipped before (15 R424; DEDUCED, log 22). -/
def State.moveGranule (s : State) (die : Nat) : State :=
  let m := s.memSt die
  let g := m.relaypos
  let off := g * 256
  let lost := s.lost die g
  let ch := m.channel off
  let s := s.setMemSt die { m with relaypos := g + 1 }
  let s := if g % 29 = 28 then { s with rel := { s.rel with skipped := s.rel.skipped.filter (· != stripeNum die (2 ^ 27 + g / 29)) } } else s
  if lost then
    let s := (granuleBlocks die off).foldl State.addPoison s
    s.reportBlock (dieKey die off) 0x22 ch false
  else s

/-- The re-lay ends: record 0x24, and mode 3, or mode 4 where no spare is left (15 R422, R424). -/
def State.endRelay (s : State) (die : Nat) : State :=
  let m := s.memSt die
  let s := (s.report (696 + die) { code := 0x24, synd := BitVec.ofNat 64 m.spare }).1
  { s.setMemSt die { m with mode := if m.spare = 255 then 4 else 3 } with
    rel := { (s.setMemSt die { m with mode := if m.spare = 255 then 4 else 3 }).rel with
      skipped := s.rel.skipped.filter fun n => n / 2 ^ 23 != die } }

/-- `n` granules move, in ascending order (15 R424; log 22). -/
def State.relay (s : State) (die : Nat) : Nat → State
  | 0 => s
  | n + 1 =>
    let m := s.memSt die
    if m.mode ≠ 2 then s
    else if granules ≤ m.relaypos then s.endRelay die
    else
      let s := s.moveGranule die
      (if granules ≤ (s.memSt die).relaypos then s.endRelay die else s).relay die n

/-- The spare has been rebuilt into the failed channel's position: record 0x25 and mode 4. A granule there that cannot be rebuilt
is lost (15 R419, R423). -/
def State.spareRebuilt (s : State) (die : Nat) : State :=
  let m := s.memSt die
  match m.replaced with
  | some (ch, sp) =>
    if m.rebuilding then
      let s := ((s.unreadable die sp).flatMap (granuleBlocks die)).foldl (fun s b => s.loseBlock b false) s
      let m := s.memSt die
      let s := (s.report (696 + die) { code := 0x25, synd := BitVec.ofNat 64 (sp + ch * 256) }).1
      s.setMemSt die { m with mode := 4, rebuilding := false }
    else s
  | none => s

end Sys2Proof.Machine
end

