-- ==== Sys2Proof/Machine/Window.lean ====
section
/-! DEFINITION. The I/O die function window as its readers see it: which function an offset names, who may reach it, and the
64-bit word at each offset (13 R360 to R364, R374, R377 to R380; 14 R396; 15 R405 to R407, R415, R427; 16 R437). -/

namespace Sys2Proof.Machine

/-- The functions of the window (13 R360). -/
inductive Fn where
  | kick | ctxPage | slotTable | slotStat | staging | live | journal | mortar | banks | inject | identity | telemetry
  | outTable | outWindow
  deriving DecidableEq, Repr

/-- The function at an offset of I/O die 0 or 1, with the offset inside it (13 R360). -/
def fnAt (die off : Nat) : Option (Fn × Nat) :=
  let inR := fun (base size : Nat) => base ≤ off ∧ off < base + size
  if inR 0x200000 0xC0000 then some (.banks, off - 0x200000)
  else if inR 0x2C0000 0x6000 then some (.inject, off - 0x2C0000)
  else if inR 0x2FF000 0x1000 then some (.identity, off - 0x2FF000)
  else if inR 0x300000 0x10000 then some (.telemetry, off - 0x300000)
  else if inR 0x400000 0x10000 then some (.outTable, off - 0x400000)
  else if inR 0x800000000 0x800000000 then some (.outWindow, off - 0x800000000)
  else if die ≠ 0 then none
  else if inR 0 0x1000 then some (.kick, off)
  else if inR 0x1000 0x1000 then some (.ctxPage, off - 0x1000)
  else if inR 0x10000 0x8000 then some (.slotTable, off - 0x10000)
  else if inR 0x18000 0x4000 then some (.slotStat, off - 0x18000)
  else if inR 0x20000 0x4000 then some (.staging, off - 0x20000)
  else if inR 0x24000 0x4000 then some (.live, off - 0x24000)
  else if inR 0x40000 0x40000 then some (.journal, off - 0x40000)
  else if inR 0x100000 0x100000 then some (.mortar, off - 0x100000)
  else none

/-- Why a device party may not reach a function. -/
inductive Barred where
  | access
  | priv
  deriving DecidableEq, Repr

/-- The device access column of R360: whether a party may make an access, and the trap if not. Supervisor mode and
CTXCFG.INJEN open the injection blocks (15 R415). The primary that a take-over halted cannot store
(13 R378). -/
def State.barred (s : State) (e : Env) (write : Bool) (f : Fn) : Option Barred :=
  match f with
  | .identity => none
  | .telemetry => none
  | .outWindow => none
  | .banks => if e.ctl = some 2 then none else some .access
  | .inject => if e.ctl = some 2 then none else if e.user ∨ e.ctxcfg.getLsbD 2 = false then some .priv else none
  | .mortar => some .access
  | .slotTable => if e.ctl.isSome ∧ write = false then none else some .access
  | .staging => if e.ctl.isSome ∧ write = false then none else some .access
  | .kick | .ctxPage | .slotStat | .live | .journal | .outTable =>
    match e.ctl with
    | none => some .access
    | some n => if write ∧ s.fe.fencedCtl = some n then some .access else none

/-- A field of `w` bits as a number, placed at bit `lo`. -/
def at_ (lo v : Nat) : Nat := v * 2 ^ lo

/-- A number from a condition. -/
def bit (b : Bool) : Nat := if b then 1 else 0

/-- Slot `n`'s status (13 R364). -/
def FrontEnd.slot (f : FrontEnd) (n : Nat) : SlotStat := Table.get f.slots n ⟨0, 0, 0, 0, 0, 0, 0⟩

/-- The replay of a slot that is running. -/
def FrontEnd.live (f : FrontEnd) (slot : Nat) : Option Replay := f.replays.find? fun r => r.slot == slot && r.st != 0

/-- SLOTSTAT.STATE (13 R364). -/
def FrontEnd.slotState (f : FrontEnd) (n : Nat) : Nat :=
  match f.live n with
  | some r => r.st
  | none => bit (f.pend.getLsbD n)

/-- Context `n`'s state code; a context that is not listed is free (13 R380). -/
def Contexts.state (c : Contexts) (n : Nat) : Nat := ((Table.find? c.ctxs n).map Ctx.st).getD 0

/-- Word `w` (8 bytes) of a context record (13 R379). -/
def CtxRec.word (c : CtxRec) (w : Nat) : Nat :=
  let mask := fun (d : Nat) => (c.cores.filter fun k => k / 24 = d).foldl (fun a k => a + 2 ^ (k % 24)) 0
  match w with
  | 0 => 1
  | 1 => c.heapbase.toNat
  | 2 => c.heaplim.toNat
  | 3 => c.heapoff.toNat
  | 4 => c.ptroot.toNat
  | 5 => c.ctxcfg.toNat
  | 6 => c.atmem.toNat
  | 7 => c.atscr.toNat
  | 8 => c.atiod.toNat
  | 9 => c.atport.toNat
  | 10 => c.xvec.toNat
  | 11 => c.tlhang
  | 12 => c.savea.toNat
  | 13 => c.savesz
  | 14 => c.peermap.toNat
  | 15 => c.func0.toNat
  | 16 => c.func1.toNat
  | n => if n < 23 then mask (2 * (n - 17)) + 2 ^ 32 * mask (2 * (n - 17) + 1) else 0

/-- Word `w` of a replay record of the journal (13 R377, 14 R396). -/
def Replay.word (r : Replay) (w : Nat) : Nat :=
  if w = 0 then r.slot + at_ 16 r.gen + at_ 32 r.ctx + at_ 40 r.st
  else if w = 1 then r.snapa.toNat
  else if w = 2 then r.fallback
  else if w < 35 then Table.get r.loops (2 * (w - 3)) 0 + 2 ^ 32 * Table.get r.loops (2 * (w - 3) + 1) 0
  else if w = 35 then r.rseq
  else if w < 64 then 0
  else (List.range 32).foldl (fun a i => a + Table.get r.nodes ((w - 64) * 32 + i) 0 * 4 ^ i) 0

/-- Word `w` of the journal (13 R377). -/
def State.journalWord (s : State) (w : Nat) : Nat :=
  let f := s.fe
  if w = 0 then f.seq
  else if w = 1 then f.primary + at_ 2 f.standby + at_ 16 (f.takeovers % 65536)
  else if w = 2 then f.beat.toNat
  else if w = 3 then bit f.takeover + 2 * bit f.hold
  else if 8 ≤ w ∧ w < 24 then f.taken.toNat / 2 ^ (64 * (w - 8)) % 2 ^ 64
  else if 512 ≤ w ∧ w < 2560 then
    let t := f.slot ((w - 512) / 2)
    if w % 2 = 0 then t.jst + at_ 8 t.jrec + at_ 16 t.jgen else t.jseq
  else if 2560 ≤ w ∧ w < 2560 + 192 * 128 then
    match f.replays.find? fun r => r.jrec = (w - 2560) / 192 with
    | some r => r.word ((w - 2560) % 192)
    | none => 0
  else 0

/-- Word `w` of a mortar entry (13 R374). -/
def Mortar.word (m : Mortar) (w : Nat) : Nat :=
  if w = 0 then 1 + at_ 1 (bit m.isSet) + at_ 38 m.ctx + at_ 44 m.replay + at_ 51 m.decl + at_ 54 m.slot
  else m.node + at_ 16 m.gen + at_ 32 m.tile

/-- The KIND of bank `b` (15 R405). -/
def bankKind (b : Nat) : Nat :=
  ([288, 576, 648, 660, 672, 684, 696, 708, 710].filter (· ≤ b)).length

/-- The low 64 bits of a record (15 R407). -/
def McRec.low (r : McRec) : Nat :=
  bit r.valid + at_ 1 r.cls.toNat + at_ 3 (bit r.inj) + at_ 11 r.unit.toNat + at_ 19 r.adrk.toNat + at_ 22 r.code.toNat
    + at_ 30 r.master.toNat + at_ 42 r.ctx.toNat + at_ 48 r.count.toNat

/-- Word `w` of bank `b` (15 R406, R407). -/
def State.bankWord (s : State) (b w : Nat) : Nat :=
  let k := s.bank b
  if 728 ≤ b then 0
  else if w = 0 then b + at_ 16 (bankKind b) + at_ 24 k.next
  else if w = 1 then k.ncorr.toNat + at_ 32 k.ncont.toNat
  else if w = 2 then k.nfatal.toNat + at_ 32 k.lost.toNat
  else if w = 3 then bit k.fenced
  else if w < 8 then 0
  else
    match Table.find? k.recs ((w - 8) / 4) with
    | none => 0
    | some r =>
      match (w - 8) % 4 with
      | 0 => r.low
      | 1 => r.addr.toNat
      | 2 => r.synd.toNat
      | _ => r.time.toNat

/-- MSTATE (15 R427). -/
def MemSt.mstate (m : MemSt) : Nat := m.mode + at_ 8 (bit m.rsvheld) + at_ 16 m.rshare + at_ 24 m.spare

/-- Word `w` of the memory state of a die (15 R427). -/
def MemSt.word (m : MemSt) (w : Nat) : Nat :=
  match w with
  | 0 => m.mstate
  | 1 => m.failmask.toNat
  | 2 => m.relaypos
  | 3 => m.abolim
  | 4 => m.covered.length
  | 5 => m.patrolb
  | 6 => m.rebuilt
  | 7 => m.corrb
  | 8 => m.poisonb
  | _ => 0

/-- Word at byte offset `off` of the telemetry window (15 R427). -/
def State.teleWord (s : State) (off : Nat) : Nat :=
  if 0x1000 ≤ off ∧ off < 0x1C00 then (s.memSt ((off - 0x1000) / 256)).word (off % 256 / 8)
  else (Table.get s.rel.tele off 0).toNat

/-- Word at byte offset `off` of the identity page (16 R437). -/
def State.identityWord (s : State) (off : Nat) : Nat :=
  if off = 0 then 0x56590C01
  else if off = 0x08 then 0x2D323159562D5744
  else if off = 0x10 then 0x3836374D
  else if off = 0x18 then (Config.fused 0).toNat
  else if 0x20 ≤ off ∧ off < 0x80 then (Config.fused (1 + (off - 0x20) / 8)).toNat
  else if off = 0x80 then (Config.fused 13).toNat
  else if off = 0x88 then (Config.fused 14).toNat
  else if off = 0x90 then (s.fw.strap &&& strapMask).toNat
  else if off = 0x98 then s.fw.svn + at_ 16 (bit s.fw.active) + at_ 32 s.fw.minSvn
  else 0

/-- Word at byte offset `off` of the kick page (13 R361). -/
def State.kickWord (s : State) (off : Nat) : Nat :=
  let n := off % 128 / 8
  if 0x80 ≤ off ∧ off < 0x100 then s.fe.pend.toNat / 2 ^ (64 * n) % 2 ^ 64
  else if 0x100 ≤ off ∧ off < 0x180 then s.fe.active.toNat / 2 ^ (64 * n) % 2 ^ 64
  else 0

/-- Word at byte offset `off` of the context control page (13 R380). -/
def State.ctxPageWord (s : State) (off : Nat) : Nat :=
  if off = 8 then s.cx.busy.toNat
  else if off = 0x18 then s.cx.invalBusy.toNat
  else if 0x40 ≤ off ∧ off < 0x60 then
    (List.range 16).foldl (fun a i => a + at_ (4 * i) (s.cx.state ((off - 0x40) / 8 * 16 + i))) 0
  else if 0x60 ≤ off ∧ off < 0xA0 then
    (List.range 8).foldl (fun a i => a + at_ (8 * i) (((Table.find? s.cx.ctxs (off - 0x60 + i)).map Ctx.err).getD 0)) 0
  else 0

/-- The 64-bit word at a multiple of 8 of a function of I/O die `die`, as a read returns it. -/
def State.windowWord (s : State) (die : Nat) (f : Fn) (off : Nat) : Nat :=
  match f with
  | .kick => s.kickWord off
  | .ctxPage => s.ctxPageWord off
  | .slotTable => Memory.readLE s.mem (iodKey die (0x10000 + off)) 8
  | .slotStat =>
    let t := s.fe.slot (off / 16)
    if off % 16 = 0 then s.fe.slotState (off / 16) + at_ 8 t.err + at_ 16 t.gen else t.ended
  | .staging => Memory.readLE s.mem (iodKey die (0x20000 + off)) 8
  | .live =>
    match Table.find? s.cx.ctxs (off / 256) with
    | some c => if c.st = 0 then 0 else c.live.word (off % 256 / 8)
    | none => 0
  | .journal => s.journalWord (off / 8)
  | .mortar => ((s.fe.mortar[off / 16]?).map fun m => m.word (off % 16 / 8)).getD 0
  | .banks => s.bankWord (off / 1024) (off % 1024 / 8)
  | .inject =>
    match Table.find? s.rel.injs (off / 64) with
    | none => 0
    | some j => if off % 64 = 0 then j.ctl.toNat else if off % 64 = 8 then j.addr.toNat
                else if off % 64 = 16 then j.mask.toNat else 0
  | .identity => s.identityWord off
  | .telemetry => s.teleWord off
  | .outTable => if off < 512 then Memory.readLE s.mem (iodKey die (0x400000 + off)) 8 else 0
  | .outWindow => 0

/-- The key of a byte of host memory (13 R389; log 12). -/
def hostKey (port addr : Nat) : Nat := 2 ^ 66 + port * 2 ^ 64 + addr

/-- The host byte behind an offset of the outbound window: none where the entry has V = 0 (13 R389). -/
def State.outbound (s : State) (die off : Nat) : Option Nat :=
  let e := Memory.readLE s.mem (iodKey die (0x400000 + off / 2 ^ 29 * 8)) 8
  if e % 2 = 0 then none else some (hostKey (e / 2 % 2) (e / 2 ^ 29 * 2 ^ 29 + off % 2 ^ 29))

/-- The byte at an offset of a function. -/
def State.windowByte (s : State) (die : Nat) (f : Fn) (off : Nat) : Byte :=
  match f with
  | .outWindow =>
    match s.outbound die off with
    | some k => Memory.read s.mem k
    | none => 0
  | f => BitVec.ofNat 8 (s.windowWord die f (off / 8 * 8) / 256 ^ (off % 8))

end Sys2Proof.Machine
end

