-- ==== Sys2Proof/Machine/Contexts.lean ====
section
/-! DEFINITION. The kick page and the context records: kicking, taking, CTXKICK and INVAL (13 R361, R362, R379 to R381). -/

namespace Sys2Proof.Machine

/-- The module is in P0 or P1 (16 R431). -/
def State.powered (s : State) : Bool := s.pow.st == .run || s.pow.st == .idle

/-- The kick page, the context page and the windows are served: step 7 of the boot sequence has come, and the module runs (13 R392;
16 R431, R435). -/
def State.pagesServed (s : State) : Bool := s.fw.served && !s.fw.recovery && s.powered

/-- A write of `bits` to word `w` of KICK sets pending bits (13 R361). Before step 7 of the boot sequence it has no effect, and in
recovery a kick is taken and dropped (13 R392; 16 R431, R435). -/
def State.kick (s : State) (w : Nat) (bits : Word) : State :=
  if s.pagesServed = false ∨ 16 ≤ w then s
  else { s with fe := { s.fe with pend := s.fe.pend ||| (bits.setWidth 1024 <<< (64 * w)) } }

/-- A control hart's write of `bits` to word `w` of TAKE (13 R361): each bit that is pending moves to TAKEN. -/
def State.take (s : State) (w : Nat) (bits : Word) : State :=
  if 16 ≤ w then s
  else
    let m := s.fe.pend &&& (bits.setWidth 1024 <<< (64 * w))
    { s with fe := { s.fe with pend := s.fe.pend &&& ~~~m, taken := s.fe.taken ||| m } }

/-- Word `w` of context `c`'s staging record. -/
def State.stagingWord (s : State) (c w : Nat) : Nat := Memory.readLE s.mem (iodKey 0 (0x20000 + 256 * c + 8 * w)) 8

/-- The cores that a COREMASK names. -/
def coresOf (mask : Nat → Nat) : List Nat :=
  (List.range 12).flatMap fun d => ((List.range 24).filter fun k => (mask d).testBit k).map fun k => d * 24 + k

/-- Context `c`'s staging record as a record, its core mask without fenced cores (13 R379; 15 R416). -/
def State.stagingRec (s : State) (c : Nat) : CtxRec :=
  let w := fun (n : Nat) => BitVec.ofNat 64 (s.stagingWord c n)
  { heapbase := w 1, heaplim := w 2, heapoff := w 3, ptroot := w 4, ctxcfg := w 5, atmem := w 6, atscr := w 7
    atiod := w 8, atport := w 9, xvec := w 10
    tlhang := if s.stagingWord c 11 = 0 then 2 ^ 26 else s.stagingWord c 11
    savea := w 12, savesz := s.stagingWord c 13, peermap := w 14, func0 := w 15, func1 := w 16
    cores := (coresOf fun d => s.stagingWord c (17 + d / 2) / 2 ^ (32 * (d % 2)) % 2 ^ 32).filter
      fun k => !(k ∈ s.rel.fencedCores) }

/-- The limits of a staging record (13 R379): CTXERR 1 where one is broken. Reserved bits of CTXCFG that are set break one too
(DESIGN CHOICE, log 72: R379 and R380 do not say what makes a record invalid, and 00 R6 has writes of reserved fields ignored). -/
def State.stagingValid (s : State) (c : Nat) : Bool :=
  let w := s.stagingWord c
  let r := s.stagingRec c
  let others := s.cx.ctxs.filter fun (n, k) => n != c && k.st != 0
  let aligned := fun (n : Nat) (is : List Nat) => is.all fun i => w i % n == 0
  decide (w 0 < 2) && aligned 65536 [1, 2] && aligned 4096 [4, 12] && decide (w 5 < 8) && aligned 1024 [6, 7, 8, 9]
    && decide (w 11 = 0 ∨ 2 ^ 20 ≤ w 11 ∧ w 11 ≤ 2 ^ 40) && aligned 256 [14] && aligned 2 [15, 16]
    && ((List.range 12).all fun d => decide (w (17 + d / 2) / 2 ^ (32 * (d % 2)) % 2 ^ 32 < 2 ^ 24))
    && ((List.range 9).all fun i => decide (w (23 + i) = 0))
    && (others.all fun (_, k) => (k.live.func0 &&& r.func0) == 0 && (k.live.func1 &&& r.func1) == 0)

/-- Another context holds a core that the staging record names (13 R380, CTXERR 3). -/
def State.coresTaken (s : State) (c : Nat) : Bool :=
  s.cx.ctxs.any fun (n, k) => n != c && k.st != 0 && (s.stagingRec c).cores.any fun x => k.live.cores.contains x

/-- The state with context `c` set. -/
def State.setCtx (s : State) (c : Nat) (x : Ctx) : State :=
  { s with cx := { s.cx with ctxs := Table.set s.cx.ctxs c x } }

/-- The record of context `c`, or that of a free one. -/
def State.ctxOf (s : State) (c : Nat) : Ctx :=
  Table.get s.cx.ctxs c ⟨⟨0, 0, 0, 0, 0, 0, 0, 0, 0, 0, 2 ^ 26, 0, 0, 0, 0, 0, []⟩, 0, 0, []⟩

/-- Stopped and halted harts of cores that their context no longer holds are reset: another context may use them (01 R20;
13 R379). -/
def State.freeHarts (s : State) (cores : List Nat) : State :=
  let f := fun (h : Hart) =>
    if !h.isCtl && cores.contains h.core && (h.st == .stopped || h.st == .halted) then Hart.reset h.num else h
  { s with hart := f s.hart, parked := s.parked.map fun (n, h) => (n, f h) }

/-- CTXKICK for one context (13 R380): the staging record is applied to a free or stopped context, or CTXERR says why
not. Destroying a stopped context ends its replays and drops what was saved and its tiles (log 20); the harts of cores that it
gives up become free. -/
def State.ctxKick (s : State) (c : Nat) : State :=
  let x := s.ctxOf c
  let fail := fun (e : Nat) => s.setCtx c { x with err := e }
  if x.st ≠ 0 ∧ x.st ≠ 3 then fail 2
  else if s.stagingValid c = false then fail 1
  else if s.stagingWord c 0 = 0 then
    let s := (s.setCtx c { x with st := 0, err := 0, owed := [] }).freeHarts x.live.cores
    { s with
      cx := { s.cx with saved := s.cx.saved.filter fun v => v.ctx != c }
      tiles := s.tiles.filter fun t => t.ctx != c
      fe := { s.fe with replays := s.fe.replays.map fun r => if r.ctx = c then r.failWith (FaultRec.bare 5 0 0) else r } }
  else if s.coresTaken c then fail 3
  else
    let r := s.stagingRec c
    (s.setCtx c { x with live := r, st := if x.st = 0 then 1 else 3, err := 0 }).freeHarts
      (x.live.cores.filter fun k => !r.cores.contains k)

/-- A step for each bit of a word, from bit 0. -/
def eachBit (bits : Word) (f : State → Nat → State) (s : State) : State :=
  ((List.range 64).filter fun i => bits.getLsbD i).foldl f s

/-- INVAL: the invalidation is in progress (13 R380, R381). -/
def State.inval (s : State) (bits : Word) : State := { s with cx := { s.cx with invalBusy := s.cx.invalBusy ||| bits } }

/-- INVALBUSY clears: no translation buffer holds an entry of the context, so its accesses use the tables as they stand (03 R106;
13 R381; log 24). -/
def State.invalDone (s : State) (c : Nat) : State :=
  { s with
    cx := { s.cx with invalBusy := s.cx.invalBusy &&& ~~~((1 : BitVec 64) <<< c) }
    tlb := s.tlb.filter (·.ctx != c) }

end Sys2Proof.Machine
end

