-- ==== Sys2Proof/Machine/Shadows.lean ====
section
/-! DEFINITION. The shadow task slots of harts, and the prefetchers that serve them (10 R331). -/

namespace Sys2Proof.Machine

/-- The tiles that a grain names. -/
def Decl.tilesOf (d : Decl) (g : Nat) : List Int := (List.range d.count).map fun j => d.base + d.stride * g + (j : Nat)

/-- Intervals in ascending grain. -/
def byGrain (vs : List Interval) : List Interval := sortBy (fun a b => decide (a.g0 ≤ b.g0)) vs

/-- A shadow slot holds a block of a launch that no hart has started, as the slot's hart owns it (R331). -/
def Launch.holds (l : Launch) (d : Shadow) : Bool :=
  d.slot == l.slot && d.node == l.node && d.gen == l.gen && d.hart / 96 == l.die
    && l.pool.any fun v => v.owner == some d.hart && decide (v.g0 ≤ d.g0 ∧ d.g1 ≤ v.g1)

/-- The blocks of an interval, from its front. -/
def Launch.blocksOf (l : Launch) (v : Interval) : List (Nat × Nat) :=
  (List.range ((v.g1 - v.g0 + l.blkgr - 1) / l.blkgr)).map fun i => (v.g0 + i * l.blkgr, min v.g1 (v.g0 + (i + 1) * l.blkgr))

/-- The next blocks of the intervals that a hart owns, in launch order. -/
def State.nextBlocks (s : State) (n : Nat) : List Shadow :=
  s.fe.launches.flatMap fun l =>
    if l.die = n / 96 then
      (byGrain (l.pool.filter fun v => v.owner == some n)).flatMap fun v =>
        ((l.blocksOf v).take 4).map fun (a, b) => ⟨n, l.slot, l.node, l.gen, a, b⟩
    else []

/-- A shadow block shares grains with another. -/
def Shadow.meets (a b : Shadow) : Bool :=
  a.slot == b.slot && a.node == b.node && a.gen == b.gen && decide (a.g0 < b.g1 ∧ b.g0 < a.g1)

/-- The shadow slots of a hart that runs a block: what they hold stays, and the next blocks fill what is free. -/
def State.fillSlots (s : State) (n : Nat) : List Shadow :=
  let kept := s.fe.shadows.filter fun d => d.hart == n && s.fe.launches.any fun l => l.holds d
  if (s.hartAt n).block.isNone then kept
  else (kept ++ (s.nextBlocks n).filter fun d => !(kept.any d.meets)).take 2

/-- The tiles that a shadow block reads: the first byte and the length of each (R331). -/
def Launch.tileBytes (l : Launch) (d : Shadow) : List (Nat × Nat) :=
  (l.decls.filter fun r => !r.write).flatMap fun r =>
    (List.range (d.g1 - d.g0)).flatMap fun i =>
      (r.tilesOf (d.g0 + i)).map fun t => ((r.tsaddr + BitVec.ofInt 64 (t * r.bytes)).toNat, r.bytes)

/-- An address of each 64 KiB page that `n` bytes from `a` touch. -/
def pagesOf (a n : Nat) : List Word :=
  if n = 0 then [] else (List.range ((a + n - 1) / 65536 - a / 65536 + 1)).map fun i => BitVec.ofNat 64 ((a / 65536 + i) * 65536)

/-- The prefetcher of a core takes the tiles that a shadow block reads: the translations of their pages enter the core's translation
buffer (R331). That it may start reads changes nothing, since a prefetch is no access. -/
def State.prefetch (s : State) (d : Shadow) : State :=
  match s.fe.launches.find? fun l => l.holds d with
  | none => s
  | some l => ((l.tileBytes d).flatMap fun (a, n) => pagesOf a n).foldl (fun s va => s.buffer (s.hartAt d.hart).env va) s

/-- The dispatcher of a die fills the shadow slots of its harts, whose blocks are no longer there for another hart to start, and
the prefetchers take the blocks that are new there (R331). -/
def State.fillShadows (s : State) (die : Nat) : State :=
  let ds := ((List.range 96).map (die * 96 + ·)).flatMap s.fillSlots
  let new := ds.filter fun d => !(s.fe.shadows.contains d)
  let s := { s with fe := { s.fe with shadows := s.fe.shadows.filter (fun d => d.hart / 96 != die) ++ ds } }
  new.foldl State.prefetch s

/-- The dispatchers that hold launches fill the shadow slots of their harts. -/
def State.refill (s : State) : State :=
  ((List.range 12).filter fun d => s.fe.launches.any fun l => l.die == d).foldl State.fillShadows s

end Sys2Proof.Machine
end

