-- ==== Sys2Proof/Machine/Preempt.lean ====
section
/-! DEFINITION. Pre-emption and restore: the stop units, the save area and its records (01 R23; 13 R382 to R384). -/

namespace Sys2Proof.Machine

/-- The low `n` bytes of a number, lowest first. -/
def leBytes : Nat → Nat → List Byte
  | 0, _ => []
  | n + 1, v => BitVec.ofNat 8 v :: leBytes n (v / 256)

/-- VTAGSn (01 R38). -/
def Hart.vtags (h : Hart) (n : Nat) : Nat := (List.range 8).foldl (fun a k => a + (h.tag (8 * n + k)).toNat * 256 ^ k) 0

/-- NODEID (01 R39). -/
def Hart.nodeid (h : Hart) : Nat := h.node.toNat + h.slot.toNat * 65536

/-- The hart state code of a hart record (13 R384). -/
def HartSt.code : HartSt → Nat
  | .idle => 0
  | .running => 1
  | .waiting => 2
  | .stopped => 3
  | .halted => 4

/-- The body of a hart record: 49,664 bytes (13 R384). -/
def Hart.body (h : Hart) : List Byte :=
  let w := fun (v : Nat) => leBytes 8 v
  ([h.pc.toNat, h.vcfg.toNat, h.vl.toNat, h.mode.toNat, h.fflags.toNat, h.vstart.toNat, h.mstart.toNat, h.repidx.toNat,
    h.vtags 0, h.vtags 1, h.vtags 2, h.vtags 3, h.xstatus.toNat, h.xcause.toNat, h.xepc.toNat, h.xtval.toNat,
    h.xscratch.toNat, h.blklo.toNat, h.blkhi.toNat, h.nodeid, h.gen.toNat, h.retired.toNat, h.st.code, 0].flatMap w)
  ++ (h.streams.toList.flatMap fun t => w t.desc.toNat ++ w (t.pos % 2 ^ 63 + 2 ^ 63 * bit t.fault))
  ++ (h.regs.toList.zipIdx.flatMap fun (r, i) => w (if i = 0 then 0 else r.toNat))
  ++ (h.preds.toList.zipIdx.flatMap fun (p, i) => leBytes 2048 (if i = 0 then 2 ^ 16384 - 1 else p.toNat))
  ++ (h.vregs.toList.flatMap fun v => leBytes 1024 v.toNat)

/-- A hart with the fields of a record body at a key (13 R384); reserved bits read as zero (00 R6). -/
def Hart.fromBody (m : List Host.Cell) (k : Nat) (h : Hart) : Hart :=
  let r := fun (off : Nat) => Memory.readLE m (k + off) 8
  { h with
    pc := align4 (BitVec.ofNat 64 (r 0)), vcfg := BitVec.ofNat 64 (r 8) &&& vcfgMask, vl := BitVec.ofNat 15 (r 16)
    mode := BitVec.ofNat 64 (r 24) &&& modeMask
    fflags := BitVec.ofNat 7 (r 32), vstart := BitVec.ofNat 15 (r 40), mstart := BitVec.ofNat 9 (r 48)
    repidx := BitVec.ofNat 6 (r 56)
    tags := Vector.ofFn fun i => BitVec.ofNat 6 (r (64 + i.val))
    xstatus := BitVec.ofNat 3 (r 96), xcause := BitVec.ofNat 12 (r 104), xepc := align4 (BitVec.ofNat 64 (r 112))
    xtval := BitVec.ofNat 64 (r 120), xscratch := BitVec.ofNat 64 (r 128)
    blklo := BitVec.ofNat 64 (r 136), blkhi := BitVec.ofNat 64 (r 144)
    node := BitVec.ofNat 16 (r 152), slot := BitVec.ofNat 10 (r 152 / 65536), gen := BitVec.ofNat 16 (r 160)
    retired := BitVec.ofNat 64 (r 168)
    st := if r 176 = 2 then .waiting else if r 176 = 4 then .halted else .running
    streams := Vector.ofFn fun i =>
      { h.streams[i] with desc := BitVec.ofNat 64 (r (192 + 16 * i.val)), pos := r (200 + 16 * i.val) % 2 ^ 63
                          fault := r (200 + 16 * i.val) / 2 ^ 63 = 1 }
    regs := Vector.ofFn fun i => if i.val = 0 then 0 else BitVec.ofNat 64 (r (256 + 8 * i.val))
    preds := Vector.ofFn fun i => BitVec.ofNat 16384 (Memory.readLE m (k + 512 + 2048 * i.val) 2048)
    vregs := Vector.ofFn fun i => BitVec.ofNat 8192 (Memory.readLE m (k + 16896 + 1024 * i.val) 1024) }

/-- The registers that a context record shapes (01 R14, R47). XVEC comes from it on a restore too, so what a handler wrote there by
CSRW is lost (DESIGN CHOICE, log 72: the hart record of 13 R384 has no XVEC, and 01 R23 leaves no visible difference). -/
def Hart.loadContext (h : Hart) (c : Nat) (r : CtxRec) : Hart :=
  { h with heapbase := r.heapbase, heaplim := r.heaplim, heapoff := r.heapoff, ptroot := r.ptroot, ctxcfg := r.ctxcfg
           atmem := r.atmem, atscr := r.atscr, atiod := r.atiod, atport := r.atport, xvec := align4 r.xvec
           ctxid := BitVec.ofNat 6 c }

/-- The master identity of a Beydin port's hod (13 R385). -/
def hodMaster (port : Nat) : Nat := 1024 + (12 + port / 9) * 64 + 8 + port

/-- The units that a stop is sent to (13 R382, R383). -/
def CtxRec.units (r : CtxRec) : List StopUnit :=
  let dies := (List.range 12).filter fun d => r.cores.any fun k => k / 24 = d
  (r.cores.flatMap fun k => [.hart (4 * k), .hart (4 * k + 1), .hart (4 * k + 2), .hart (4 * k + 3), .copyEngine k])
    ++ (dies.flatMap fun d => [.topology d, .colouring d, .binning d]) ++ (List.range 18).map (.hod ·)
    ++ dies.map fun d => .dispatcher d

/-- The key of a context's save area (13 R379; log 23). -/
def CtxRec.saveKey (r : CtxRec) : Nat := r.savea.toNat % 2 ^ 40

/-- Pre-emption begins: CTXSTATE 2, the stop goes to every unit (13 R383, steps 1 and 2). It waits, with CTXBUSY set, for a
take-over or an abort to end, and has no effect on a context that is not active. -/
def State.startPreempt (s : State) (c : Nat) : State :=
  let x := s.ctxOf c
  if x.st ≠ 1 then s
  else
    let s := { s with cx := { s.cx with busy := s.cx.busy ||| ((1 : BitVec 64) <<< c) } }
    if s.fe.takeover ∨ s.fe.replays.any (fun r => r.ctx = c ∧ r.fault.isSome) then s
    else
      let s := s.setCtx c { x with st := 2, owed := x.live.units }
      { s with cx := { s.cx with saved := ⟨c, 0, 64, [], [], [], [], []⟩ :: s.cx.saved.filter fun v => v.ctx != c } }.storeBytes
        x.live.saveKey true (leBytes 4 0x56454153 ++ leBytes 60 0)

/-- What was saved of context `c`. -/
def State.savedOf (s : State) (c : Nat) : Saved := (s.cx.saved.find? fun v => v.ctx = c).getD ⟨c, 0, 64, [], [], [], [], []⟩

/-- The state with what was saved of a context changed. -/
def State.setSaved (s : State) (v : Saved) : State :=
  { s with cx := { s.cx with saved := s.cx.saved.map fun w => if w.ctx = v.ctx then v else w } }

/-- The key of the body of the next record of a save area (13 R384). -/
def State.nextBody (s : State) (c : Nat) : Nat := (s.ctxOf c).live.saveKey + ((s.savedOf c).used + 63) / 64 * 64 + 16

/-- A record of a stopping context is written into the save area; where it does not fit, the context fails with CTXERR 4 (13 R383,
R384). -/
def State.saveRecord (s : State) (c kind master : Nat) (body : List Byte) : State :=
  let x := s.ctxOf c
  let v := s.savedOf c
  let k := s.nextBody c
  let used := k + body.length - x.live.saveKey
  if x.st ≠ 2 then s
  else if x.live.savesz < used then
    let s := s.failContext c (FaultRec.bare 5 0 0)
    s.setCtx c { s.ctxOf c with err := 4 }
  else
    let s := s.storeBytes (k - 16) true (leBytes 2 kind ++ leBytes 2 master ++ leBytes 4 body.length ++ leBytes 8 0 ++ body)
    let s := s.storeBytes (x.live.saveKey + 4) true (leBytes 4 (v.nrec + 1) ++ leBytes 8 used)
    s.setSaved { v with nrec := v.nrec + 1, used := used }

/-- Bytes that the collector moves between a slice and its record. Every 64 bytes of the slice take their poison along: it is that of
the block of their first byte (DESIGN CHOICE, log 23: R384 does not name poison). -/
def State.moveSaved (s : State) (src dst len : Nat) (move : State → List Byte → State) : State :=
  let s := (s.readCheck src len).1
  let bad := (List.range ((len + 63) / 64)).filter fun i => s.rel.poison.contains ((src + 64 * i) / 64 * 64)
  bad.foldl (fun s i => s.addPoison ((dst + 64 * i) / 64 * 64)) (move s (Memory.readBytes s.mem src len))

/-- The scratchpad slice of a hart at a level: its instance and first byte (10 R343). -/
def sliceOf (lv : Level) (h : Nat) : Nat × Nat :=
  match lv with
  | .s1 => (h / 4, h % 4 * 0x80000)
  | .s2 => (h / 16, h % 16 * 0x80000)
  | .s3 => (h / 96, h % 96 * 0x80000)

/-- The launch that a hart's block belongs to. -/
def State.launchOf (s : State) (h : Hart) : Option Launch :=
  match h.block with
  | none => none
  | some b => s.fe.launches.find? fun l => l.die = h.die ∧ l.slot = b.slot ∧ l.node = b.node ∧ l.gen = b.gen

/-- A hart as its stop leaves it: an arming is not saved, and a waiting instruction is saved as not started (01 R23; 09 R319). -/
def Hart.atStop (h : Hart) : Hart := { h with arming := none, yielded := false, asked := [], replies := [], relMark := none }

/-- A hart stops at an instruction boundary: its record is written (01 R23; 13 R384). -/
def State.stopHart (s : State) (c n : Nat) : State :=
  let h := (s.hartAt n).atStop
  if h.st = .idle then s
  else
    let body := s.nextBody c
    let s := s.saveRecord c 1 h.master h.body
    if (s.ctxOf c).st ≠ 2 then s
    else
      let v := s.savedOf c
      (s.setSaved { v with harts := v.harts ++ [(n, body, h)] }).putHart { h with st := if h.st = .halted then .halted else .stopped }

/-- The declared slices of the stopped blocks on a die: hart, level and bytes (10 R343; 13 R384, kind 4). -/
def State.slicesOf (s : State) (c d : Nat) : List (Nat × Level × Nat) :=
  ((s.savedOf c).harts.filter fun (n, _, _) => n / 96 = d).flatMap fun (n, _, h) =>
    let sizes := ((s.launchOf h).map Launch.scratch).getD []
    (List.zip [Level.s1, .s2, .s3] sizes).filterMap fun (lv, b) => if b = 0 then none else some (n, lv, b)

/-- The number of a level in a record of kind 4. -/
def levelNum : Level → Nat
  | .s1 => 1
  | .s2 => 2
  | .s3 => 3

/-- The arrays in retention among those that slices of harts lie in; a slice lies in one array (15 R418). -/
def State.slicesRetained (s : State) (xs : List (Nat × Level)) : List Nat :=
  (xs.map fun (n, lv) => arrayOf lv (sliceOf lv n).1 (sliceOf lv n).2).filter s.rel.retention.contains

/-- The bytes of a slice are saved: level and index, then the bytes (13 R384, kind 4). -/
def State.saveSlice (s : State) (c : Nat) (x : Nat × Level × Nat) : State :=
  let (n, lv, len) := x
  let (inst, off) := sliceOf lv n
  let body := s.nextBody c
  let s := s.moveSaved (levelKey lv inst off) (body + 8) len fun s bytes =>
    s.saveRecord c 4 (s.hartAt n).master (leBytes 4 (levelNum lv) ++ leBytes 4 (off / 0x80000) ++ bytes)
  let v := s.savedOf c
  s.setSaved { v with slices := v.slices ++ [(n, body)] }

/-- The commands of a context in an engine stop: their claims are released and they are saved with the unit (03 R138). -/
def State.stopCommands (s : State) (c kind master : Nat) (sel : Command → Bool) : State :=
  let mine := s.cmds.filter fun k => k.env.ctx == c && sel k
  if mine.isEmpty then s
  else
    let s := s.saveRecord c kind master (mine.flatMap fun k => leBytes 8 k.blockVa.toNat)
    if (s.ctxOf c).st ≠ 2 then s
    else
    let v := s.savedOf c
    let s := s.setSaved { v with cmds := v.cmds ++ mine.map fun k => { k with claimed := false } }
    { s with cmds := s.cmds.filter fun k => !(k.env.ctx == c && sel k)
             claims := s.claims.filter fun cl => !(mine.any fun k => k.id == cl.cmd) }

/-- The instance of a level lies on a die. -/
def onDie (lv : Level) (inst d : Nat) : Bool :=
  match lv with
  | .s1 => inst / 24 = d
  | .s2 => inst / 6 = d
  | .s3 => inst = d

/-- The number of a tile state in a record (03 R113). -/
def TileSt.code : TileSt → Nat
  | .empty => 0
  | .filling => 1
  | .ready => 2
  | .draining => 3
  | .fault => 4

/-- A tile table entry in a record: 24 bytes that hold every field of 03 R113 (DESIGN CHOICE, log 23: R384 gives no layout). -/
def Tile.entry (t : Tile) : List Byte :=
  leBytes 4 t.base ++ leBytes 4 t.size ++ leBytes 4 t.count ++ leBytes 2 t.drn ++ leBytes 1 t.arm
    ++ leBytes 1 (t.st.code + 8 * bit t.ph + 16 * bit t.why + 32 * bit t.rep) ++ leBytes 8 t.timer

/-- The entry of a record at a key. -/
def Tile.ofEntry (m : List Host.Cell) (c : Nat) (lv : Level) (inst k : Nat) : Tile :=
  let r := fun (off n : Nat) => Memory.readLE m (k + off) n
  let f := r 15 1
  { lv := lv, inst := inst, base := r 0 4, size := r 4 4, count := r 8 4, drn := r 12 2, arm := r 14 1
    st := match f % 8 with | 0 => .empty | 1 => .filling | 2 => .ready | 3 => .draining | _ => .fault
    ph := f.testBit 3, why := f.testBit 4, rep := f.testBit 5, timer := r 16 8, ctx := c }

/-- The tile entries of a context in one instance are saved: level and instance, then the entries (13 R384, kind 3; log 23). -/
def State.saveTiles (s : State) (c d : Nat) (ts : List Tile) (inst : Level × Nat) : State :=
  let body := s.nextBody c
  let s := s.saveRecord c 3 (1024 + d * 64) (leBytes 4 (levelNum inst.1) ++ leBytes 4 inst.2
    ++ (ts.filter fun t => (t.lv, t.inst) == inst).flatMap Tile.entry)
  let v := s.savedOf c
  s.setSaved { v with tiles := v.tiles ++ [body] }

/-- A die dispatcher stops between block hand-outs: the slices of the blocks that stopped, the context's tile entries and the range
tasks of its die are saved (13 R382, R384). -/
def State.stopDispatcher (s : State) (c d : Nat) : State :=
  let ls := s.fe.launches.filter fun l => l.ctx == c && l.die == d
  let ts := s.tiles.filter fun t => t.ctx == c && onDie t.lv t.inst d
  let s := (s.slicesOf c d).foldl (State.saveSlice · c) s
  let s := ((ts.map fun t => (t.lv, t.inst)).eraseDups).foldl (State.saveTiles · c d ts) s
  let s := if ls.isEmpty then s else s.saveRecord c 9 (1024 + d * 64) (ls.flatMap fun l => leBytes 2 l.slot ++ leBytes 2 l.node)
  if (s.ctxOf c).st ≠ 2 then s
  else
    let v := s.savedOf c
    let s := s.setSaved { v with launches := v.launches ++ ls }
    { s with
      tiles := s.tiles.filter fun t => !(t.ctx == c && onDie t.lv t.inst d)
      fe := { s.fe with launches := s.fe.launches.filter fun l => !(l.ctx == c && l.die == d) } }

/-- A unit stops at its stop unit and its state is saved (13 R382 to R384). -/
def State.stopUnit (s : State) (c : Nat) (u : StopUnit) : State :=
  match u with
  | .hart n => s.stopHart c n
  | .copyEngine k => s.stopCommands c 2 (coreMaster k 1) fun m => m.kind == .copy && m.unit == k
  | .topology d => s.stopCommands c 5 (1024 + d * 64) fun m => m.kind == .topology && m.unit == d
  | .colouring d => s.stopCommands c 6 (1024 + d * 64 + 1) fun m => m.kind == .colouring && m.unit == d
  | .binning d => s.stopCommands c 7 (1024 + d * 64 + 2) fun m => m.kind == .binning && m.unit == d
  | .hod p => s.stopCommands c 8 (hodMaster p) fun m => m.kind == .hod && m.unit == p
  | .dispatcher d => s.stopDispatcher c d

/-- A unit is a hart's. -/
def StopUnit.isHart : StopUnit → Bool
  | .hart _ => true
  | _ => false

/-- A unit is a die dispatcher's. -/
def StopUnit.isDispatcher : StopUnit → Bool
  | .dispatcher _ => true
  | _ => false

/-- A unit can acknowledge now: an engine after the harts that feed it, a dispatcher after every hart and engine, with the slices
that it saves out of retention (13 R383; 15 R418; log 70). -/
def State.ackTurn (s : State) (c : Nat) (owed : List StopUnit) (u : StopUnit) : Bool :=
  match u with
  | .hart _ => true
  | .dispatcher d => owed.all StopUnit.isDispatcher && s.slicesRetained ((s.slicesOf c d).map fun (n, lv, _) => (n, lv)) == []
  | _ => !(owed.any StopUnit.isHart)

/-- What a unit that cannot acknowledge yet waits upon: a dispatcher whose turn it is, on the arrays of the slices (15 R418). -/
def State.ackAwaits (s : State) (c : Nat) (owed : List StopUnit) (u : StopUnit) : State :=
  match u with
  | .dispatcher d =>
    if owed.all StopUnit.isDispatcher then s.awaits (s.slicesRetained ((s.slicesOf c d).map fun (n, lv, _) => (n, lv))) else s
  | _ => s

/-- A unit acknowledges its stop; when every unit has, the context is stopped (13 R383). -/
def State.ackStop (s : State) (c : Nat) (u : StopUnit) : State :=
  let x := s.ctxOf c
  if x.st ≠ 2 ∨ !(x.owed.contains u) then s
  else if s.ackTurn c x.owed u = false then s.ackAwaits c x.owed u
  else
    let s := s.stopUnit c u
    let x := s.ctxOf c
    if x.st ≠ 2 then s
    else
      let owed := x.owed.filter (· != u)
      let s := s.setCtx c { x with owed := owed, st := if owed.isEmpty then 3 else 2, err := 0 }
      if owed.isEmpty then
        { s with cx := { s.cx with busy := without s.cx.busy c }
                 rel := { s.rel with tele := Table.set s.rel.tele 0x28 (Table.get s.rel.tele 0x28 0 + 1) } }
      else s

/-- The engine class that a missing acknowledgement names (13 R382, 15 R408 code 0x50; log 25). -/
def stopClass : StopUnit → Nat
  | .hart _ => 0
  | .copyEngine _ => 2
  | .topology _ => 3
  | .colouring _ => 4
  | .binning _ => 5
  | .hod _ => 6
  | .dispatcher _ => 7

/-- The bank of a stop unit (15 R405). -/
def stopBank : StopUnit → Nat
  | .hart n => n / 4
  | .copyEngine k => 288 + k
  | .topology d => 660 + d
  | .colouring d => 672 + d
  | .binning d => 684 + d
  | .hod p => 710 + p
  | .dispatcher d => 648 + d

/-- UNIT of the record about a unit that does not stop: a hart within its core, whose bank the core's harts share (15 R405, R407). -/
def stopUnitOf : StopUnit → Nat
  | .hart n => n % 4
  | _ => 0

/-- An acknowledgement is missing after 2^24 clocks: the context fails and a record names the unit (13 R383). -/
def State.stopTimeout (s : State) (c : Nat) (u : StopUnit) : State :=
  let x := s.ctxOf c
  if x.st ≠ 2 ∨ !(x.owed.contains u) then s
  else
    let s := (s.report (stopBank u) { code := 0x50, unit := stopUnitOf u, ctx := c, synd := BitVec.ofNat 64 (stopClass u) }).1
    let s := s.failContext c (FaultRec.bare 5 0 0)
    { s with rel := { s.rel with tele := Table.set s.rel.tele 0x30 (Table.get s.rel.tele 0x30 0 + 1) } }

/-- A saved hart is restored from its record (13 R383, R384). -/
def State.restoreHart (s : State) (c : Nat) (r : CtxRec) (v : Nat × Nat × Hart) : State :=
  let s := (s.readCheck v.2.1 49664).1
  s.putHart ((Hart.fromBody s.mem v.2.1 { v.2.2 with num := v.1 }).loadContext c r)

/-- The level at the start of a record body, and the bytes of the body after the first 8. -/
def State.bodyLevel (s : State) (body : Nat) : Level × Nat :=
  ((match Memory.readLE s.mem body 4 with | 1 => .s1 | 2 => .s2 | _ => .s3), Memory.readLE s.mem (body - 12) 4 - 8)

/-- Saved slice bytes go back to the slice of the hart they came from (13 R384, kind 4). -/
def State.restoreSlice (s : State) (v : Nat × Nat) : State :=
  let (n, body) := v
  let (lv, len) := s.bodyLevel body
  let (inst, off) := sliceOf lv n
  s.moveSaved (body + 8) (levelKey lv inst off) len fun s bytes => s.storeBytes (levelKey lv inst off) true bytes

/-- The tile entries of a record go back to their table (13 R384, kind 3). -/
def State.restoreTiles (s : State) (c body : Nat) : State :=
  let (lv, len) := s.bodyLevel body
  let s := (s.readCheck body (len + 8)).1
  { s with tiles := s.tiles ++ (List.range (len / 24)).map fun i =>
      Tile.ofEntry s.mem c lv (Memory.readLE s.mem (body + 4) 4) (body + 8 + 24 * i) }

/-- A command that was taken out of the queues takes its place in the order of acceptance again (03 R138). -/
def State.requeue (s : State) (k : Command) : State :=
  let s := s.commandAwaits k
  { s with cmds := (s.cmds.filter fun m => m.id < k.id) ++ k :: s.cmds.filter fun m => k.id < m.id }

/-- The arrays in retention that the restore of saved slices waits upon (15 R418). -/
def State.restoreWaits (s : State) (v : Saved) : List Nat :=
  s.slicesRetained (v.slices.map fun (n, body) => (n, (s.bodyLevel body).1))

/-- RESUME for one context (13 R383): every record goes back to its unit and the context runs; with a core of a hart record
missing from the mask it stays stopped, with CTXERR 5. It waits for arrays in retention, and has no effect on a context that is not
stopped. -/
def State.resume (s : State) (c : Nat) : State :=
  let x := s.ctxOf c
  let v := s.savedOf c
  if x.st ≠ 3 then s
  else if v.harts.any fun (n, _, _) => !(x.live.cores.contains (n / 4)) then s.setCtx c { x with err := 5 }
  else if s.restoreWaits v ≠ [] then
    let bit := (1 : BitVec 64) <<< c
    { s.awaits (s.restoreWaits v) with cx := { s.cx with busy := s.cx.busy ||| bit, resuming := s.cx.resuming ||| bit } }
  else
    let s := v.harts.foldl (fun s w => s.restoreHart c x.live w) s
    let s := v.slices.foldl State.restoreSlice s
    let s := v.tiles.foldl (State.restoreTiles · c) s
    let s := v.cmds.foldl State.requeue s
    let s := { s with
      fe := { s.fe with launches := s.fe.launches ++ v.launches }
      cx := { s.cx with busy := without s.cx.busy c, resuming := without s.cx.resuming c
                        saved := s.cx.saved.filter fun w => w.ctx != c } }
    (s.setCtx c { x with st := 1, err := 0 }).refill

end Sys2Proof.Machine
end

