-- ==== Sys2Proof/Machine/WindowStore.lean ====
section
/-! DEFINITION. Writes to the I/O die function window, field by field by their access codes (00 R6; 13 R360, R361, R377, R380;
15 R415). -/

namespace Sys2Proof.Machine

/-- An aligned 64-bit word with `len` bytes from byte `pos` replaced. -/
def mergeWord (old pos len v : Nat) : Nat :=
  let lo := 256 ^ pos
  let m := 256 ^ len
  old % lo + v % m * lo + old / (lo * m) * (lo * m)

/-- A context record with word `w` set (13 R379); the reserved bits of CTXCFG stay 0 (00 R6; 01 R51). -/
def CtxRec.setWord (c : CtxRec) (w v : Nat) : CtxRec :=
  let x : Word := BitVec.ofNat 64 v
  match w with
  | 1 => { c with heapbase := x }
  | 2 => { c with heaplim := x }
  | 3 => { c with heapoff := x }
  | 4 => { c with ptroot := x }
  | 5 => { c with ctxcfg := x &&& 7 }
  | 6 => { c with atmem := x }
  | 7 => { c with atscr := x }
  | 8 => { c with atiod := x }
  | 9 => { c with atport := x }
  | 10 => { c with xvec := x }
  | 11 => { c with tlhang := v }
  | 12 => { c with savea := x }
  | 13 => { c with savesz := v }
  | 14 => { c with peermap := x }
  | 15 => { c with func0 := x }
  | 16 => { c with func1 := x }
  | n =>
    if 17 ≤ n ∧ n < 23 then
      let d := 2 * (n - 17)
      { c with cores := (c.cores.filter fun k => k / 24 != d && k / 24 != d + 1)
          ++ (coresOf fun e => if e = d then v % 2 ^ 24 else if e = d + 1 then v / 2 ^ 32 % 2 ^ 24 else 0) }
    else c

/-- A replay record with word `w` set (14 R396). -/
def Replay.setWord (r : Replay) (w v : Nat) : Replay :=
  if w = 0 then { r with slot := v % 2 ^ 16, gen := v / 2 ^ 16 % 2 ^ 16, ctx := v / 2 ^ 32 % 256, st := v / 2 ^ 40 % 256 }
  else if w = 1 then { r with snapa := BitVec.ofNat 64 v }
  else if w = 2 then { r with fallback := v % 2 ^ 32 }
  else if w < 35 then
    { r with loops := Table.set (Table.set r.loops (2 * (w - 3)) (v % 2 ^ 32)) (2 * (w - 3) + 1) (v / 2 ^ 32) }
  else if w = 35 then { r with rseq := v }
  else if w < 64 then r
  else { r with nodes := (List.range 32).foldl (fun t i => Table.set t ((w - 64) * 32 + i) (v / 4 ^ i % 4)) r.nodes }

/-- A replay record that is free (14 R396: STATE 0). -/
def Replay.free (n : Nat) : Replay :=
  ⟨n, 0, 0, 0, 0, 0, 0, [], [], 0, 0, 0, 0, false, 0, [], [], none, 0, none⟩

/-- A take-over has been closed: record 0x32, the telemetry counts it, and the slots listed are those that are pending where none
were listed (14 R397; 15 R408, R427). -/
def State.takeoverClosed (s : State) : State :=
  let s := (s.listPending.report 708 { code := 0x32, synd := BitVec.ofNat 64 s.fe.primary }).1
  { s with rel := { s.rel with tele := Table.set s.rel.tele 0x20 (Table.get s.rel.tele 0x20 0 + 1) } }

/-- The journal with word `w` set, by a control hart (13 R377). When FLAGS becomes 0 the take-over is closed, with
record 0x32, and a pre-emption that waited for it begins (13 R378, R383; 15 R408). -/
def State.journalStore (s : State) (w v : Nat) : State :=
  let f := s.fe
  let put := fun (g : FrontEnd) => { s with fe := g }
  if w = 0 then put { f with seq := v }
  else if w = 1 then put { f with primary := v % 4, standby := v / 4 % 4, takeovers := v / 2 ^ 16 % 2 ^ 16 }
  else if w = 2 then put { f with beat := BitVec.ofNat 64 v }
  else if w = 3 then
    let s := put { f with takeover := v % 2 = 1, hold := v / 2 % 2 = 1 }
    let s := if f.takeover ∧ v % 2 = 0 then s.takeoverClosed else s
    if v % 2 = 0 then eachBit s.cx.busy State.startPreempt s else s
  else if 8 ≤ w ∧ w < 24 then
    let old := BitVec.ofNat 1024 ((2 ^ 64 - 1) * 2 ^ (64 * (w - 8)))
    let new := BitVec.ofNat 1024 (v * 2 ^ (64 * (w - 8)))
    put { f with taken := (f.taken &&& ~~~old) ||| new }
  else if 512 ≤ w ∧ w < 2560 then
    let n := (w - 512) / 2
    let t := f.slot n
    let t := if w % 2 = 0 then { t with jst := v % 256, jrec := v / 256 % 256, jgen := v / 2 ^ 16 % 2 ^ 16 }
             else { t with jseq := v }
    put { f with slots := Table.set f.slots n t }
  else if 2560 ≤ w ∧ w < 2560 + 192 * 128 then
    let n := (w - 2560) / 192
    let k := (w - 2560) % 192
    if f.replays.any fun r => r.jrec = n then
      put { f with replays := f.replays.map fun r => if r.jrec = n then r.setWord k v else r }
    else put { f with replays := f.replays ++ [(Replay.free n).setWord k v] }
  else s

/-- The mask of an injection meets its KIND (15 R415). -/
def maskMeets (u kind : Nat) (mask : Word) : Bool :=
  if kind = 0 then (if u < 12 then (symbolsOf mask).length = 1 else (bitsSet mask).length = 1)
  else if kind = 1 then (if u < 12 then (symbolsOf mask).length = 2 else (bitsSet mask).length = 2)
  else kind = 2

/-- INJCTL of unit `u` is written (15 R415): KIND 3 fails a channel at once; ARM stays clear for a reserved KIND, for CNT 0
and for a mask that does not meet its KIND. -/
def State.writeInjctl (s : State) (u v : Nat) : State :=
  let j := Table.get s.rel.injs u ⟨0, 0, 0⟩
  let kind := v / 2 % 8
  let cnt := v / 65536 % 256
  let ch := v / 256 % 256
  let armed := v % 2 = 1 ∧ 1 ≤ cnt ∧ maskMeets u kind j.mask
  let ctl := cnt * 65536 + ch * 256 + kind * 2 + (if armed then 1 else 0)
  let s := { s with rel := { s.rel with injs := Table.set s.rel.injs u { j with ctl := BitVec.ofNat 64 ctl } } }
  if v % 2 = 1 ∧ kind = 3 ∧ u < 12 then s.failChannel u ch else s

/-- Word `w` of the injection block of unit `u` is written. -/
def State.writeInject (s : State) (u w v : Nat) : State :=
  let j := Table.get s.rel.injs u ⟨0, 0, 0⟩
  match w with
  | 0 => s.writeInjctl u v
  | 1 => { s with rel := { s.rel with injs := Table.set s.rel.injs u { j with addr := BitVec.ofNat 64 v } } }
  | 2 => { s with rel := { s.rel with injs := Table.set s.rel.injs u { j with mask := BitVec.ofNat 64 v } } }
  | _ => s

/-- `len` bytes with value `v` are written at an offset of a function, within one aligned 8-byte word; `ctl` says that a
control hart writes, without it the host does. Fields that are RO ignore the write (00 R6). -/
def State.windowWrite (s : State) (ctl : Bool) (die : Nat) (f : Fn) (off len v : Nat) : State :=
  let w := off / 8
  let trig := BitVec.ofNat 64 (mergeWord 0 (off % 8) len v)
  let merged := mergeWord (s.windowWord die f (off / 8 * 8)) (off % 8) len v
  let raw := fun (base : Nat) => { s with mem := Memory.writeLE s.mem (iodKey die (base + off)) len v }
  match f with
  | .kick => if w < 16 then s.kick w trig else if 48 ≤ w ∧ w < 64 ∧ ctl then s.take (w - 48) trig else s
  | .ctxPage =>
    if w = 0 then eachBit trig State.ctxKick s
    else if w = 2 then s.inval trig
    else if w = 4 then eachBit trig State.startPreempt s
    else if w = 5 then eachBit trig State.resume s
    else s
  | .slotTable => raw 0x10000
  | .staging => raw 0x20000
  | .outTable => if off < 512 then raw 0x400000 else s
  | .live =>
    if ctl then s.setCtx (w / 32) { s.ctxOf (w / 32) with live := (s.ctxOf (w / 32)).live.setWord (w % 32) merged } else s
  | .journal => if ctl then s.journalStore w merged else s
  | .inject => s.writeInject (w / 8) (w % 8) merged
  | .slotStat => s
  | .mortar => s
  | .banks => s
  | .identity => s
  | .telemetry => s
  | .outWindow => s

end Sys2Proof.Machine
end

