-- ==== Sys2Proof/Machine/Access.lean ====
section
/-! DEFINITION. One access of a hart: its checks and gates, the bytes it reads or writes, and what poison does to it
(03 R114, R116, R132; 05 R174, R186; 13 R379, R390, R391; 15 R414, R418, R425). -/

namespace Sys2Proof.Machine

/-- A telemetry counter rises (15 R427). -/
def State.count (s : State) (off : Nat) : State :=
  { s with rel := { s.rel with tele := Table.set s.rel.tele off (Table.get s.rel.tele off 0 + 1) } }

/-- The number of a hart in the tile table of its instance of a level (03 R113, ARM). -/
def armOf (lv : Level) (hart : Nat) : Nat :=
  match lv with
  | .s1 => hart % 4
  | .s2 => hart % 16
  | .s3 => hart % 96

/-- Whether an access may issue, waits, or traps. A wait names the arrays in retention that hold it (15 R418); it may name none. -/
inductive Gate where
  | go
  | wait (on : List Nat)
  | trap (c : Cause) (s : State)
  deriving DecidableEq, Repr

/-- The virtual address of a tile's base. -/
def Tile.va (t : Tile) : Word := BitVec.ofNat 64 (levelBase t.lv + t.base)

/-- A tile of the table is changed. -/
def State.setTile (s : State) (t : Tile) : State :=
  { s with tiles := s.tiles.map fun u => if u.lv = t.lv ∧ u.inst = t.inst ∧ u.base = t.base then t else u }

/-- The trap of a tile in FAULT for hart `n`: the arming hart reports it once (03 R114, R116). -/
def State.tileFault (s : State) (t : Tile) (n : Nat) : Cause × State :=
  if t.rep = false ∧ t.arm = armOf t.lv n then
    (if t.why then .tileHang t.va else .tileOverflow t.va, s.setTile { t with rep := true })
  else (.tileState t.va, s)

/-- The gate of a tile on a load, or on a store or atomic, of hart `n` (03 R116). -/
def State.tileGate (s : State) (t : Tile) (n : Nat) (writes : Bool) : Gate :=
  match t.st with
  | .empty => .go
  | .ready => .go
  | .filling => .wait []
  | .draining => if writes then .wait [] else .go
  | .fault => let (c, s) := s.tileFault t n; .trap c s

/-- The tiles of a context that bytes of an instance touch. -/
def State.tilesAt (s : State) (ctx : Nat) (lv : Level) (inst off len : Nat) : List Tile :=
  s.tiles.filter fun t => t.ctx == ctx && t.lv == lv && t.inst == inst && t.base < off + len && off < t.base + t.size

/-- The place of a gate in the order of 01 R53; a wait stands with the causes that owners report. -/
def Gate.rank : Gate → Nat
  | .trap c _ => c.rank
  | .wait _ => 11
  | .go => 13

/-- The gate of an access from those of its parts: the one that ranks first (01 R53). -/
def firstGate : List Gate → Gate
  | [] => .go
  | g :: gs => let r := firstGate gs; if r.rank < g.rank then r else g

/-- A claimed granule is touched: bytes [k, k + len) of main memory (03 R132). -/
def State.claimed (s : State) (k len : Nat) : Bool := s.claims.any fun c => c.lo < k + len && k ≤ c.hi

/-- A Beydin port carries peer traffic: the device is enumerated, the port is up, and its link partner reports another number
(13 R390; 15 R408). -/
def State.carries (s : State) (p : Nat) : Bool :=
  s.fab.enumerated && !(s.bank (710 + p)).fenced && Table.find? s.fab.partners p != some s.fab.device.toNat

/-- The ports through which traffic to device `dev` may leave (13 R391). -/
def State.portsTo (s : State) (dev : Nat) : List Nat :=
  (List.range 18).filter fun p => (Table.get s.fab.routes dev 0).testBit p && s.carries p

/-- The port that traffic to a granule of device `dev` takes; none where the device is unreachable (13 R391). -/
def State.exitPort (s : State) (dev addr : Nat) : Option Nat :=
  let ps := s.portsTo dev
  ps[Config.portHash (addr / 256) % ps.length]?

/-- The status of an access of a context to device `dev`: 0 where it may go (07 R264; 13 R379, R390, R391). -/
def State.peerStatus (s : State) (ctx dev : Nat) : Nat :=
  if (s.portsTo dev).isEmpty then 4
  else
    let c := s.ctxOf ctx
    if c.st = 0 ∨ c.live.peermap = 0 then 5
    else if Memory.read s.mem (c.live.peermap.toNat % 2 ^ 40 + dev) = 0xFF then 5
    else Table.get s.peers.reach dev 0

/-- The gate of one part of an access of a party; `n` is the hart (03 R116, R132; 13 R360; 15 R418). -/
def State.partGate (s : State) (e : Env) (n : Nat) (writes : Bool) (p : Part) : Gate :=
  match p.place with
  | .zeros => .go
  | .mem k _ _ => if s.claimed k p.len then .wait [] else .go
  | .scratch lv inst off =>
    let on := s.retainedIn p
    if on ≠ [] then .wait on
    else firstGate ((s.tilesAt e.ctx lv inst off p.len).map fun t => s.tileGate t n writes)
  | .peer dev spa =>
    let st := s.peerStatus e.ctx dev
    if st ≠ 0 then .trap (.remote dev st) s else if s.claimed (peerKey spa) p.len then .wait [] else .go
  | .window die off =>
    match fnAt die off with
    | none => .trap (.access p.va) s
    | some (f, o) =>
      match s.barred e writes f with
      | some .access => .trap (.access p.va) s
      | some .priv => .trap .priv s
      | none => if f = .outWindow ∧ s.outbound die o = none then .trap (.access p.va) s else .go

/-- How the checks of one access end. -/
inductive Checked where
  | ok (parts : List Part)
  | trap (c : Cause) (s : State)
  | wait (on : List Nat)
  deriving DecidableEq, Repr

/-- The access waits. -/
def Checked.waits : Checked → Bool
  | .wait _ => true
  | _ => false

/-- The checks and gates of one access of hart `n` in environment `e` (05 R186). -/
def State.check (s : State) (e : Env) (n : Nat) (acc : Acc) (va : Word) (len : Nat) : Checked :=
  match s.access e acc va len with
  | .error c => .trap c s
  | .ok parts =>
    match firstGate (parts.map (s.partGate e n acc.writes)) with
    | .go => .ok parts
    | .wait on => .wait on
    | .trap c s => .trap c s

/-- The bytes of a part, and the address of its lowest poisoned byte. -/
def State.readPart (s : State) (p : Part) : State × List Byte × Option Word :=
  let plain := fun (k : Nat) =>
    let (s, bad) := s.readCheck k p.len
    (s, Memory.readBytes s.mem k p.len, bad.map fun b => p.va + BitVec.ofNat 64 (b - k))
  match p.place with
  | .zeros => (s, List.replicate p.len 0, none)
  | .mem k _ _ => plain k
  | .scratch lv inst off => plain (levelKey lv inst off)
  | .peer _ spa => (s, Memory.readBytes s.mem (peerKey spa) p.len, none)
  | .window die off =>
    (s, (List.range p.len).map fun i =>
      match fnAt die (off + i) with
      | some (f, o) => s.windowByte die f o
      | none => 0, none)

/-- The lower of two addresses that may be absent. -/
def lowest (a b : Option Word) : Option Word :=
  match a, b with
  | some x, some y => some (if y < x then y else x)
  | some x, none => some x
  | none, y => y

/-- The bytes of an access, and the address of its lowest poisoned byte. -/
def State.readParts (s : State) : List Part → State × List Byte × Option Word
  | [] => (s, [], none)
  | p :: ps =>
    let (s, b, bad) := s.readPart p
    let (s, b', bad') := s.readParts ps
    (s, b ++ b', lowest bad bad')

/-- Bytes to a function window, word by word; bytes to the outbound window go to host memory (13 R389). -/
def State.storeWindow (s : State) (ctl : Bool) (die off : Nat) (bytes : List Byte) : Nat → State
  | 0 => s
  | fuel + 1 =>
    if bytes.isEmpty then s
    else
      let n := min (8 - off % 8) bytes.length
      let v := (bytes.take n).foldr (fun b a => b.toNat + 256 * a) 0
      let s :=
        match fnAt die off with
        | none => s
        | some (.outWindow, o) =>
          match s.outbound die o with
          | some k => { s with mem := Memory.writeBytes s.mem k (bytes.take n) }
          | none => s
        | some (f, o) => s.windowWrite ctl die f o n v
      s.storeWindow ctl die (off + n) (bytes.drop n) fuel

/-- Bytes to a part. -/
def State.writePart (s : State) (e : Env) (p : Part) (bytes : List Byte) : State :=
  match p.place with
  | .zeros => s
  | .mem k _ q => s.storeBytes k q bytes
  | .scratch lv inst off => s.storeBytes (levelKey lv inst off) true bytes
  | .peer _ spa => { s with mem := Memory.writeBytes s.mem (peerKey spa) bytes }
  | .window die off => s.storeWindow e.ctl.isSome die off bytes bytes.length

/-- Bytes to the parts of an access. -/
def State.writeParts (s : State) (e : Env) : List Part → List Byte → State
  | [], _ => s
  | p :: ps, bytes => (s.writePart e p (bytes.take p.len)).writeParts e ps (bytes.drop p.len)

/-- Bytes as a little-endian number (00 R5). -/
def leNat (bytes : List Byte) : Nat := bytes.foldr (fun b a => b.toNat + 256 * a) 0

/-- The instructions that a consumer of poison squashes in the vector queue, itself counted: how many younger ones are chained to
it is a free value (15 R414; 01 R19; log 66). -/
def State.convoy (s : State) : Nat := 1 + Config.freeValue 44 s.ticks % 65535

/-- The current hart consumes poison at an address: record 0x05 with the number of instructions squashed, of which a scalar
consumer is the only one (15 R414). -/
def State.consume (s : State) (va : Word) (squashed : Nat) : Cause × State :=
  let h := s.hart
  let (s, i) := s.report h.bank
    { code := 0x05, unit := h.num % 4, adrk := 1, addr := va, synd := BitVec.ofNat 64 squashed, master := h.master
      ctx := h.ctxid.toNat }
  (.mcheckContained h.bank i, s.count (0x2000 + 64 * h.core + 24))

/-- How a read by the current hart ends. -/
inductive Got where
  | ok (v : Nat) (s : State)
  | trap (c : Cause) (s : State)
  | wait (on : List Nat)
  deriving DecidableEq, Repr

/-- The bytes of parts, as a number, or the trap of their poison, which squashes the given number of instructions. -/
def State.readNat (s : State) (parts : List Part) (squashed : Nat := 1) : Got :=
  match s.readParts parts with
  | (s, bytes, none) => .ok (leNat bytes) s
  | (s, _, some va) => let (c, s) := s.consume va squashed; .trap c s

/-- The current hart loads `len` bytes. -/
def State.loadN (s : State) (va : Word) (len : Nat) (squashed : Nat := 1) : Got :=
  match s.check s.hart.env s.hart.num .load va len with
  | .trap c s => .trap c s
  | .wait on => .wait on
  | .ok parts => s.readNat parts squashed

/-- The current hart stores the low `len` bytes of a number. -/
def State.storeN (s : State) (va : Word) (len v : Nat) : Got :=
  match s.check s.hart.env s.hart.num .store va len with
  | .trap c s => .trap c s
  | .wait on => .wait on
  | .ok parts => .ok 0 (s.writeParts s.hart.env parts (leBytes len v))

/-- The current hart reads `len` bytes and, if the function gives a value, writes it back, as one atomic access; it answers
the old value (03 R129; 05 R189, R192). -/
def State.atomicN (s : State) (va : Word) (len : Nat) (f : Nat → Option Nat) (squashed : Nat := 1) : Got :=
  match s.check s.hart.env s.hart.num .atomic va len with
  | .trap c s => .trap c s
  | .wait on => .wait on
  | .ok parts =>
    match s.readNat parts squashed with
    | .ok old s =>
      match f old with
      | some new => .ok old (s.writeParts s.hart.env parts (leBytes len new))
      | none => .ok old s
    | r => r

/-! ### Blocks that a write covers (15 R413) -/

/-- The key of a place in memory or a scratchpad of this device. -/
def Place.key? : Place → Option Nat
  | .mem k _ _ => some k
  | .scratch lv inst off => some (levelKey lv inst off)
  | _ => none

/-- The bytes of memory and scratchpads that parts hold: key and number. -/
def coverOf (ps : List Part) : List (Nat × Nat) := ps.filterMap fun p => p.place.key?.map fun k => (k, p.len)

/-- The part of some pieces holds every byte of a block. -/
def coversBlock (ps : List (Nat × Nat)) (b : Nat) : Bool :=
  (List.range 64).all fun i => ps.any fun (k, n) => k ≤ b + i && b + i < k + n

/-- The blocks that pieces of one command, or of one instruction, cover whole lose their poison and their injected errors (15 R413, R415). -/
def State.renew (s : State) (ps : List (Nat × Nat)) : State :=
  { s with rel := { s.rel with
      poison := s.rel.poison.filter fun b => !coversBlock ps b
      latent := s.rel.latent.filter fun (b, _) => !coversBlock ps b } }

end Sys2Proof.Machine
end

