-- ==== Sys2Proof/Machine/Act.lean ====
section
/-! DEFINITION. Computations of an instruction of the current hart that may trap or wait before it changes anything, and
computations of an engine that may end with a status. -/

namespace Sys2Proof.Machine

/-- Why an instruction stops: a trap before it changes the hart, a trap with the progress that the hart holds (01 R52), a
stream that cannot deliver an element (07 R250), a wait, with the arrays in retention that hold it, a wait of a release (03 R127, R137), or a wait for the replies of
devices (07 R263, R266). -/
inductive Stop where
  | trap (c : Cause)
  | keep (c : Cause)
  | streamFault (r : Nat)
  | wait (on : List Nat)
  | release
  | ask (devices : List Nat)
  deriving DecidableEq, Repr

/-- The place of a stop among the conditions of one instruction (01 R53); a wait stands with the causes that owners report. -/
def Stop.rank : Stop → Nat
  | .trap c => c.rank
  | .keep c => c.rank
  | .streamFault _ => 4
  | .wait _ => 11
  | .release => 11
  | .ask _ => 11

/-- A computation of the current hart. -/
abbrev Act := ExceptT Stop (StateM State)

/-- The computation `a`; where it stops, what `early` meets comes before it if it ranks before it (01 R53). -/
def Act.unless {α : Type} (early : Act Unit) (a : Act α) : Act α := fun s =>
  match a s with
  | (.ok x, t) => (.ok x, t)
  | (.error e, t) =>
    match early s with
    | (.error e', u) => if e'.rank < e.rank then (.error e', u) else (.error e, t)
    | (.ok _, _) => (.error e, t)

/-- The value that a computation would give, if it gives one; nothing changes. -/
def Act.peek {α : Type} (a : Act α) : Act (Option α) := fun s =>
  match a s with
  | (.ok x, _) => (.ok (some x), s)
  | (.error _, _) => (.ok none, s)

/-- A hart access as a computation. -/
def Act.got (f : State → Got) : Act Nat := do
  match f (← get) with
  | .ok v s => set s; return v
  | .trap c s => set s; throw (.trap c)
  | .wait on => throw (.wait on)

/-- A load of `len` bytes by an instruction of the vector queue. -/
def Act.load (va : Word) (len : Nat) : Act Nat := Act.got fun s => s.loadN va len s.convoy

/-- A store of `len` bytes. -/
def Act.store (va : Word) (len v : Nat) : Act Unit := do let _ ← Act.got fun s => s.storeN va len v

/-- A trap. -/
def Act.trap {α : Type} (c : Cause) : Act α := throw (.trap c)

/-- A check that traps. -/
def Act.require (p : Bool) (c : Cause) : Act Unit := if p then pure () else throw (.trap c)

/-- A stream of the hart changed. -/
def Hart.setStream (h : Hart) (r : Nat) (t : Stream) : Hart := { h with streams := h.streams.setIfInBounds r t }

/-- A stream of the hart, v28 + r. -/
def Hart.stream (h : Hart) (r : Nat) : Stream := h.streams.getD r Stream.unbound

/-- The fault bit of a stream (07 R250). -/
def Hart.setFault (h : Hart) (r : Nat) (b : Bool) : Hart := h.setStream r { h.stream r with fault := b }

/-- The end of a computation that changes the hart only when it completes: a trap leaves the registers as they were, and a
wait has not started, but for the exits that it asks for (01 R23, R52; 15 R418). -/
def Act.effect (a : Act Unit) (s : State) : Eff :=
  match a s with
  | (.ok _, t) => .done t
  | (.error (.trap c), t) => .trap c { t with hart := s.hart }
  | (.error (.keep c), t) => .trap c t
  | (.error (.streamFault r), t) => .trap (.stream (28 + r)) { t with hart := s.hart.setFault r true }
  | (.error (.wait on), _) => .wait (s.awaits on)
  | (.error .release, _) => .wait s.beginRelease
  | (.error (.ask ds), _) => .wait { s with hart := { s.hart with asked := ds } }

/-- Why an engine's run of a command ends early: a status with its detail (08 R282), or bytes that it must wait for, before it
has written anything. -/
inductive EngStop where
  | status (code detail : Nat)
  | hold
  deriving DecidableEq, Repr

/-- A computation of an engine. -/
abbrev Eng := ExceptT EngStop (StateM State)

/-- The current hart's registers changed. -/
def Act.modifyHart (f : Hart → Hart) : Act Unit := modify fun s => { s with hart := f s.hart }

end Sys2Proof.Machine
end

