-- ==== Sys2Proof/Machine/Tiles.lean ====
section
/-! DEFINITION. The tile table and its instructions, the first words of major 0x2C (03 R112 to R117; 07 R251, R252). -/

namespace Sys2Proof.Machine

/-- The level whose window holds an address, and the offset in it (03 R107). -/
def windowOf (va : Word) : Option (Level × Nat) :=
  [Level.s1, .s2, .s3].findSome? fun lv =>
    if levelBase lv ≤ va.toNat ∧ va.toNat < levelBase lv + levelSize lv then some (lv, va.toNat - levelBase lv) else none

/-- The capacity of a tile table (R112). -/
def tileCapacity : Level → Nat
  | .s1 => 256
  | .s2 => 512
  | .s3 => 2048

/-- The entries of one instance's table, of every context. -/
def State.tileTable (s : State) (lv : Level) (inst : Nat) : List Tile := s.tiles.filter fun t => t.lv == lv && t.inst == inst

/-- Two tiles of one table overlap. -/
def Tile.meets (t u : Tile) : Bool := t.base < u.base + u.size && u.base < t.base + t.size

/-- The entry that TLDEF makes (R114). -/
def newTile (lv : Level) (inst base size arm ctx : Nat) : Tile :=
  ⟨lv, inst, base, size, .empty, false, 0, 0, arm, false, false, 0, ctx⟩

/-- TLDEF's effect (R112, R114, R251): what is no tile traps TILE_STATE, a tile of another context in the way ACCESS. -/
def effTldef (a b : SReg) (s : State) : Eff :=
  let va := s.hart.readS a
  let size := (s.hart.readS b).toNat
  match windowOf va with
  | none => .trap (.tileState va) s
  | some (lv, base) =>
    let inst := levelInst lv s.hart.core
    let t := newTile lv inst base size (armOf lv s.hart.num) s.hart.ctxid.toNat
    let met := (s.tileTable lv inst).filter t.meets
    if base % 64 ≠ 0 ∨ size % 64 ≠ 0 ∨ size = 0 ∨ levelSize lv < base + size then .trap (.tileState va) s
    else if met.any fun u => u.ctx != t.ctx then .trap (.access va) s
    else if !met.isEmpty ∨ tileCapacity lv ≤ (s.tileTable lv inst).length then .trap (.tileState va) s
    else .done { s with tiles := s.tiles ++ [t] }

/-- TLDEF: defines a tile (R251). -/
def execTldef (a b : SReg) (s : State) : Host.Outcome State Fault Refusal := runQueued (wordOf (.tldef a b)) (effTldef a b) s

/-- The tile whose base is an address, for the current hart, or the trap of one that names none (R251). -/
def State.namedTile (s : State) (va : Word) : Except Cause Tile :=
  match windowOf va with
  | none => .error (.tileState va)
  | some (lv, base) =>
    match (s.tileTable lv (levelInst lv s.hart.core)).find? fun t => t.base == base with
    | none => .error (.tileState va)
    | some t => if t.ctx = s.hart.ctxid.toNat then .ok t else .error (.access va)

/-- An instruction on a named tile; in FAULT with the fault not yet reported every one of them reports it (R114). -/
def onTile (a : SReg) (f : Tile → State → Eff) (s : State) : Eff :=
  match s.namedTile (s.hart.readS a) with
  | .error c => .trap c s
  | .ok t =>
    if t.st = .fault ∧ t.rep = false then let (c, s) := s.tileFault t s.hart.num; .trap c s
    else f t s

/-- TLEXP's effect (R114, R251). -/
def effTlexp (a b : SReg) : State → Eff :=
  onTile a fun t s =>
    let n := (s.hart.readS b).toNat
    if n = 0 ∨ 2 ^ 26 ≤ n ∨ t.st = .filling ∨ t.st = .fault then .trap (.tileState t.va) s
    else if t.st = .draining then .wait s
    else .done (s.setTile { t with st := .filling, ph := !t.ph, count := n, arm := armOf t.lv s.hart.num, timer := 0 })

/-- TLEXP: starts a phase that expects n counted bytes (R251). -/
def execTlexp (a b : SReg) (s : State) : Host.Outcome State Fault Refusal := runQueued (wordOf (.tlexp a b)) (effTlexp a b) s

/-- TLWAIT's effect (R116, R251). -/
def effTlwait (a b : SReg) : State → Eff :=
  onTile a fun t s =>
    if t.st = .fault then .trap (.tileState t.va) s
    else if (t.st = .ready ∨ t.st = .draining) ∧ t.ph = (s.hart.readS b).getLsbD 0 then .done s
    else .wait s

/-- TLWAIT: waits until the tile holds the phase's bytes (R251). -/
def execTlwait (a b : SReg) (s : State) : Host.Outcome State Fault Refusal :=
  runQueued (wordOf (.tlwait a b)) (effTlwait a b) s

/-- TLREL's effect (R114, R251). -/
def effTlrel (a : SReg) : State → Eff :=
  onTile a fun t s =>
    if t.st = .filling then .trap (.tileState t.va) s
    else if t.st = .draining then .wait s
    else .done { s with tiles := s.tiles.filter fun u => !(u.lv == t.lv && u.inst == t.inst && u.base == t.base) }

/-- TLREL: removes a tile's entry (R251). -/
def execTlrel (a : SReg) (s : State) : Host.Outcome State Fault Refusal := runQueued (wordOf (.tlrel a)) (effTlrel a) s

/-! ### Counted writes and the watchdog -/

/-- A tile after a counted write of `b` bytes (R114). -/
def Tile.counted (t : Tile) (b : Nat) : Tile :=
  match t.st with
  | .filling =>
    if b ≤ t.count then { t with count := t.count - b, st := if t.count = b then .ready else .filling }
    else { t with st := .fault, why := false, rep := false }
  | .fault => t
  | _ => { t with st := .fault, why := false, rep := false }

/-- The bytes of a tile that [off, off + len) of its instance holds. -/
def Tile.inside (t : Tile) (off len : Nat) : Nat := min (t.base + t.size) (off + len) - max t.base off

/-- Bytes written by a copy engine or a hod of a context count in its own tiles (R115). -/
def State.counted (s : State) (ctx : Nat) (lv : Level) (inst off len : Nat) : State :=
  { s with tiles := s.tiles.map fun t =>
      if t.ctx = ctx ∧ t.lv = lv ∧ t.inst = inst ∧ 0 < t.inside off len then t.counted (t.inside off len) else t }

/-- A reading command issues: a READY or DRAINING tile is DRAINING, and DRN rises (R114). -/
def Tile.drain (t : Tile) : Tile :=
  match t.st with
  | .ready => { t with st := .draining, drn := t.drn + 1 }
  | .draining => { t with drn := t.drn + 1 }
  | _ => t

/-- A reading command completes (R114). -/
def Tile.undrain (t : Tile) : Tile :=
  match t.st with
  | .draining => { t with drn := t.drn - 1, st := if t.drn ≤ 1 then .ready else .draining }
  | _ => t

/-- The TLHANG of a context (13 R379). -/
def State.tlhang (s : State) (ctx : Nat) : Nat := (s.ctxOf ctx).live.tlhang

/-- TILE_WATCHDOG_EXPIRY: the TIMER of a FILLING tile reaches its context's TLHANG (R114). -/
def execTileWatchdogExpiry (lv : Level) (k base : Nat) (s : State) : Host.Outcome State Fault Refusal :=
  .next { s with tiles := s.tiles.map fun t =>
    if t.lv = lv ∧ t.inst = k ∧ t.base = base ∧ t.st = .filling then
      { t with st := .fault, why := true, rep := false, timer := s.tlhang t.ctx }
    else t }

end Sys2Proof.Machine
end

