-- ==== Sys2Proof/Machine/Engine.lean ====
section
/-! DEFINITION. What every engine shares: ranges pinned at issue, claims, the range checker, the order of commands, and the
completion word (03 R108, R131 to R134, R138, R438; 07 R257 to R259; 08 R280 to R282). -/

namespace Sys2Proof.Machine

/-! ### Ranges -/

/-- The address of a number, wrapping. -/
def wordOfInt (i : Int) : Nat := (i % (2 ^ 64 : Int)).toNat

/-- The addresses at which a space begins or ends. -/
def Env.edges (e : Env) : List Nat :=
  [e.heapbase.toNat, e.heapbase.toNat + e.heaplim.toNat, 0xFFFFFF0000000000, levelBase .s1 + levelSize .s1, levelBase .s2,
    levelBase .s2 + levelSize .s2, levelBase .s3, levelBase .s3 + levelSize .s3, 2 ^ 64]

/-- The bytes [lo, lo + len) lie in more than one space (R108). -/
def Env.crosses (e : Env) (lo len : Nat) : Bool :=
  e.edges.any fun b =>
    decide (lo < b ∧ b < lo + len) && (e.space (BitVec.ofNat 64 b) != e.space (BitVec.ofNat 64 (b - 1)))

/-- The bytes from an address to the next page of its space, virtual or, in the heap, physical (R438). -/
def Env.pageStep (e : Env) (va : Nat) : Nat :=
  let v := 65536 - va % 65536
  if e.space (BitVec.ofNat 64 va) = .heap then min v (65536 - (va + e.heapoff.toNat) % 65536) else v

/-- The bytes [va, va + len) page by page. -/
def Env.pages (e : Env) : Nat → Nat → Nat → List (Nat × Nat)
  | 0, _, _ => []
  | fuel + 1, va, len =>
    if len = 0 then []
    else
      let n := min len (e.pageStep va)
      (va, n) :: e.pages fuel (va + n) (len - n)

/-- An address lies in scratchpad space, which remote operations do not address (03 R107). -/
def inScratchSpace (va : Word) : Bool := decide (0xFFFFFF0000000000 ≤ va.toNat)

/-- A page of a range whose first byte is `first` is translated and checked for an engine; a denied table entry and a discarded
page are reported at the first byte of the range (R257, R438; 01 R54). -/
def State.pinPage (s : State) (e : Env) (acc : Acc) (first : Word) (va len : Nat) : Except Cause Part :=
  let w := BitVec.ofNat 64 va
  match s.resolve e acc w with
  | .error (.page, _) => .error (.page acc.writes w)
  | .error (.denied, walked) => .error (.access (if walked then first else w))
  | .ok .zeros => if acc.writes then .error (.discardedWrite first) else .ok ⟨w, len, .zeros⟩
  | .ok (.window d off) =>
    let bad := ((List.range ((off + len - 1) / 4096 - off / 4096 + 1)).map fun i => max off ((off / 4096 + i) * 4096)).find?
      fun o =>
        match fnAt d o with
        | none => true
        | some (f, x) => (s.barred e acc.writes f).isSome || (f == .outWindow && (s.outbound d x).isNone)
    match bad with
    | some o => .error (.access (w + BitVec.ofNat 64 (o - off)))
    | none => .ok ⟨w, len, .window d off⟩
  | .ok (.peer d spa) => let st := s.peerStatus e.ctx d; if st = 0 then .ok ⟨w, len, .peer d spa⟩ else .error (.remote d st)
  | .ok p => .ok ⟨w, len, p⟩

/-- Pages in ascending order, pinned, and the fault of the first that fails (R438). -/
def pinPages (f : Nat → Nat → Except Cause Part) (pages : List (Nat × Nat)) : List Part × List Cause :=
  pages.foldr (fun (va, n) (ps, cs) =>
    match f va n with
    | .ok p => (p :: ps, cs)
    | .error c => (ps, [c])) ([], [])

/-- The pages of a range, pinned, and its fault (R108, R257). -/
def State.pinRange (s : State) (e : Env) (acc : Acc) (lo len : Nat) : List Part × List Cause :=
  if e.crosses lo len then ([], [.windowCross (BitVec.ofNat 64 lo)])
  else pinPages (s.pinPage e acc (BitVec.ofNat 64 lo)) (e.pages len lo len)

/-- The first condition of the lowest rank (R53). -/
def firstCause : List Cause → Option Cause
  | [] => none
  | c :: cs =>
    match firstCause cs with
    | none => some c
    | some d => if c.rank ≤ d.rank then some c else some d

/-- None of some conditions holds; of several that do, the first by 01 R53 is taken. -/
def Act.noneOf (cs : List Cause) : Act Unit :=
  match firstCause cs with
  | some c => Act.trap c
  | none => pure ()

/-! ### Accesses through pinned ranges -/

/-- A place some bytes on. -/
def Place.shift (d : Nat) : Place → Place
  | .mem k h p => .mem (k + d) h p
  | .zeros => .zeros
  | .window i off => .window i (off + d)
  | .peer i spa => .peer i (spa + d)
  | .scratch lv inst off => .scratch lv inst (off + d)

/-- The parts of the bytes [va, va + len) by the pages that were pinned. -/
def pinned (ps : List Part) : Nat → Nat → Nat → List Part
  | 0, _, _ => []
  | fuel + 1, va, len =>
    if len = 0 then []
    else
      match ps.find? fun p => p.va.toNat ≤ va && va < p.va.toNat + p.len with
      | none => []
      | some p =>
        let d := va - p.va.toNat
        let n := min len (p.len - d)
        ⟨BitVec.ofNat 64 va, n, p.place.shift d⟩ :: pinned ps fuel (va + n) (len - n)

/-- Bytes of an engine that count in the tiles of its context (03 R115). -/
def State.countParts (s : State) (ctx : Nat) (ps : List Part) : State :=
  ps.foldl (fun s p =>
    match p.place with
    | .scratch lv inst off => s.counted ctx lv inst off p.len
    | _ => s) s

/-- Parts lie in fenced memory of this device (15 R425). -/
def State.fencedParts (s : State) (ps : List Part) : Bool := ps.any fun p => p.place.key?.any s.fenced

/-- Blocks that hold bytes of parts become poisoned (15 R413). -/
def State.poisonParts (s : State) (ps : List Part) : State :=
  ps.foldl (fun s p =>
    match p.place.key? with
    | some k => (blocksOf k p.len).foldl State.addPoison s
    | none => s) s

/-! ### Claims and issue (R132 to R134) -/

/-- The home of a part, as device × 16 + target, and the granules it touches there (R132). -/
def State.claimOf (s : State) (p : Part) : Option (Nat × Nat × Nat) :=
  match p.place with
  | .mem k _ _ => some (s.fab.device.toNat * 16 + k / 2 ^ 36, k / 256 * 256, (k + p.len - 1) / 256 * 256 + 255)
  | .peer _ spa =>
    some (spa / 2 ^ 36, peerKey (spa / 256 * 256), peerKey ((spa + p.len - 1) / 256 * 256 + 255))
  | _ => none

/-- The claims of one destination of a command, one per home, from the lowest to the highest byte there. -/
def State.rangeClaims (s : State) (id : Nat) (ps : List Part) : List Claim :=
  ps.foldl (fun cs p =>
    match s.claimOf p with
    | none => cs
    | some (h, lo, hi) =>
      if cs.any fun c => c.home == h then
        cs.map fun c => if c.home = h then { c with lo := min c.lo lo, hi := max c.hi hi } else c
      else cs ++ [⟨h, lo, hi, id⟩]) []

/-- The claims of a command: each declared range is a destination of its own (R132; 08 R283). -/
def State.claimsOf (s : State) (k : Command) : List Claim := k.dst.flatMap (s.rangeClaims k.id)

/-- Every home has room for the claims, 1,024 each (R132). -/
def State.claimsFit (s : State) (cs : List Claim) : Bool :=
  cs.all fun c => decide (((s.claims ++ cs).filter fun d => d.home == c.home).length ≤ 1024)

/-- The tiles of a context that parts of a source touch. -/
def State.sourceTiles (s : State) (ctx : Nat) (ps : List Part) : List Tile :=
  ps.flatMap fun p =>
    match p.place with
    | .scratch lv inst off => s.tilesAt ctx lv inst off p.len
    | _ => []

/-- A command of the queues changed. -/
def State.setCmd (s : State) (k : Command) : State := { s with cmds := s.cmds.map fun c => if c.id = k.id then k else c }

/-- A command waits behind one of its engine's queue that has not registered its claims: the engines of a die take their commands
in order of acceptance (08 R280; 03 R139). -/
def State.behind (s : State) (k : Command) : Bool :=
  k.kind != .copy && k.kind != .hod
    && (s.cmds.takeWhile fun m => m.id != k.id).any fun m => m.kind == k.kind && m.unit == k.unit && !m.claimed

/-- A command issues: its source tiles allow it and every home has a free claim, or its source tile is in FAULT, which ends it
with status 2 (R132; 07 R258, R259). A command that issued before a pre-emption registers its claims again (R138). -/
def State.tryIssue (s : State) (k : Command) : Option State :=
  let ts := if k.kind = .copy ∨ k.kind = .hod then s.sourceTiles k.env.ctx k.src else []
  let cs := s.claimsOf k
  if k.claimed ∨ s.behind k ∨ s.powered = false then none
  else if k.stamp.isNone ∧ ts.any (fun t => t.st == .fault) then
    some { (s.setCmd { k with claimed := true, stamp := some s.stamp, status := some (2, 0) }) with stamp := s.stamp + 1 }
  else if k.stamp.isNone ∧ ts.any (fun t => t.st == .filling) then none
  else if s.claimsFit cs = false then none
  else
    let drained := if k.stamp.isSome then k.tiles
      else ((ts.filter fun t => t.st == .ready || t.st == .draining).map fun t => (t.lv, t.inst, t.base)).eraseDups
    some { (s.setCmd { k with claimed := true, stamp := some (k.stamp.getD s.stamp), tiles := drained }) with
      stamp := s.stamp + 1
      claims := s.claims ++ cs
      tiles := if k.stamp.isSome then s.tiles
        else s.tiles.map fun t => if drained.contains (t.lv, t.inst, t.base) then t.drain else t }

/-- A block, an engine command or a replay is active: a module in P1 is in P0 (16 R431). -/
def Power.active (p : Power) : Power := { p with st := if p.st = .idle then .run else p.st }

/-- A command joins its engine's queue and issues at once where it can (07 R253, 08 R280). -/
def State.enqueue (s : State) (k : Command) : State :=
  let s := s.commandAwaits k
  let s := { s with cmds := s.cmds ++ [k], stamp := s.stamp + 1, pow := s.pow.active }
  (s.tryIssue k).getD s

/-- Parts of two ranges meet in a scratchpad (R133). -/
def meetScratch (ps qs : List Part) : Bool :=
  ps.any fun p => qs.any fun q =>
    match p.place, q.place with
    | .scratch l i o, .scratch l' i' o' => l == l' && i == i' && decide (o < o' + q.len ∧ o' < o + p.len)
    | _, _ => false

/-- A claim on granules of some parts, held by a command of lower stamp than `k` (R132, R134). -/
def State.lowerClaim (s : State) (k : Command) (ps : List Part) : Bool :=
  s.claims.any fun c =>
    c.cmd != k.id && (s.cmds.any fun m => m.id == c.cmd && decide (m.stamp.getD s.stamp < k.stamp.getD s.stamp))
      && ps.any fun p =>
        match s.claimOf p with
        | some (_, lo, hi) => decide (c.lo ≤ hi ∧ lo ≤ c.hi)
        | none => false

/-- A command that runs finds granules that it reads or writes claimed by a command of lower stamp; on a claim of a higher stamp none
waits (R132, R134, R139). -/
def State.claimsBlock (s : State) (k : Command) : Bool := s.lowerClaim k (k.src ++ k.dst.flatten)

/-- The range checker holds a command: its scratchpad ranges meet those of a command of lower stamp that has not finished, one that
was restored and has not registered its claims again among them (R133, R138). -/
def State.rangesBlock (s : State) (k : Command) : Bool :=
  s.cmds.any fun m =>
    m.stamp.isSome && m.status.isNone && decide (m.stamp.getD s.stamp < k.stamp.getD s.stamp)
      && (meetScratch m.dst.flatten (k.src ++ k.dst.flatten) || meetScratch m.src k.dst.flatten)

/-- Parts touch a scratchpad array in retention, which is restored first (15 R418). -/
def State.retained (s : State) (ps : List Part) : Bool :=
  ps.any fun p => s.retainedIn p != []

/-- The module runs, and the command has issued and may make its accesses now: nothing of a command of lower stamp holds it (R133, R134,
R139; 16 R431). -/
def State.mayRun (s : State) (k : Command) : Bool :=
  s.powered && k.claimed && !s.retained (k.src ++ k.dst.flatten) && !(s.claimsBlock k || s.rangesBlock k)

/-! ### The end of a command -/

/-- A command has made its writes: its claims are released, and the tiles it read are no longer drained by it (R132;
03 R114). -/
def State.release (s : State) (k : Command) : State :=
  { s with
    claims := s.claims.filter fun c => c.cmd != k.id
    tiles := s.tiles.map fun t => if k.tiles.contains (t.lv, t.inst, t.base) then t.undrain else t }

/-- The value of a completion word (07 R258, 08 R281). -/
def doneValue (status detail : Nat) : Nat := 1 + status % 256 * 256 + detail % 2 ^ 48 * 65536

/-- The number that stands for the issuing hart in the command of a copy node, beyond every hart (13 R370). -/
def copyNodeHart : Nat := 1155

/-- What the front end learns of a copy node's command that has ended. -/
def Command.nodeEnd (k : Command) (status : Nat) : List (Nat × Nat × Nat × Nat × Word) :=
  k.launch.toList.map fun (slot, node, gen) => (slot, node, gen, status, k.blockVa)

/-- Parts cover the keys [k, hi) whole. -/
def coversFrom (ps : List (Nat × Nat)) : Nat → Nat → Nat → Bool
  | 0, k, hi => decide (hi ≤ k)
  | fuel + 1, k, hi =>
    if hi ≤ k then true
    else
      match ps.find? fun (a, n) => a ≤ k && k < a + n with
      | none => false
      | some (a, n) => coversFrom ps fuel (a + n) hi

/-- A checkpoint read: the 2 MiB regions that the source of a command without error covers whole are marked (15 R420). -/
def State.checkpoint (s : State) (k : Command) : State :=
  let ps := k.src.filterMap fun p => match p.place with | .mem key _ _ => some (key, p.len) | _ => none
  let rs := ((ps.map fun (a, _) => a / 2 ^ 21).eraseDups).filter fun r =>
    decide (r < 12 * 2 ^ 15) && coversFrom ps (ps.length + 1) (r * 2 ^ 21) (r * 2 ^ 21 + 2 ^ 21)
  rs.foldl (fun s r =>
    let m := s.memSt (r / 2 ^ 15)
    let i := r % 2 ^ 15
    s.setMemSt (r / 2 ^ 15) { m with covered := if m.covered.contains i then m.covered else i :: m.covered }) s

/-- A command that has ended leaves its queue, with its DONE word written; a claim of a command of lower stamp on that word delays
both (R132, R139; 07 R258, 08 R281). -/
def State.complete (s : State) (k : Command) (status detail : Nat) : State :=
  let s := s.release k
  if s.lowerClaim k k.fin ∨ s.retained k.fin ∨ s.powered = false then s.setCmd { k with claimed := true, tiles := [], status := some (status, detail) }
  else
    let s := s.writeParts k.env k.fin (leBytes 8 (doneValue status detail))
    let s := if k.kind = .copy ∨ k.kind = .hod then s.countParts k.env.ctx k.fin else s
    let s := if status = 0 ∧ (k.kind = .copy ∨ k.kind = .hod ∨ k.kind = .binning) then s.checkpoint k else s
    { s with
      cmds := s.cmds.filter fun c => c.id != k.id
      fe := { s.fe with copyEnds := if k.hart = copyNodeHart then s.fe.copyEnds ++ k.nodeEnd status else s.fe.copyEnds } }

/-! ### Queues -/

/-- The commands of an engine: by core for copy, by die for the mesh engines, all of them for the hods. -/
def State.queueOf (s : State) (e : EngineKind) (k : Nat) : List Command :=
  s.cmds.filter fun m => m.kind == e && (m.unit == k || e == .hod)

/-- The first of an engine's commands that can issue does. -/
def State.registerNext (s : State) (e : EngineKind) (k : Nat) : State := ((s.queueOf e k).findSome? s.tryIssue).getD s

end Sys2Proof.Machine
end

