-- ==== Sys2Proof/Machine/MeshBase.lean ====
section
/-! DEFINITION. How a mesh lies in memory: descriptors, bricks, cells, face records, tree nodes (08 R271 to R278), read
through any reader of bytes. -/

namespace Sys2Proof.Machine

/-- The fields of a mesh descriptor (R272). -/
structure MeshDesc where
  addr : Word
  magic : Nat
  version : Nat
  die : Nat
  device : Nat
  epoch : Nat
  ncell : Nat
  nbrick : Nat
  ngbrick : Nat
  bricka : Word
  brickcap : Nat
  ntree : Nat
  treea : Word
  treecap : Nat
  levels : Nat
  patta : Word
  npart : Nat
  nghost : Nat
  deriving DecidableEq, Repr

/-- A mesh descriptor from its bytes. -/
def MeshDesc.ofNat (a : Word) (w : Nat) : MeshDesc where
  addr := a
  magic := bitsOf w 0 32
  version := bitsOf w 32 16
  die := bitsOf w 48 8
  device := bitsOf w 56 8
  epoch := bitsOf w 64 64
  ncell := bitsOf w 128 64
  nbrick := bitsOf w 192 32
  ngbrick := bitsOf w 224 32
  bricka := BitVec.ofNat 64 (bitsOf w 256 64)
  brickcap := bitsOf w 320 32
  ntree := bitsOf w 352 32
  treea := BitVec.ofNat 64 (bitsOf w 384 64)
  treecap := bitsOf w 448 32
  levels := bitsOf w 480 8
  patta := BitVec.ofNat 64 (bitsOf w 512 64)
  npart := bitsOf w 576 32
  nghost := bitsOf w 608 32

/-- The first 80 bytes of a descriptor (R272). -/
def MeshDesc.toNat (d : MeshDesc) : Nat :=
  d.magic + d.version * 2 ^ 32 + d.die * 2 ^ 48 + d.device * 2 ^ 56 + d.epoch % 2 ^ 64 * 2 ^ 64 + d.ncell * 2 ^ 128
    + d.nbrick * 2 ^ 192 + d.ngbrick * 2 ^ 224 + d.bricka.toNat * 2 ^ 256 + d.brickcap * 2 ^ 320 + d.ntree * 2 ^ 352
    + d.treea.toNat * 2 ^ 384 + d.treecap * 2 ^ 448 + d.levels * 2 ^ 480 + d.patta.toNat * 2 ^ 512 + d.npart * 2 ^ 576
    + d.nghost * 2 ^ 608

/-- The 256 bytes of a descriptor keep the limits and the zeros of R272. -/
def MeshDesc.legal (d : MeshDesc) (w : Nat) : Bool :=
  decide (d.magic = 0x4853454D ∧ d.version = 1 ∧ bitsOf w 488 24 = 0 ∧ w / 2 ^ 640 = 0)
    && decide (d.nbrick + d.ngbrick ≤ d.brickcap ∧ d.ntree ≤ d.treecap ∧ 1 ≤ d.levels ∧ d.levels ≤ 21)
    && decide (d.bricka.toNat % 8192 = 0 ∧ d.treea.toNat % 16 = 0 ∧ d.patta.toNat % 64 = 0)

/-- The fields of a face record (R276). -/
structure Face where
  ghost : Bool
  bnd : Bool
  esc : Bool
  own : Bool
  face : Nat
  sub : Nat
  nface : Nat
  nsub : Nat
  hang : Bool
  nbr : Nat
  deriving DecidableEq, Repr

/-- A face record from its word. -/
def Face.ofNat (w : Nat) : Face where
  ghost := w.testBit 31
  bnd := w.testBit 30
  esc := w.testBit 29
  own := w.testBit 28
  face := bitsOf w 24 4
  sub := bitsOf w 22 2
  nface := bitsOf w 19 3
  nsub := bitsOf w 17 2
  hang := w.testBit 16
  nbr := bitsOf w 0 16

/-- The word of a face record. -/
def Face.toNat (f : Face) : Nat :=
  f.ghost.toNat * 2 ^ 31 + f.bnd.toNat * 2 ^ 30 + f.esc.toNat * 2 ^ 29 + f.own.toNat * 2 ^ 28 + f.face % 16 * 2 ^ 24
    + f.sub % 4 * 2 ^ 22 + f.nface % 8 * 2 ^ 19 + f.nsub % 4 * 2 ^ 17 + f.hang.toNat * 2 ^ 16 + f.nbr % 2 ^ 16

/-- The information word of a face record (R288): face number of the owner's side, SUB, HANG, ghost, boundary and tag. -/
def Face.info (f : Face) : Nat :=
  (if f.own then f.face else f.nface) + f.sub * 16 + f.hang.toNat * 64 + f.ghost.toNat * 128 + f.bnd.toNat * 256
    + (if f.bnd then f.nbr % 256 * 65536 else 0)

/-- The fields of a cell record (R275). -/
structure Cell where
  key : Nat
  type : Nat
  level : Nat
  nfrec : Nat
  flags : Nat
  frec : Nat
  part : Nat
  tree : Nat
  home : Nat
  deriving DecidableEq, Repr

/-- A cell record from its 32 bytes. -/
def Cell.ofNat (w : Nat) : Cell where
  key := bitsOf w 0 64
  type := bitsOf w 64 8
  level := bitsOf w 72 8
  nfrec := bitsOf w 80 8
  flags := bitsOf w 88 8
  frec := bitsOf w 96 16
  part := bitsOf w 112 16
  tree := bitsOf w 128 32
  home := bitsOf w 192 64

/-- The 32 bytes of a cell record. -/
def Cell.toNat (c : Cell) : Nat :=
  c.key % 2 ^ 64 + c.type % 256 * 2 ^ 64 + c.level % 256 * 2 ^ 72 + c.nfrec % 256 * 2 ^ 80 + c.flags % 256 * 2 ^ 88
    + c.frec % 2 ^ 16 * 2 ^ 96 + c.part % 2 ^ 16 * 2 ^ 112 + c.tree % 2 ^ 32 * 2 ^ 128 + c.home % 2 ^ 64 * 2 ^ 192

/-- An address `n` bytes on; addresses wrap (07 R238). -/
def plus (a : Word) (n : Nat) : Word := a + BitVec.ofNat 64 n

section
variable {m : Type → Type} [Monad m] (rd : Word → Nat → m Nat)

/-- A mesh descriptor. -/
def readDesc (a : Word) : m MeshDesc := do return MeshDesc.ofNat a (← rd a 80)

/-- The address of brick `b` (R274). -/
def MeshDesc.brick (d : MeshDesc) (b : Nat) : Word := plus d.bricka (8192 * b)

/-- The cell of an identity; none for a hole (R271). -/
def readCell (d : MeshDesc) (id : Nat) : m (Option Cell) := do
  let n ← rd (plus (d.brick (id / 64)) 8) 2
  if n ≤ id % 64 then return none
  else return some (Cell.ofNat (← rd (plus (d.brick (id / 64)) (64 + 32 * (id % 64))) 32))

/-- The face records from index `lo` of a brick. -/
def readFaces (d : MeshDesc) (b : Nat) : Nat → Nat → m (List Face)
  | _, 0 => return []
  | lo, n + 1 => do
    let w ← rd (plus (d.brick b) (2112 + 4 * (lo % 768))) 4
    return Face.ofNat w :: (← readFaces d b (lo + 1) n)

/-- The neighbour that a face record of brick `b` names, if the record names one (R276). -/
def neighbour (d : MeshDesc) (b : Nat) (f : Face) : m (Option Nat) := do
  if f.bnd then return none
  else if f.esc then
    if f.nbr < 256 then return some ((← rd (plus (d.brick b) (5184 + 8 * f.nbr)) 8) % 2 ^ 48) else return none
  else
    let n : Int := (64 * b : Nat) + (if f.nbr < 2 ^ 15 then (f.nbr : Int) else (f.nbr : Int) - 65536)
    return (if n < 0 then none else some n.toNat)

end

end Sys2Proof.Machine
end

