-- ==== Sys2Proof/Machine/Commands.lean ====
section
/-! DEFINITION. The commands of the mesh, colouring and binning engines: command blocks, issue checks, queues, the reads and
writes of a run, statuses, and the instructions that wait (08 R280 to R283, R297). -/

namespace Sys2Proof.Machine

/-! ### Issue (R280, R281) -/

/-- The number of a die engine (13 R385), and its place among the banks of 15 R405. -/
def engineNum : EngineKind → Nat
  | .colouring => 1
  | .binning => 2
  | _ => 0

/-- The environment of a die's engine that serves a hart (13 R385). -/
def Hart.engineEnv (h : Hart) (e : EngineKind) : Env := { h.env with master := 1024 + h.die * 64 + engineNum e }

/-- A header whose DONE word is not 0, whose KIND is not the operation, or whose bytes 9 to 15 are not zero (R280). -/
def headerBad (op w : Nat) : Bool := bitsOf w 0 64 != 0 || bitsOf w 64 8 != op || bitsOf w 72 56 != 0

/-- A command block of some bytes, as a number (R281). -/
def Act.block (va : Word) (bytes : Nat) : Act Nat := do
  Act.require (va.toNat % 64 = 0) (.misalign va)
  Act.load va bytes

/-- A field of 64 bits at a byte offset. -/
def dword (w off : Nat) : Word := BitVec.ofNat 64 (bitsOf w (8 * off) 64)

/-- A mesh descriptor as it stands, and whether it is well formed; none at an address that is no multiple of 256 (R272, R281). -/
def Act.meshDesc (va : Word) : Act (Option (MeshDesc × Bool)) := do
  if va.toNat % 256 ≠ 0 then return none
  else
    let w ← Act.load va 256
    return some (MeshDesc.ofNat va w, (MeshDesc.ofNat va w).legal w)

/-- A descriptor that is well formed (R272). -/
def wellFormed (d : Option (MeshDesc × Bool)) : Option MeshDesc := (d.filter Prod.snd).map Prod.fst

/-- The denial of a descriptor that another die or device owns (R281). -/
def State.foreign (s : State) (va : Word) (die device : Nat) : List Cause :=
  if die = s.hart.die ∧ device = s.fab.device.toNat then [] else [.access va]

/-- The denial of a mesh descriptor, whether or not it is well formed: ACCESS ranks before MESH (R281; 01 R53). -/
def State.foreignMesh (s : State) (d : Option (MeshDesc × Bool)) : List Cause :=
  d.elim [] fun (d, _) => s.foreign d.addr d.die d.device

/-- A range of an engine command, pinned page by page; scratchpads outside S3 are denied, and a peer that cannot be reached
shows when the command runs (R281, R282). -/
def State.pinEngine (s : State) (e : Env) (acc : Acc) (lo len : Nat) : List Part × List Cause :=
  if e.crosses lo len then ([], [.windowCross (BitVec.ofNat 64 lo)])
  else
    pinPages (fun va n =>
      let w := BitVec.ofNat 64 va
      match s.pinPage e acc (BitVec.ofNat 64 lo) va n with
      | .ok p =>
        match p.place with
        | .scratch lv _ _ => if lv = .s3 then .ok p else .error (.access w)
        | _ => .ok p
      | .error (.remote d st) =>
        match s.resolve e acc w with
        | .ok pl => .ok ⟨w, n, pl⟩
        | .error _ => .error (.remote d st)
      | .error c => .error c) (e.pages len lo len)

/-- A range: its address and length. -/
abbrev Range := Word × Nat

/-- What an instruction hands to its engine: the engine, the operation, the block, whether a field is illegal, the conditions
found so far, the ranges that it reads and the ranges that it writes, each of them a destination (R283), and what the command
keeps beside its block. -/
structure Issue where
  kind : EngineKind
  op : Nat
  va : Word
  block : List Byte
  bad : Bool
  causes : List Cause
  reads : List Range
  writes : List (List Range)
  fin : List Range
  extra : List Nat
  deriving DecidableEq, Repr

/-- The ranges of an issue pinned: what it reads, what it writes by destination, and its DONE word. -/
def State.pinIssue (s : State) (i : Issue) : List (List Part × List Cause) × List (List (List Part × List Cause)) × List (List Part × List Cause) :=
  let e := s.hart.engineEnv i.kind
  let pin := fun (acc : Acc) (rs : List Range) => rs.map fun (a, n) => s.pinEngine e acc a.toNat n
  (pin .load i.reads, i.writes.map (pin .store), pin .store i.fin)

/-- The conditions that an issue shows by itself. -/
def State.issueCauses (s : State) (i : Issue) : List Cause :=
  let (src, dst, fin) := s.pinIssue i
  i.causes ++ (src ++ dst.flatten ++ fin).flatMap Prod.snd

/-- A read by the instruction for a command of which `i` is already known: its fault comes after the conditions of `i` that rank
before it (R281; 01 R53). -/
def Act.forIssue {α : Type} (i : Issue) (a : Act α) : Act α := Act.unless (do Act.noneOf ((← get).issueCauses i)) a

/-- The issue of a command: the checks of R281, the gates of the tiles it reads (03 R116), and the queue of 64 (R280). -/
def Act.issue (i : Issue) : Act Unit := do
  let s ← get
  let h := s.hart
  let e := h.engineEnv i.kind
  let (src, dst, fin) := s.pinIssue i
  match firstCause (s.issueCauses i) with
  | some c => Act.trap c
  | none =>
    if i.bad then Act.trap (.mesh i.va)
    else
      let parts := src.flatMap Prod.fst
      let gates := (s.sourceTiles e.ctx parts).map fun t => s.tileGate t h.num false
      match firstGate gates with
      | .trap c t => do set t; Act.trap c
      | .wait on => throw (.wait on)
      | .go =>
        if 64 ≤ (s.queueOf i.kind h.die).length then throw (.wait [])
        else
          set (s.enqueue {
            id := s.stamp, kind := i.kind, unit := h.die, op := i.op, blockVa := i.va, block := i.block, done := none
            env := e, hart := h.num, launch := h.block.map fun b => (b.slot, b.node, b.gen), stamp := none
            src := parts, dst := dst.map fun d => d.flatMap Prod.fst, fin := fin.flatMap Prod.fst, claimed := false
            tiles := [], status := none, extra := i.extra })

/-! ### The run of a command -/

/-- A command's block as a number. -/
def Command.word (k : Command) : Nat := leNat k.block

/-- The address that a fault of an access names. -/
def Cause.va : Cause → Word
  | .misalign va => va
  | .page _ va => va
  | .access va => va
  | .windowCross va => va
  | .discardedWrite va => va
  | _ => 0

/-- An engine command ends with a status (R282). -/
def Eng.fail {α : Type} (code detail : Nat) : Eng α := throw (.status code detail)

/-- A check of a run that ends the command. -/
def Eng.require (p : Bool) (code detail : Nat) : Eng Unit := if p then pure () else Eng.fail code detail

/-- The parts of an access of a running command: pinned at issue, or translated now, where a fault gives status 10; a peer that
denies gives status 7, a discarded page that was not pinned gives status 10 (R281, R282), and a claim of a command of lower
stamp makes the engine wait (03 R134). -/
def Eng.parts (k : Command) (va : Word) (len : Nat) : Eng (List Part) := do
  let s ← get
  let known := pinned (k.src ++ k.dst.flatten) len va.toNat len
  let held := (known.map Part.len).sum == len
  let (ps, cs) := if held then (known, []) else s.pinEngine k.env .load va.toNat len
  let gone := if held then none else ps.find? fun p => match p.place with | .zeros => true | _ => false
  match cs, gone with
  | c :: _, _ => Eng.fail 10 (c.va.toNat % 2 ^ 48)
  | [], some p => Eng.fail 10 (p.va.toNat % 2 ^ 48)
  | [], none =>
    match ps.findSome? fun p => match p.place with | .peer d _ => if s.peerStatus k.env.ctx d = 0 then none else some d | _ => none with
    | some d => Eng.fail 7 d
    | none => if s.retained ps ∨ (!held ∧ s.claimsBlock { k with src := ps, dst := [] }) then throw .hold else return ps

/-- Bytes that a command reads, as a number; poison gives status 8 (R282). -/
def Eng.read (k : Command) (va : Word) (len : Nat) : Eng Nat := do
  let ps ← Eng.parts k va len
  let (s, bytes, bad) := (← get).readParts ps
  set s
  if bad.isSome then Eng.fail 8 0 else return leNat bytes

/-- Bytes that a command writes, in a range that it declared. -/
def Eng.write (k : Command) (va : Word) (bytes : List Byte) : Eng Unit := do
  let ps ← Eng.parts k va bytes.length
  modify fun s => s.writeParts k.env ps bytes

/-- A write of an engine: its address, its bytes, and whether a unit at which pre-emption may stop the command ends with it (R283). -/
abbrev EngWrite := Nat × List Byte × Bool

/-- A write inside a unit. -/
def put (va : Word) (bytes : List Byte) : EngWrite := (va.toNat, bytes, false)

/-- Writes that make up one unit: the command may stop after the last of them. -/
def unitOf (ws : List EngWrite) : List EngWrite := ws.zipIdx.map fun (x, i) => (x.1, x.2.1, i + 1 == ws.length)

/-- What a command of the topology engine or the colouring unit writes, in its order, once it has read its inputs, and the status and
detail that it ends with (R282, R284). -/
structure EngPlan where
  writes : List EngWrite
  status : Nat := 0
  detail : Nat := 0
  deriving DecidableEq, Repr

/-- Writes in their order. Blocks that they cover whole lose their poison (15 R413). -/
def Eng.writeAll (k : Command) (ws : List EngWrite) : Eng Unit := do
  let ps ← ws.mapM fun x => Eng.parts k (BitVec.ofNat 64 x.1) x.2.1.length
  modify fun s => s.renew (coverOf ps.flatten)
  ws.forM fun x => Eng.write k (BitVec.ofNat 64 x.1) x.2.1

/-- The run of a command from its plan: all of its writes, or, where it had stopped, those that are left (03 R138). -/
def Eng.run (k : Command) (plan : Eng EngPlan) : Eng Unit := do
  let p ← if k.rest.isEmpty then plan else pure ⟨k.rest.drop k.at_, k.ends.1, k.ends.2⟩
  Eng.writeAll k p.writes
  if p.status = 0 then pure () else Eng.fail p.status p.detail

/-- The outcome of a run: its status and detail, and the state with its writes; none where it must wait. Poison is recorded in
the engine's bank (15 R405, R413); a range in fenced memory ends a command with status 8 (15 R425). -/
def State.outcome (s : State) (k : Command) (body : Eng Unit) : Option (State × Nat × Nat) :=
  match (if s.fencedParts (k.src ++ k.dst.flatten) then (.error (.status 8 0), s) else body s) with
  | (.ok _, t) => some (t, 0, 0)
  | (.error .hold, _) => none
  | (.error (.status c d), t) =>
    let t := if c = 8 then
        (t.report (660 + 12 * engineNum k.kind + k.unit) { code := 0x51, adrk := 1, addr := k.blockVa, master := k.env.master, ctx := k.env.ctx }).1
      else t
    some (t, c, d)

/-- A command that runs ends as its run does. A run that must wait changes nothing. -/
def State.runCommand (s : State) (k : Command) (body : Eng Unit) : State :=
  match s.outcome k body with
  | some (t, c, d) => t.complete k c d
  | none => s

/-- The step of an engine of a die: the first command of its queue writes its DONE word, or runs if it may (R280). -/
def State.engineStep (s : State) (e : EngineKind) (die : Nat) (body : Command → Eng Unit) : State :=
  match s.queueOf e die with
  | [] => s
  | k :: _ =>
    match k.status with
    | some (c, d) => s.complete k c d
    | none => if s.mayRun k then s.runCommand k (body k) else s

/-! ### Waiting for a command (R297) -/

/-- The effect of MSHWAIT and BINWAIT (R297). -/
def effDoneWait (a : SReg) (s : State) : Eff :=
  let va := s.hart.readS a
  if va.toNat % 8 ≠ 0 then .trap (.misalign va) s
  else
    match s.loadN va 8 with
    | .trap c t => .trap c t
    | .wait on => .wait (s.awaits on)
    | .ok v t => if v % 256 ≠ 1 then .wait t else if v / 256 % 256 ≠ 0 then .trap (.mesh va) t else .done t

/-- MSHWAIT: waits for a topology engine's command (R297). -/
def execMshwait (a : SReg) (s : State) : Host.Outcome State Fault Refusal := runQueued (wordOf (.mshwait a)) (effDoneWait a) s

/-- BINWAIT: waits for a colouring or binning command (R297). -/
def execBinwait (a : SReg) (s : State) : Host.Outcome State Fault Refusal := runQueued (wordOf (.binwait a)) (effDoneWait a) s

end Sys2Proof.Machine
end

