-- ==== Sys2Proof/Machine/Float.lean ====
section
/-! DEFINITION. Floating-point values, exact results and their one rounding (02 R66 to R78, R91, R94, R96; 06 R220, R221).
A finite value is a sign, a magnitude and a power of two. A result that is not dyadic is held with one more bit that says
that the exact value lies above the magnitude, fine enough that the rounding sees it. -/

namespace Sys2Proof.Machine

/-- The rounding modes (R74). -/
inductive RM where
  | rne | rtz | rdn | rup | rmm
  deriving DecidableEq, Repr

/-- The floating formats (R66). -/
inductive FFmt where
  | fp64 | fp32 | fp16 | bf16 | e5m2 | e4m3 | e2m1
  deriving DecidableEq, Repr

/-- The width of a format. -/
def FFmt.bits : FFmt → Nat
  | .fp64 => 64
  | .fp32 => 32
  | .fp16 => 16
  | .bf16 => 16
  | .e5m2 => 8
  | .e4m3 => 8
  | .e2m1 => 4

/-- Fraction bits. -/
def FFmt.frac : FFmt → Nat
  | .fp64 => 52
  | .fp32 => 23
  | .fp16 => 10
  | .bf16 => 7
  | .e5m2 => 2
  | .e4m3 => 3
  | .e2m1 => 1

/-- The exponent bias. -/
def FFmt.bias : FFmt → Nat
  | .fp64 => 1023
  | .fp32 => 127
  | .fp16 => 15
  | .bf16 => 127
  | .e5m2 => 15
  | .e4m3 => 7
  | .e2m1 => 1

/-- The encoding, without sign, of the largest finite value. -/
def FFmt.largest : FFmt → Nat
  | .fp64 => 0x7FEFFFFFFFFFFFFF
  | .fp32 => 0x7F7FFFFF
  | .fp16 => 0x7BFF
  | .bf16 => 0x7F7F
  | .e5m2 => 0x7B
  | .e4m3 => 0x7E
  | .e2m1 => 0x7

/-- The canonical NaN; E2M1 has none and takes +0 (R66, R68). -/
def FFmt.nan : FFmt → Nat
  | .fp64 => 0x7FF8000000000000
  | .fp32 => 0x7FC00000
  | .fp16 => 0x7E00
  | .bf16 => 0x7FC0
  | .e5m2 => 0x7E
  | .e4m3 => 0x7F
  | .e2m1 => 0

/-- The format has infinities. -/
def FFmt.hasInf : FFmt → Bool
  | .e4m3 => false
  | .e2m1 => false
  | _ => true

/-- FTZ16 acts on formats of 16 bits or fewer (R77). -/
def FFmt.small (f : FFmt) : Bool := f.bits ≤ 16

/-- The exponent of the last place of the smallest values. -/
def FFmt.qmin (f : FFmt) : Int := 1 - (f.bias : Int) - (f.frac : Int)

/-- The sign bit of an encoding. -/
def FFmt.signBit (f : FFmt) (neg : Bool) : Nat := if neg then 2 ^ (f.bits - 1) else 0

/-- A value: NaN, quiet or signalling; an infinity; (−1)^neg × m × 2^e, where m = 0 is a zero of that sign. -/
inductive FVal where
  | nan (signalling : Bool)
  | inf (neg : Bool)
  | fin (neg : Bool) (m : Nat) (e : Int)
  deriving DecidableEq, Repr

/-- The value of an encoding (R66, R67); with `ftz` a subnormal of 16 bits or fewer reads as zero (R77). -/
def FFmt.unpack (f : FFmt) (ftz : Bool) (w : Nat) : FVal :=
  let w := w % 2 ^ f.bits
  let neg := w ≥ 2 ^ (f.bits - 1)
  let a := w % 2 ^ (f.bits - 1)
  if a > f.largest then
    if f.hasInf ∧ a = f.largest + 1 then .inf neg
    else .nan (f.hasInf && a % 2 ^ f.frac < 2 ^ (f.frac - 1))
  else
    let e := a / 2 ^ f.frac
    let fr := a % 2 ^ f.frac
    if e = 0 then (if ftz && f.small then .fin neg 0 0 else .fin neg fr f.qmin)
    else .fin neg (fr + 2 ^ f.frac) (f.qmin + (e - 1 : Nat))

/-- What an operation's rounding takes from MODE: RM, FTZ16, and whether the saturating column of R76 applies. -/
structure FEnv where
  rm : RM
  ftz : Bool
  sat : Bool
  deriving DecidableEq, Repr

/-- The number of bits of a magnitude. -/
def bitLen (m : Nat) : Nat := if m = 0 then 0 else m.log2 + 1

/-- A magnitude times 2^k, k a natural number. -/
def shiftUp (m k : Nat) : Nat := m * 2 ^ k

/-- m / 2^k rounded to an integer by a mode (R74), and whether that was inexact. -/
def roundShift (rm : RM) (neg : Bool) (m k : Nat) : Nat × Bool :=
  let n := m / 2 ^ k
  let r := m % 2 ^ k
  let up :=
    match rm with
    | .rne => decide (2 * r > 2 ^ k ∨ (2 * r = 2 ^ k ∧ n % 2 = 1))
    | .rtz => false
    | .rdn => neg && r != 0
    | .rup => !neg && r != 0
    | .rmm => decide (r ≠ 0 ∧ 2 * r ≥ 2 ^ k)
  (if up then n + 1 else n, r != 0)

/-- m × 2^e rounded to a multiple of 2^q, as a multiple, and whether that was inexact. -/
def roundAt (rm : RM) (neg : Bool) (m : Nat) (e q : Int) : Nat × Bool :=
  if q ≤ e then (shiftUp m (e - q).toNat, false) else roundShift rm neg m (q - e).toNat

/-- The delivery of an overflow of a sign (R76). -/
def FFmt.overflow (f : FFmt) (c : FEnv) (neg : Bool) : Nat × Flags :=
  let big := f.signBit neg + f.largest
  let past := if f.hasInf then f.signBit neg + f.largest + 1 else f.nan
  let ofl : Flags := { of := true, nx := true }
  if f = .e2m1 then (big, { ofl with sat := true })
  else if c.sat then (big, { ofl with sat := true })
  else
    match c.rm with
    | .rne => (past, ofl)
    | .rmm => (past, ofl)
    | .rtz => (big, ofl)
    | .rdn => (if neg then past else big, ofl)
    | .rup => (if neg then big else past, ofl)

/-- The encoding of a non-zero m × 2^e that has been rounded to n × 2^q (R76, R77); `nx` says that the rounding was inexact
and `tiny` that the value is tiny. -/
def FFmt.pack (f : FFmt) (c : FEnv) (neg : Bool) (n : Nat) (q : Int) (nx tiny : Bool) : Nat × Flags :=
  let a := (q - f.qmin).toNat * 2 ^ f.frac + n
  if a > f.largest then f.overflow c neg
  else if tiny && c.ftz && f.small then (f.signBit neg, { uf := true, nx := true })
  else (f.signBit neg + a, { nx := nx, uf := nx && tiny })

/-- The exponent of the last place that rounding keeps. -/
def FFmt.lastPlace (f : FFmt) (m : Nat) (e : Int) : Int :=
  let q0 := e + (bitLen m : Int) - (f.frac + 1 : Nat)
  if q0 < f.qmin then f.qmin else q0

/-- The value, rounded with an unbounded exponent, is below the smallest normal (R77). -/
def FFmt.isTiny (f : FFmt) (rm : RM) (neg : Bool) (m : Nat) (e : Int) : Bool :=
  let q0 := e + (bitLen m : Int) - (f.frac + 1 : Nat)
  if q0 < f.qmin then
    !(decide (q0 + 1 = f.qmin) && decide ((roundAt rm neg m e q0).1 = 2 ^ (f.frac + 1)))
  else false

/-- RoundTo of a finite value (R74, R96). -/
def FFmt.roundFin (f : FFmt) (c : FEnv) (neg : Bool) (m : Nat) (e : Int) : Nat × Flags :=
  if m = 0 then (f.signBit neg, {})
  else
    let q := f.lastPlace m e
    let (n, nx) := roundAt c.rm neg m e q
    f.pack c neg n q nx (f.isTiny c.rm neg m e)

/-- RoundTo (R96): NaN is canonical, +0 with NV in E2M1 (R68); an infinity without an encoding overflows, in the column of the rounding
mode, because the saturating column is that of finite results (R76). -/
def FFmt.round (f : FFmt) (c : FEnv) : FVal → Nat × Flags
  | .nan _ => (f.nan, { nv := f = .e2m1 })
  | .inf neg => if f.hasInf then (f.signBit neg + f.largest + 1, {}) else f.overflow { c with sat := false } neg
  | .fin neg m e => f.roundFin c neg m e

/-- The value is a NaN. -/
def FVal.isNan : FVal → Bool
  | .nan _ => true
  | _ => false

/-- The value is a signalling NaN. -/
def FVal.isSig : FVal → Bool
  | .nan b => b
  | _ => false

/-- A zero. -/
def FVal.isZero : FVal → Bool
  | .fin _ m _ => m = 0
  | _ => false

/-- The sign of a value; a NaN has none. -/
def FVal.neg : FVal → Bool
  | .nan _ => false
  | .inf s => s
  | .fin s _ _ => s

/-- The value with its sign changed. -/
def FVal.negate : FVal → FVal
  | .nan b => .nan b
  | .inf s => .inf !s
  | .fin s m e => .fin (!s) m e

/-- The invalid operation: NaN with NV (R68). -/
def FVal.invalid : FVal × Flags := (.nan false, { nv := true })

/-- A product before rounding (R67, R68). -/
def FVal.mul : FVal → FVal → FVal × Flags
  | .nan a, b => (.nan false, { nv := a || b.isSig })
  | a, .nan b => (.nan false, { nv := a.isSig || b })
  | .inf s, .inf t => (.inf (s != t), {})
  | .inf s, .fin t m _ => if m = 0 then FVal.invalid else (.inf (s != t), {})
  | .fin s m _, .inf t => if m = 0 then FVal.invalid else (.inf (s != t), {})
  | .fin s m e, .fin t n f => (.fin (s != t) (m * n) (e + f), {})

/-- A signed magnitude as an integer. -/
def signed (neg : Bool) (m : Nat) : Int := if neg then -(m : Int) else m

/-- The sum of two finite values as integer × 2^e. -/
def sumDyadic (a : Int) (e : Int) (b : Int) (f : Int) : Int × Int :=
  if e ≤ f then (a + b * 2 ^ (f - e).toNat, e) else (a * 2 ^ (e - f).toNat + b, f)

/-- A sum before rounding; an exact zero sum of opposite signs is −0 under RDN only (R68, R69). -/
def FVal.add (rm : RM) : FVal → FVal → FVal × Flags
  | .nan a, b => (.nan false, { nv := a || b.isSig })
  | a, .nan b => (.nan false, { nv := a.isSig || b })
  | .inf s, .inf t => if s = t then (.inf s, {}) else FVal.invalid
  | .inf s, .fin .. => (.inf s, {})
  | .fin .., .inf t => (.inf t, {})
  | .fin s m e, .fin t n f =>
    if m = 0 then
      if n = 0 then (.fin (if s = t then s else rm = .rdn) 0 0, {}) else (.fin t n f, {})
    else if n = 0 then (.fin s m e, {})
    else
      let (v, g) := sumDyadic (signed s m) e (signed t n) f
      if v = 0 then (.fin (rm = .rdn) 0 0, {}) else (.fin (v < 0) v.natAbs g, {})

/-- A fused product and sum before rounding; 0 × ∞ raises NV whatever the addend is (06 R218). -/
def FVal.fma (rm : RM) (a b c : FVal) : FVal × Flags :=
  let (p, f) := FVal.mul a b
  let (r, g) := FVal.add rm p c
  (r, f.or g)

/-- A magnitude with one more bit, which says whether the exact value lies above it. -/
def jam (m : Nat) (above : Bool) : Nat := 2 * m + (if above then 1 else 0)

/-- A quotient before rounding (R68). It keeps at least 86 bits below the last place of any format, so that a comparison with the bound
of an approximation, which 1/a misses by more than 2^-61 ulp, is that of the exact quotient (06 R220). -/
def FVal.div : FVal → FVal → FVal × Flags
  | .nan a, b => (.nan false, { nv := a || b.isSig })
  | a, .nan b => (.nan false, { nv := a.isSig || b })
  | .inf _, .inf _ => FVal.invalid
  | .inf s, .fin t _ _ => (.inf (s != t), {})
  | .fin s _ _, .inf t => (.fin (s != t) 0 0, {})
  | .fin s m e, .fin t n f =>
    if n = 0 then (if m = 0 then FVal.invalid else (.inf (s != t), { dz := true }))
    else if m = 0 then (.fin (s != t) 0 0, {})
    else
      let k := 140 + bitLen n
      let a := m * 2 ^ k
      (.fin (s != t) (jam (a / n) (a % n != 0)) (e - f - k - 1), {})

/-- Bits of the integer square root of n, from bit k − 1 down, above r. -/
def sqrtBits (n : Nat) : Nat → Nat → Nat
  | 0, r => r
  | k + 1, r => sqrtBits n k (if (r + 2 ^ k) * (r + 2 ^ k) ≤ n then r + 2 ^ k else r)

/-- ⌊√n⌋. -/
def isqrt (n : Nat) : Nat := sqrtBits n (bitLen n / 2 + 1) 0

/-- A square root before rounding (R68, R69). -/
def FVal.sqrt : FVal → FVal × Flags
  | .nan a => (.nan false, { nv := a })
  | .inf s => if s then FVal.invalid else (.inf false, {})
  | .fin s m e =>
    if m = 0 then (.fin s 0 0, {})
    else if s then FVal.invalid
    else
      let (m, e) := if e % 2 = 0 then (m, e) else (2 * m, e - 1)
      let a := m * 2 ^ 140
      let r := isqrt a
      (.fin false (jam r (r * r != a)) (e / 2 - 71), {})

/-- Comparison of two values that are not NaN: −1, 0 or 1 as the first is below, equal to or above the second. -/
def FVal.cmp : FVal → FVal → Int
  | .inf s, .inf t => if s = t then 0 else if s then -1 else 1
  | .inf s, _ => if s then -1 else 1
  | _, .inf t => if t then 1 else -1
  | .fin s m e, .fin t n f => ((sumDyadic (signed s m) e (-(signed t n)) f).1).sign
  | _, _ => 0

/-- The first of two values is the smaller in the order of R75, where −0 is below +0. -/
def FVal.below (a b : FVal) : Bool :=
  let c := a.cmp b
  c < 0 || (c = 0 && a.neg && !b.neg)

/-- Minimum or maximum (R75). -/
def FVal.minmax (max : Bool) (a b : FVal) : FVal × Flags :=
  let f : Flags := { nv := a.isSig || b.isSig }
  if a.isNan then (b, f)
  else if b.isNan then (a, f)
  else (if (if max then a.below b else b.below a) then b else a, f)

/-- The encoding of a value that a format holds exactly. -/
def FFmt.exact (f : FFmt) (v : FVal) : Nat := (f.round ⟨.rne, false, false⟩ v).1

/-- Minimum or maximum of two encodings (R75). -/
def FFmt.minmax (f : FFmt) (ftz max : Bool) (a b : Nat) : Nat × Flags :=
  let (v, g) := FVal.minmax max (f.unpack ftz a) (f.unpack ftz b)
  (f.exact v, g)

/-- A conversion to an integer of a width (R78). -/
def FVal.toInt (rm : RM) (isSigned : Bool) (w : Nat) (v : FVal) : Int × Flags :=
  let lo : Int := if isSigned then -(2 ^ (w - 1) : Nat) else 0
  let hi : Int := if isSigned then (2 ^ (w - 1) : Nat) - 1 else (2 ^ w : Nat) - 1
  match v with
  | .nan _ => (0, { nv := true })
  | .inf s => (if s then lo else hi, { nv := true })
  | .fin s m e =>
    if bitLen m + e > 80 then (if s then lo else hi, { nv := true })
    else
      let (n, nx) := roundAt rm s m e 0
      let r := signed s n
      if r < lo then (lo, { nv := true }) else if r > hi then (hi, { nv := true }) else (r, { nx := nx })

/-- An integer as a value. -/
def FVal.ofInt (v : Int) : FVal := .fin (v < 0) v.natAbs 0

/-- The class of an encoding: the number of the bit of R179. A subnormal is read as R77 says. -/
def FFmt.cls (f : FFmt) (ftz : Bool) (w : Nat) : Nat :=
  match f.unpack ftz w with
  | .inf s => if s then 0 else 7
  | .nan b => if b then 8 else 9
  | .fin s m _ =>
    if m = 0 then (if s then 3 else 4)
    else if w % 2 ^ (f.bits - 1) < 2 ^ f.frac then (if s then 2 else 5)
    else if s then 1 else 6

/-! ### Approximations (06 R220, R221; log 7) -/

/-- The four approximations. -/
inductive Approx where
  | rcp | rsq | exp2 | log2
  deriving DecidableEq, Repr

/-- The number of an approximation. -/
def Approx.num : Approx → Nat
  | .rcp => 0
  | .rsq => 1
  | .exp2 => 2
  | .log2 => 3

/-- The error bound in hundredths of an ulp (R220). -/
def Approx.bound (a : Approx) (f : FFmt) : Nat :=
  match f, a with
  | .fp64, .rcp => 51
  | .fp64, .rsq => 51
  | .fp64, _ => 75
  | .fp32, .rcp => 51
  | .fp32, .rsq => 51
  | .fp32, _ => 60
  | _, _ => 50

/-- Fractional bits of the base-2 logarithm of x / 2^383, a value in [1, 2): `n` bits by repeated squaring, above `acc`. -/
def log2Bits : Nat → Nat → Nat → Nat
  | 0, _, acc => acc
  | n + 1, x, acc =>
    let y := x * x / 2 ^ 383
    if y ≥ 2 ^ 384 then log2Bits n (y / 2) (2 * acc + 1) else log2Bits n y (2 * acc)

/-- 2^(t / 2^k) × 2^256 for the `fuel` highest bits of t < 2^k: `r` is 2^(2^-i) × 2^256 for the bit looked at. -/
def exp2Bits : Nat → Nat → Nat → Nat → Nat → Nat
  | 0, _, _, _, acc => acc
  | fuel + 1, t, k, r, acc =>
    if t = 0 then acc
    else
      let r := isqrt (r * 2 ^ 256)
      let half := 2 ^ (k - 1)
      if t ≥ half then exp2Bits fuel (t - half) (k - 1) r (acc * r / 2 ^ 256) else exp2Bits fuel t (k - 1) r acc

/-- 2^x for a finite x before rounding. Beyond ±2^20 every format overflows or underflows. -/
def exp2Val (neg : Bool) (m : Nat) (e : Int) : FVal :=
  if m = 0 then .fin false 1 0
  else if bitLen m + e > 20 then .fin false 1 (if neg then -(2 ^ 20 : Int) else 2 ^ 20)
  else
    let k := (-e).toNat
    let v := signed neg (shiftUp m e.toNat)
    let n := v / (2 ^ k : Nat)
    let t := (v % (2 ^ k : Nat)).toNat
    if t = 0 then .fin false 1 n else .fin false (jam (exp2Bits 128 t k (2 ^ 257) (2 ^ 256)) true) (n - 257)

/-- log2 x for a finite positive x before rounding. -/
def log2Val (m : Nat) (e : Int) : FVal :=
  let l := bitLen m
  let i : Int := e + (l : Int) - 1
  if m = 2 ^ (l - 1) then .fin (i < 0) i.natAbs 0
  else
    let fr := log2Bits 160 (m * 2 ^ (384 - l)) 0
    if i < 0 then .fin true (jam (i.natAbs * 2 ^ 160 - fr - 1) true) (-161)
    else .fin false (jam (i.natAbs * 2 ^ 160 + fr) true) (-161)

/-- The exact result of an approximation before rounding (R221). -/
def Approx.exact (a : Approx) (v : FVal) : FVal × Flags :=
  match a, v with
  | _, .nan b => (.nan false, { nv := b })
  | .rcp, v => FVal.div (.fin false 1 0) v
  | .rsq, .inf s => if s then FVal.invalid else (.fin false 0 0, {})
  | .rsq, .fin s m e =>
    if m = 0 then (.inf s, { dz := true })
    else if s then FVal.invalid
    else
      let (m, e) := if e % 2 = 0 then (m, e) else (2 * m, e - 1)
      let k := 220 + bitLen m
      let q := 2 ^ (2 * k) / m
      let r := isqrt q
      (.fin false (jam r (r * r * m != 2 ^ (2 * k))) (-(e / 2) - k - 1), {})
  | .exp2, .inf s => (if s then .fin false 0 0 else .inf false, {})
  | .exp2, .fin s m e => (exp2Val s m e, {})
  | .log2, .inf s => if s then FVal.invalid else (.inf false, {})
  | .log2, .fin s m e =>
    if m = 0 then (.inf true, { dz := true }) else if s then FVal.invalid else (log2Val m e, {})

/-- m / 2^k to an integer within the bound: the nearer neighbour where only it lies within, else the one chosen. -/
def chooseShift (bound : Nat) (upper : Bool) (m k : Nat) : Nat × Bool :=
  let n := m / 2 ^ k
  let r := m % 2 ^ k
  let up := if r * 100 > bound * 2 ^ k then true else if r * 100 < (100 - bound) * 2 ^ k then false else upper
  if r = 0 then (n, false) else (if up then n + 1 else n, true)

/-- The result of an approximation (R220): correctly rounded by RNE in formats of 16 bits or fewer; in FP32 and FP64 a
neighbour of the exact value within the bound, a fixed function of the operand. -/
def Approx.apply (a : Approx) (f : FFmt) (ftz : Bool) (w : Nat) : Nat × Flags :=
  let c : FEnv := ⟨.rne, ftz, false⟩
  let (v, g) := a.exact (f.unpack ftz w)
  let (r, h) :=
    match v with
    | .fin neg m e =>
      if f.small ∨ m = 0 then f.round c v
      else
        let q := f.lastPlace m e
        let (n, nx) :=
          if q ≤ e then (shiftUp m (e - q).toNat, false)
          else chooseShift (a.bound f) (Config.approxUpper a.num f.bits w) m (q - e).toNat
        f.pack c neg n q nx (f.isTiny .rne neg m e)
    | v => f.round c v
  (r, g.or h)

/-! ### Sums in an order (R91) -/

/-- The pairwise tree sum of 2^k or fewer encodings, at depth k: the left half has 2^(k−1) elements. -/
def treeSum (f : FFmt) (c : FEnv) : Nat → List Nat → Nat × Flags
  | _, [] => (0, {})
  | _, [x] => (x, {})
  | 0, x :: _ => (x, {})
  | k + 1, xs =>
    if xs.length ≤ 2 ^ k then treeSum f c k xs
    else
      let (l, a) := treeSum f c k (xs.take (2 ^ k))
      let (r, b) := treeSum f c k (xs.drop (2 ^ k))
      let (v, d) := FVal.add c.rm (f.unpack c.ftz l) (f.unpack c.ftz r)
      let (w, e) := f.round c v
      (w, a.or (b.or (d.or e)))

/-- One rounded addition of encodings. -/
def FFmt.add (f : FFmt) (c : FEnv) (a b : Nat) : Nat × Flags :=
  let (v, d) := FVal.add c.rm (f.unpack c.ftz a) (f.unpack c.ftz b)
  let (w, e) := f.round c v
  (w, d.or e)

/-- Additions one after another. -/
def seqSum (f : FFmt) (c : FEnv) : Nat → List Nat → Nat × Flags
  | s, [] => (s, {})
  | s, x :: xs =>
    let (t, a) := f.add c s x
    let (r, b) := seqSum f c t xs
    (r, a.or b)

/-- A floating sum reduction (R91). -/
def FFmt.reduceSum (f : FFmt) (c : FEnv) (ordered : Bool) (s : Nat) (xs : List Nat) : Nat × Flags :=
  if ordered then seqSum f c s xs
  else
    match xs with
    | [] => (s, {})
    | _ =>
      let (t, a) := treeSum f c 15 xs
      let (r, b) := f.add c s t
      (r, a.or b)

end Sys2Proof.Machine
end

