-- ==== Sys2Proof/Machine/Operands.lean ====
section
/-! DEFINITION. The operands of vector instructions: widths, register groups, element positions, format tags, shapes, the
guard predicate, and the streams that v28 to v31 are bound to (01 R25, R26, R40 to R43, R59; 02 R61, R97; 04 R153, R160,
R161; 06 R205 to R210; 07 R247 to R250; 08 R287). -/

namespace Sys2Proof.Machine

/-! ### VCFG and MODE -/

/-- The width of an EW code (01 R32). -/
def ewBits (c : Nat) : Nat := if c = 0 then 8 else if c = 1 then 16 else if c = 2 then 32 else if c = 3 then 64 else 4

/-- VCFG.ILL. -/
def Hart.ill (h : Hart) : Bool := h.vcfg.getLsbD 63

/-- EW1 in bits. -/
def Hart.ew1 (h : Hart) : Nat := ewBits (h.vcfg.toNat % 8)

/-- EW2 in bits. -/
def Hart.ew2 (h : Hart) : Nat := ewBits (h.vcfg.toNat / 8 % 8)

/-- The grouping G in eighths. -/
def Hart.g8 (h : Hart) : Nat := 2 ^ (h.vcfg.toNat / 64 % 8)

/-- MODE.GP. -/
def Hart.gp (h : Hart) : PReg := h.mode.extractLsb' 0 3

/-- The rounding mode, if MODE.RM holds an assigned code (01 R34, R35). -/
def Hart.rm? (h : Hart) : Option RM :=
  match h.mode.toNat / 8 % 8 with
  | 0 => some .rne
  | 1 => some .rtz
  | 2 => some .rdn
  | 3 => some .rup
  | 4 => some .rmm
  | _ => none

/-- The rounding mode of an instruction that has passed the check of 01 R35. -/
def Hart.rm (h : Hart) : RM := h.rm?.getD .rne

/-- MODE.SAT. -/
def Hart.sat (h : Hart) : Bool := h.mode.getLsbD 6

/-- MODE.F8SEL. -/
def Hart.f8 (h : Hart) : Bool := h.mode.getLsbD 7

/-- MODE.F16SEL. -/
def Hart.f16 (h : Hart) : Bool := h.mode.getLsbD 8

/-- MODE.TAILPOL. -/
def Hart.tailZero (h : Hart) : Bool := h.mode.getLsbD 9

/-- MODE.MASKPOL. -/
def Hart.maskZero (h : Hart) : Bool := h.mode.getLsbD 10

/-- MODE.FTZ16. -/
def Hart.ftz (h : Hart) : Bool := h.mode.getLsbD 11

/-- MODE.PROT. -/
def Hart.prot (h : Hart) : Bool := h.mode.getLsbD 12

/-- MODE.ORD: sequential. -/
def Hart.ordered (h : Hart) : Bool := h.mode.getLsbD 13

/-- What a rounding takes from MODE; `sat` says whether the saturating column applies. -/
def Hart.fenv (h : Hart) (sat : Bool) : FEnv := ⟨h.rm, h.ftz, sat⟩

/-- The floating format of a width (01 R41). -/
def Hart.fmt (h : Hart) (w : Nat) : FFmt :=
  if w = 64 then .fp64 else if w = 32 then .fp32
  else if w = 16 then (if h.f16 then .bf16 else .fp16)
  else if w = 8 then (if h.f8 then .e5m2 else .e4m3)
  else .e2m1

/-- The tag code of a floating format (01 R40). -/
def FFmt.code : FFmt → Nat
  | .fp64 => 8
  | .fp32 => 9
  | .fp16 => 10
  | .bf16 => 11
  | .e4m3 => 12
  | .e5m2 => 13
  | .e2m1 => 14

/-- The floating tag of a width (01 R41). -/
def Hart.fpTag (h : Hart) (w : Nat) : BitVec 6 := BitVec.ofNat 6 (h.fmt w).code

/-- The integer tag of a width (01 R41). -/
def intTag (w : Nat) : BitVec 6 := if w = 8 then 1 else if w = 16 then 2 else if w = 32 then 3 else if w = 64 then 4 else 5

/-- Tag E8M0. -/
def tagE8M0 : BitVec 6 := 16

/-- Tag PRED. -/
def tagPred : BitVec 6 := 17

/-- The bits of a tag's format, without GB. -/
def fmtOnly (t : BitVec 6) : BitVec 6 := t &&& 0x1F

/-- Bit i of the guard predicate. -/
def Hart.guard (h : Hart) (i : Nat) : Bool := (h.readP h.gp).getLsbD i

/-- Active(i) (02 R96). -/
def Hart.active (h : Hart) (i : Nat) : Bool := decide (h.vstart.toNat ≤ i ∧ i < h.vl.toNat) && h.guard i

/-- The active elements in ascending order. -/
def Hart.activeList (h : Hart) : List Nat := (List.range h.vl.toNat).filter h.active

/-- The elements below VL that the guard predicate selects. -/
def Hart.guardedList (h : Hart) : List Nat := (List.range h.vl.toNat).filter h.guard

/-- Some element is active (04 R160). -/
def Hart.anyActive (h : Hart) : Bool := (List.range h.vl.toNat).any h.active

/-- Some element below VL is in the guard predicate: the lane of the instructions that VSTART cannot resume (01 R31, 04 R160). -/
def Hart.anyGuarded (h : Hart) : Bool := (List.range h.vl.toNat).any h.guard

/-! ### Register groups -/

/-- The bits of a register that hold elements: its lower half in protected mode (01 R59). -/
def Hart.regBits (h : Hart) : Nat := if h.prot then 4096 else 8192

/-- `n` registers from `reg` as one string of bits (02 R61, 01 R59). -/
def Hart.readRegs (h : Hart) (reg : Nat) : Nat → Nat
  | 0 => 0
  | n + 1 => h.readRegs reg n + (h.readV (reg + n)).toNat % 2 ^ h.regBits * 2 ^ (h.regBits * n)

/-- What a register of a group holds for the group's bits; in protected mode the upper half mirrors the lower (01 R59). -/
def Hart.slice (h : Hart) (v r : Nat) : VWord :=
  let x := v / 2 ^ (h.regBits * r) % 2 ^ h.regBits
  BitVec.ofNat 8192 (if h.prot then x + x * 2 ^ 4096 else x)

/-- `n` registers from `reg` set from one string of bits. -/
def Hart.writeRegs (h : Hart) (reg v : Nat) : Nat → Hart
  | 0 => h
  | n + 1 => (h.writeRegs reg v n).writeV (reg + n) (h.slice v n)

/-- The tags of `n` registers from `reg` set (01 R42). -/
def Hart.setTags (h : Hart) (reg : Nat) (t : BitVec 6) : Nat → Hart
  | 0 => h
  | n + 1 => (h.setTags reg t n).setTag (reg + n) t

/-- Element i of a string of bits (02 R61). -/
def elem (w g i : Nat) : Nat := g / 2 ^ (w * i) % 2 ^ w

/-- One element of a string of bits replaced. -/
def setElem (w g i v : Nat) : Nat := g - elem w g i * 2 ^ (w * i) + v % 2 ^ w * 2 ^ (w * i)

/-- The string of bits of elements from index 0. -/
def assemble (w : Nat) (xs : List Nat) : Nat := xs.foldr (fun x acc => x % 2 ^ w + acc * 2 ^ w) 0

/-- A vector operand: first register, number of registers, element width, and the tags beside RAW that its use accepts, the
expected one first; an untyped use has none (01 R41). -/
structure Opnd where
  reg : Nat
  regs : Nat
  w : Nat
  want : List (BitVec 6)
  deriving DecidableEq, Repr

/-- The group of width `w` in eighths of a register, if it is one of 1/8 to 8 (06 R206). -/
def Hart.group8 (h : Hart) (w : Nat) : Option Nat :=
  let x := h.g8 * w
  if x % h.ew1 = 0 ∧ 1 ≤ x / h.ew1 ∧ x / h.ew1 ≤ 64 then some (x / h.ew1) else none

/-- The operand of width `w` at register `r`; its group has the number of registers that 06 R206 gives. -/
def Hart.opnd (h : Hart) (r : VReg) (w : Nat) (want : List (BitVec 6)) : Opnd :=
  ⟨r.toNat, max 1 ((h.group8 w).getD 8 / 8), w, want⟩

/-- The operand's group is legal and its register aligned (01 R25, 06 R206). -/
def Hart.groupOk (h : Hart) (r : VReg) (w : Nat) : Bool :=
  match h.group8 w with
  | none => false
  | some g => g ≤ 8 || r.toNat % (g / 8) = 0

/-- The bits of an operand. -/
def Hart.bitsOfOpnd (h : Hart) (o : Opnd) : Nat := h.readRegs o.reg o.regs

/-- The number of an operand's register that FORMAT reports, the tag found and the tag expected (01 R43, R54). A group's tag
is that of its first register (log 28). -/
def Hart.badTag (h : Hart) (o : Opnd) : Option Cause :=
  match o.want with
  | [] => none
  | t :: _ =>
    let found := h.tag o.reg
    if found = 0 ∨ found ∈ o.want then none else some (.format found t o.reg)

/-- The tag checks of the operands, in the order given (01 R43). -/
def Act.checkTags : List Opnd → Act Unit
  | [] => pure ()
  | o :: os => do
    match (← get).hart.badTag o with
    | some c => Act.trap c
    | none => Act.checkTags os

/-! ### The element loop -/

/-- One element of a destination below VL (02 R97). -/
def Hart.lane (h : Hart) (w old : Nat) (op : Nat → Nat × Flags) (i : Nat) : Nat × Flags :=
  if i < h.vstart.toNat then (elem w old i, {})
  else if h.guard i then op i
  else (if h.maskZero then 0 else elem w old i, {})

/-- The bits of a destination at and above VL (02 R97, 01 R25). -/
def Hart.tail (h : Hart) (w old : Nat) : Nat :=
  if h.tailZero then 0 else old / 2 ^ (w * h.vl.toNat) * 2 ^ (w * h.vl.toNat)

/-- All flags of a list. -/
def allFlags (xs : List (Nat × Flags)) : Flags := xs.foldl (fun f x => f.or x.2) {}

/-- The element loop up to element n, above which the destination keeps its bits: a trap at element n (01 R52, 02 R97). -/
def Hart.loopTo (h : Hart) (w old n : Nat) (op : Nat → Nat × Flags) : Nat × Flags :=
  let rs := (List.range n).map (h.lane w old op)
  (assemble w (rs.map Prod.fst) + old / 2 ^ (w * n) * 2 ^ (w * n), allFlags rs)

/-- The element loop of 02 R97: the bits of the destination group, and the flags. -/
def Hart.loop (h : Hart) (w old : Nat) (op : Nat → Nat × Flags) : Nat × Flags :=
  let rs := (List.range h.vl.toNat).map (h.lane w old op)
  (assemble w (rs.map Prod.fst) + h.tail w old, allFlags rs)

/-! ### Streams (07 R247 to R250, 08 R287) -/

/-- The coordinates of a stream element, dimension 0 fastest: its offset from BASE (07 R247). -/
def affineOffset : List (Nat × Int) → Nat → Int
  | [], _ => 0
  | (c, st) :: ds, n => (n % max c 1 : Nat) * st + affineOffset ds (n / max c 1)

/-- The elements of an affine stream. -/
def affineCount (dims : List (Nat × Int)) : Nat := dims.foldl (fun n d => n * d.1) 1

/-- An element of a stream: an address, a value, or one that cannot be delivered. -/
inductive SElem where
  | addr (a : Word)
  | val (v : Nat)
  | bad
  deriving DecidableEq, Repr

/-- A stream that cannot deliver an element: register v28 + r (07 R250). -/
def Act.streamFault {α : Type} (r : Nat) : Act α := throw (.streamFault r)

/-- A load for a stream: translation faults, denials and window crossings are faults of the stream. -/
def Act.streamLoad (r : Nat) (va : Word) (len : Nat) : Act Nat :=
  tryCatch (Act.load va len) fun e =>
    match e with
    | .trap (.page ..) => throw (.streamFault r)
    | .trap (.access _) => throw (.streamFault r)
    | .trap (.windowCross _) => throw (.streamFault r)
    | e => throw e

/-- The element that a face record gives to a neighbour query (08 R287). -/
def queryElem (r : Nat) (d : MeshDesc) (fielda : Word) (ewc qk : Nat) (bval : Word) (id : Nat) (f : Face) : Act SElem := do
  let n ← neighbour (Act.streamLoad r) d (id / 64) f
  if qk = 3 then return .val f.info
  else if qk = 2 then return .addr (plus fielda (id * 2 ^ ewc))
  else if f.bnd then return .val bval.toNat
  else
    match n with
    | none => return .bad
    | some n => return (if qk = 0 then .val n else .addr (plus fielda (n * 2 ^ ewc)))

/-- The elements at positions pos to need − 1 of a query, from identity `id`, whose first element has position `num`, with the
identity of the element at `need` and its position; holes are skipped. Only the elements asked for are looked up, and no identity
after them is read (08 R287; 07 R250). Where the query ends early the elements are fewer. -/
def queryElems (r : Nat) (d : MeshDesc) (fielda : Word) (ewc qk maxf : Nat) (bval : Word) (pos need : Nat) :
    Nat → Nat → Nat → Act (List SElem × Nat × Nat)
  | id, num, 0 => return ([], id, num)
  | id, num, n + 1 => do
    if need ≤ num then return ([], id, num)
    else
      match ← readCell (Act.streamLoad r) d id with
      | none => queryElems r d fielda ewc qk maxf bval pos need (id + 1) num n
      | some c =>
        let wanted := fun (j : Nat) => decide (pos ≤ num + j ∧ num + j < need)
        let own ←
          if maxf ≠ 0 ∧ c.nfrec > maxf then pure (List.replicate maxf SElem.bad)
          else if num + max maxf c.nfrec ≤ pos then pure (List.replicate (max maxf c.nfrec) SElem.bad)
          else do
            let fs ← readFaces (Act.streamLoad r) d (id / 64) c.frec c.nfrec
            let es ← fs.zipIdx.mapM fun (f, j) =>
              if wanted j then queryElem r d fielda ewc qk bval id f else pure SElem.bad
            pure (es ++ List.replicate (maxf - es.length) (.val bval.toNat))
        let here := (own.zipIdx.filter fun (_, j) => wanted j).map Prod.fst
        if need < num + own.length then return (here, id, num)
        else
          let (es, m) ← queryElems r d fielda ewc qk maxf bval pos need (id + 1) (num + own.length) n
          return (here ++ es, m)

/-- `n` elements of a stream from its position, with the stream's new place in a query, or none where the stream has not so
many. -/
def Act.streamElems (r : Nat) (t : Stream) (n : Nat) : Act (Option (List SElem × Stream)) := do
  match t.bind with
  | .none => return none
  | .affine base _ dims =>
    if t.pos + n > affineCount dims then return none
    else return some ((List.range n).map fun i => .addr (base + BitVec.ofInt 64 (affineOffset dims (t.pos + i))), t)
  | .query mesha fielda first nq qk maxf bval epoch =>
    let d ← readDesc (Act.streamLoad r) mesha
    if d.epoch ≠ epoch.toNat then Act.streamFault r
    else
      let (id, num) := if first ≤ t.cell ∧ t.cellPos ≤ t.pos then (t.cell, t.cellPos) else (first, 0)
      let (es, id', num') ← queryElems r d fielda t.ewc qk maxf bval t.pos (t.pos + n) id num (first + nq - id)
      if es.length < n then return none else return some (es, { t with cell := id', cellPos := num' })

/-- The value of an element of a read stream. -/
def Act.deliver (r len : Nat) : SElem → Act Nat
  | .addr a => Act.streamLoad r a len
  | .val v => return v % 2 ^ (8 * len)
  | .bad => Act.streamFault r

/-- The lowest poisoned byte of the elements of a stream that can be read (01 R53; 15 R414). -/
def State.streamPoison (s : State) (len : Nat) : List SElem → State × Option Word
  | [] => (s, none)
  | .addr a :: es =>
    let (s, bad) :=
      match s.check s.hart.env s.hart.num .load a len with
      | .ok ps => let (s, _, bad) := s.readParts ps; (s, bad)
      | _ => (s, none)
    let (s, bad') := s.streamPoison len es
    (s, lowest bad bad')
  | _ :: es => s.streamPoison len es

/-- The values of elements of a read stream: poison in any of them comes before the faults of the others (01 R53). -/
def Act.deliverAll (r len : Nat) (es : List SElem) : Act (List Nat) := do
  let s ← get
  match s.streamPoison len es with
  | (t, some va) => let (c, t) := t.consume va t.convoy; set t; Act.trap c
  | (_, none) => es.mapM (Act.deliver r len)

/-- The element width of a stream. -/
def Stream.width (t : Stream) : Nat := 8 * 2 ^ t.ewc

/-- The tag of a source register: a read stream bound to it delivers its own (07 R249). -/
def Hart.srcTag (h : Hart) (n : Nat) : BitVec 6 :=
  match (h.stream (n - 28)).bind with
  | .none => h.tag n
  | _ => if 28 ≤ n then (h.stream (n - 28)).fmt.setWidth 6 else h.tag n

/-- The stream takes writes. -/
def Stream.isWrite (t : Stream) : Bool :=
  match t.bind with
  | .affine _ w _ => w
  | _ => false

/-- Register v28 + r is bound. -/
def Hart.bound (h : Hart) (r : Nat) : Bool := (h.stream r).bind != .none

/-- An operand is the register v28 + r alone. -/
def Opnd.names (o : Opnd) (r : Nat) : Bool := o.reg == 28 + r && o.regs == 1

/-- An operand's group of several registers includes v28 + r (01 R26). -/
def Opnd.spans (o : Opnd) (r : Nat) : Bool := decide (1 < o.regs ∧ o.reg ≤ 28 + r ∧ 28 + r < o.reg + o.regs)

/-- The register v28 + r as source and destination operands use it: its checks, and the delivery of its elements (01 R26,
07 R249). -/
def Act.openStream (srcs dsts : List Opnd) (r : Nat) : Act Unit := do
  let h := (← get).hart
  let t := h.stream r
  let named := (srcs ++ dsts).filter (·.names r)
  if h.bound r = false then pure ()
  else if (srcs ++ dsts).any (·.spans r) then Act.trap (.stream (28 + r))
  else if named.isEmpty then pure ()
  else if (srcs.any (·.names r) && t.isWrite) || (dsts.any (·.names r) && !t.isWrite)
      || named.any (fun o => o.w != t.width) then Act.trap (.stream (28 + r))
  else
    match ← Act.streamElems r t h.vl.toNat with
    | none => Act.trap (.stream (28 + r))
    | some (es, t) =>
      if t.isWrite then pure ()
      else
        let vs ← Act.deliverAll r (2 ^ t.ewc) es
        Act.modifyHart fun h =>
          ((h.writeRegs (28 + r) (assemble t.width vs + h.tail t.width (h.readRegs (28 + r) 1)) 1).setTag (28 + r)
            (t.fmt.setWidth 6)).setStream r { t with pos := t.pos + h.vl.toNat, fault := false }

/-- The streams of the given registers among the operands; of those that cannot deliver, the stop that ranks first. -/
def Act.openEach (srcs dsts : List Opnd) : List Nat → Act Unit
  | [] => pure ()
  | r :: rs => do
    Act.unless (Act.openEach srcs dsts rs) (Act.openStream srcs dsts r)
    Act.openEach srcs dsts rs

/-- The streams among the operands (07 R249). -/
def Act.openStreams (srcs dsts : List Opnd) : Act Unit := Act.openEach srcs dsts [0, 1, 2, 3]

/-- The tag checks of operands before their streams have delivered (01 R43). -/
def Act.checkSrcTags (os : List Opnd) : Act Unit := do
  let h := (← get).hart
  match os.findSome? fun o => (h.setTag o.reg (h.srcTag o.reg)).badTag o with
  | some c => Act.trap c
  | none => pure ()

/-- The streams among the operands and the tags of `tagged`, in the order of 01 R53: STREAM, then FORMAT, then the wait or the
tile cause that delivering an element meets. -/
def Act.ready (srcs dsts tagged : List Opnd) : Act Unit := do
  Act.unless (Act.checkSrcTags tagged) (Act.openStreams srcs dsts)
  Act.checkTags tagged

/-- The check of a store to a stream element: an element that cannot be written is a fault of the stream (07 R250). -/
def Act.checkStore (r : Nat) (va : Word) (len : Nat) : Act Unit := do
  let s ← get
  match s.check s.hart.env s.hart.num .store va len with
  | .ok _ => pure ()
  | .wait on => throw (.wait on)
  | .trap (.page ..) _ => throw (.streamFault r)
  | .trap (.access _) _ => throw (.streamFault r)
  | .trap (.windowCross _) _ => throw (.streamFault r)
  | .trap c t => do set t; throw (.trap c)

/-- The address of the element at a position from a stream's own. -/
def Stream.addr (t : Stream) (i : Nat) : Word :=
  match t.bind with
  | .affine base _ dims => base + BitVec.ofInt 64 (affineOffset dims (t.pos + i))
  | _ => 0

/-- The checks of stores to a write stream. -/
def Act.checkAppend (r : Nat) (is : List Nat) : Act Unit := do
  let t := (← get).hart.stream r
  is.forM fun i => Act.checkStore r (t.addr i) (2 ^ t.ewc)

/-- The bytes of memory and scratchpads that stores of `len` bytes at some addresses cover. -/
def State.storeCover (s : State) (len : Nat) (vas : List Word) : List (Nat × Nat) :=
  vas.flatMap fun va =>
    match s.check s.hart.env s.hart.num .store va len with
    | .ok ps => coverOf ps
    | _ => []

/-- Elements, by position from the stream's, stored to a write stream; the stream advances by `adv` (07 R249), and its fault bit
stays (07 R250). Blocks that they cover whole lose their poison (15 R413). -/
def Act.append (r : Nat) (vals : List (Nat × Nat)) (adv : Nat) : Act Unit := do
  let t := (← get).hart.stream r
  match t.bind with
  | .affine .. =>
    Act.checkAppend r (vals.map Prod.fst)
    modify fun s => s.renew (s.storeCover (2 ^ t.ewc) (vals.map fun x => t.addr x.1))
    vals.forM fun (i, v) => Act.store (t.addr i) (2 ^ t.ewc) v
    Act.modifyHart fun h => h.setStream r { t with pos := t.pos + adv }
  | _ => pure ()

/-- An operand that is a bound write stream. -/
def Hart.writeStream? (h : Hart) (o : Opnd) : Option Nat :=
  (List.range 4).find? fun r => o.names r && h.bound r && (h.stream r).isWrite

/-- The bits of a vector result in its destination: the group with its tags as `retag` leaves them, or the elements `idx`
appended to a write stream (07 R249). -/
def Act.writeGroup (d : Opnd) (v : Nat) (retag : Hart → Hart) (idx : List Nat) : Act Unit := do
  let h := (← get).hart
  match h.writeStream? d with
  | some r => Act.append r (idx.map fun i => (i, elem d.w v i)) h.vl.toNat
  | none => Act.modifyHart fun h => retag (h.writeRegs d.reg v d.regs)

/-- A vector result under its result tag (01 R42, 07 R249). -/
def Act.writeVec (d : Opnd) (v : Nat) (tag : BitVec 6) (idx : List Nat) : Act Unit :=
  Act.writeGroup d v (·.setTags d.reg tag d.regs) idx

/-! ### The second source and the frame of an instruction -/

/-- The use of a source: typed integer, floating, untyped, or the amount of a shift, untyped (02 R65, 04 R153). -/
inductive Use where
  | int | fp | raw | amount
  deriving DecidableEq, Repr

/-- The tags that a use of width `w` accepts beside RAW (01 R41). -/
def Hart.wantOf (h : Hart) (u : Use) (w : Nat) : List (BitVec 6) :=
  match u with
  | .int => [intTag w]
  | .fp => [h.fpTag w]
  | .raw | .amount => []

/-- The second source: a group or one value for every element (06 R205). -/
inductive Src where
  | vec (o : Opnd)
  | const (v : Nat)
  deriving DecidableEq, Repr

/-- The bits of a scalar or an immediate that a use at width `w` takes: the element width, but for an amount, whose low 8
bits are those of the whole scalar or of the immediate sign-extended to 64 bits (02 R65). -/
def Use.width (u : Use) (w : Nat) : Nat := if u = .amount then 64 else w

/-- The second source of shape 0, 1 or 2 at width `w` (04 R153, 06 R205). -/
def Hart.src (h : Hart) (shape : BitVec 2) (b : BitVec 5) (w : Nat) (u : Use) : Src :=
  if shape = 0 then .vec (h.opnd b w (h.wantOf u w))
  else if shape = 1 then .const ((h.readS b).toNat % 2 ^ u.width w)
  else
    match u with
    | .fp => .const ((h.fmt w).round ⟨.rne, h.ftz, true⟩ (FVal.ofInt b.toInt)).1
    | _ => .const (ofS (u.width w) b.toInt)

/-- The operand of a second source, if it is a group. -/
def Src.opnds : Src → List Opnd
  | .vec o => [o]
  | .const _ => []

/-- The group of a second source is legal. -/
def Hart.srcOk (h : Hart) (shape : BitVec 2) (b : VReg) (w : Nat) : Bool :=
  if shape = 0 then h.groupOk b w else shape ≠ 3

/-- Element i of a second source. -/
def Hart.srcElem (h : Hart) (x : Src) : Nat → Nat :=
  match x with
  | .vec o => let g := h.bitsOfOpnd o; fun i => elem o.w g i
  | .const v => fun _ => v

/-- Elements of an operand. -/
def Hart.elems (h : Hart) (o : Opnd) : Nat → Nat := let g := h.bitsOfOpnd o; fun i => elem o.w g i

/-- VSTART and MSTART return to 0 when a lane-governed word completes (01 R30). -/
def Hart.restart (h : Hart) : Hart := { h with vstart := 0, mstart := 0 }

/-- The frame of a lane-governed word (04 R160, R161): VCFG_ILL while ILL is set, no operation without an active lane, and
the instruction's checks and effect otherwise. -/
def laneGoverned (lanes : Hart → Bool) (body : Act Unit) (s : State) : Eff :=
  if s.hart.ill then .trap .vcfgIll s
  else if lanes s.hart = false then .done { s with hart := s.hart.restart }
  else Act.effect (do body; Act.modifyHart Hart.restart) s

/-- The legality of a word with an active lane, and the check of MODE.RM for a rounding instruction (01 R35). -/
def Act.legal (ok rounds : Bool) : Act Unit := do
  if ok = false then Act.trap .illegal
  else if rounds ∧ (← get).hart.rm?.isNone then Act.trap .illegalRm
  else pure ()

/-- An element-wise instruction after its legality checks: sources, destination, result tag and Op(i) as a function of the
hart that holds the sources (02 R97, 06 R207). -/
def Act.elementwise (srcs : List Opnd) (dst : Opnd) (tag : BitVec 6) (op : Hart → Nat → Nat × Flags) : Act Unit := do
  Act.ready srcs [dst] srcs
  let h := (← get).hart
  let (v, f) := h.loop dst.w (h.bitsOfOpnd dst) (op h)
  Act.writeVec dst v tag h.activeList
  Act.modifyHart fun h => h.raise f

/-- Bits of a predicate below VL from a function, above it by TAILPOL (06 R208). -/
def Hart.predLoop (h : Hart) (old : PWord) (op : Nat → Bool × Flags) : PWord × Flags :=
  let (v, f) := h.loop 1 old.toNat fun i => let (b, g) := op i; (b.toNat, g)
  (BitVec.ofNat 16384 v, f)

/-- An instruction that writes a predicate, after its legality checks. -/
def Act.predicate (srcs : List Opnd) (d : PReg) (op : Hart → Nat → Bool × Flags) : Act Unit := do
  Act.ready srcs [] srcs
  let h := (← get).hart
  let (v, f) := h.predLoop (h.readP d) (op h)
  Act.modifyHart fun h => (h.writeP d v).raise f

end Sys2Proof.Machine
end

