-- ==== Sys2Proof/Machine/Bins.lean ====
section
/-! DEFINITION. The binning engine: bin sets, BINAPP and BINPLAY (08 R300 to R302; log 38). -/

namespace Sys2Proof.Machine

/-! ### Bin sets (R300) -/

/-- The fields of a bin set descriptor. -/
structure BinSet where
  addr : Word
  die : Nat
  device : Nat
  targa : Word
  tlen : Nat
  fmt : Nat
  op : Nat
  rm : Nat
  poola : Word
  nchunk : Nat
  free : Nat
  nfree : Nat
  nreg : Nat
  heada : Word
  deriving DecidableEq, Repr

/-- A bin set from the bytes of its descriptor. -/
def BinSet.ofNat (a : Word) (w : Nat) : BinSet where
  addr := a
  die := bitsOf w 48 8
  device := bitsOf w 56 8
  targa := dword w 8
  tlen := bitsOf w 128 64
  fmt := bitsOf w 192 8
  op := bitsOf w 200 8
  rm := bitsOf w 208 8
  poola := dword w 32
  nchunk := bitsOf w 320 32
  free := bitsOf w 384 64
  nfree := bitsOf w 448 32
  nreg := bitsOf w 480 32
  heada := dword w 64

/-- The bytes of an element of a target format (R300). -/
def binBytes : Nat → Nat
  | 3 => 4
  | 4 => 8
  | 8 => 8
  | 9 => 4
  | 11 => 2
  | _ => 0

/-- A region's bytes. -/
def regionBytes : Nat := 2097152

/-- "None" in a chunk reference of 4 bytes. -/
def noChunk : Nat := 2 ^ 32 - 1

/-- A descriptor keeps the limits and zeros of R300. -/
def BinSet.legal (b : BinSet) (w : Nat) : Bool :=
  decide (bitsOf w 0 32 = 0x4E494246 ∧ bitsOf w 32 16 = 1 ∧ bitsOf w 216 40 = 0 ∧ bitsOf w 352 32 = 0 ∧ w / 2 ^ 576 = 0)
    && decide (b.targa.toNat % regionBytes = 0 ∧ 1 ≤ b.tlen ∧ binBytes b.fmt ≠ 0 ∧ b.op ≤ 2 ∧ b.rm ≤ 4 ∧ b.poola.toNat % 4096 = 0)
    && decide (b.nreg = (b.tlen + regionBytes - 1) / regionBytes)

/-- The address of a chunk. -/
def BinSet.chunk (b : BinSet) (i : Nat) : Word := plus b.poola (4096 * i)

/-- The address of the head of a region's bin. -/
def BinSet.head (b : BinSet) (r : Nat) : Word := plus b.heada (16 * r)

/-- The region of element `x` (R300). -/
def BinSet.region (b : BinSet) (x : Nat) : Nat := x * binBytes b.fmt / regionBytes

/-- A BINAPP or BINPLAY is accepted only when the die's earlier binning commands have registered their claims, and none of them
writes the bin set's descriptor in S3, which no claim covers; so what it reads of the bin set is what they leave: the space that
they reserved is taken, and a bin that one replays is empty (R301, R302; 03 R132). -/
def Act.settled (set : Word) : Act Unit := do
  let s ← get
  let here := (s.pinEngine (s.hart.engineEnv .binning) .load set.toNat 256).1
  if (s.queueOf .binning s.hart.die).any fun k => !k.claimed || meetScratch k.dst.flatten here then throw (.wait []) else pure ()

/-! ### BINAPP (R301) -/

/-- The pairs that the last chunk of a bin has room for, and that chunk (R300). -/
def Act.room (b : BinSet) (r : Nat) : Act (Nat × List Nat) := do
  let h ← Act.load (b.head r) 16
  let last := bitsOf h 32 32
  if bitsOf h 0 32 = noChunk ∨ b.nchunk ≤ last then return (0, [])
  else
    let c ← Act.load (plus (b.chunk last) 4) 4
    return (252 - c, [last])

/-- The first chunks of the free list; none where it has not so many (R300). -/
def Act.freeChunks (b : BinSet) : Nat → Nat → Act (Option (List Nat))
  | 0, _ => return some []
  | n + 1, i => do
    if b.nchunk ≤ i then return none
    else
      let next ← Act.load (b.chunk i) 4
      return (← Act.freeChunks b n next).map (i :: ·)

/-- The chunks that pairs for some regions need: of every region, those that its last chunk cannot hold (R301). -/
def chunksNeeded (rooms : List (Nat × Nat)) : Nat := (rooms.map fun (n, room) => (n - room + 251) / 252).sum

/-- The bin set of a BINAPP with the bytes of its descriptor: a width that is not that of its format is ILLEGAL (R301). -/
def Act.appendSet (va : Word) (ew1 : Nat) : Act (Nat × BinSet) := do
  Act.require (va.toNat % 64 = 0) (.misalign va)
  Act.settled va
  let w ← Act.load va 256
  let b := BinSet.ofNat va w
  Act.require (binBytes b.fmt = 0 ∨ 8 * binBytes b.fmt = ew1) .illegal
  return (w, b)

/-- BINAPP's effect (R281, R301): nothing is appended where an element lies beyond TLEN or the free chunks cannot hold the pairs. -/
def effBinapp (d : VReg) (a : SReg) (v : VReg) : State → Eff := laneGoverned Hart.anyGuarded do
  let h := (← get).hart
  let va := h.readS a
  let od := h.opnd d h.ew1 []
  let ob := h.opnd v h.ew2 []
  Act.legal ((h.ew2 == 32 || h.ew2 == 64) && h.vstart == 0 && h.groupOk d h.ew1 && h.groupOk v h.ew2) false
  let (w, b) ← Act.unless (Act.openStreams [od, ob] []) (Act.appendSet va h.ew1)
  Act.openStreams [od, ob] []
  let s ← get
  let h := s.hart
  let x := h.elems ob
  let y := h.elems od
  let all := h.activeList.map fun i => (x i, y i)
  let causes := s.foreign va b.die b.device
  let pairs := if b.legal w ∧ causes = [] then all.filter fun p => decide (p.1 * binBytes b.fmt < b.tlen) else []
  let regions := (pairs.map fun p => b.region p.1).eraseDups
  let rooms ← regions.mapM fun r => do
    let (n, c) ← Act.room b r
    return ((pairs.filter fun p => b.region p.1 == r).length, n, c)
  let need := chunksNeeded (rooms.map fun q => (q.1, q.2.1))
  let fs ← if need ≤ b.nfree then Act.freeChunks b need b.free else pure none
  Act.issue {
    kind := .binning, op := 1, va := va, block := [], bad := !(b.legal w) || pairs.length != all.length || fs.isNone
    causes := causes, reads := []
    writes := [[(va, 256)], regions.map fun r => (b.head r, 16), (rooms.flatMap fun q => q.2.2).map (fun c => (b.chunk c, 4096))
      ++ (fs.getD []).map fun c => (b.chunk c, 4096)]
    fin := [], extra := pairs.flatMap fun p => [p.1, p.2] }

/-- BINAPP: appends pairs to the bins of their regions (R301). -/
def execBinapp (d a b : BitVec 5) (s : State) : Host.Outcome State Fault Refusal := runQueued (wordOf (.binapp d a b)) (effBinapp d a b) s

/-- A bin set read by its engine. -/
def Eng.binSet (k : Command) (a : Word) : Eng BinSet := do return BinSet.ofNat a (← Eng.read k a 256)

/-- The first free chunk is taken for the end of a region's bin, whose last chunk is `last` or none (R300, R301). -/
def Eng.takeChunk (k : Command) (b : BinSet) (r last : Nat) (first : Bool) : Eng Nat := do
  let i := b.free % 2 ^ 32
  let next ← Eng.read k (b.chunk i) 4
  Eng.write k (plus b.addr 56) (leBytes 4 (b.nfree - 1))
  Eng.write k (plus b.addr 48) (leBytes 8 (if next = noChunk then 2 ^ 64 - 1 else next))
  Eng.write k (b.chunk i) (leBytes 4 noChunk ++ List.replicate 60 0)
  if first then Eng.write k (b.head r) (leBytes 4 i) else Eng.write k (b.chunk last) (leBytes 4 i)
  Eng.write k (plus (b.head r) 4) (leBytes 4 i)
  return i

/-- One pair is appended (R301). -/
def Eng.append (k : Command) (x v : Nat) : Eng Unit := do
  let b ← Eng.binSet k k.blockVa
  let r := b.region x
  let h ← Eng.read k (b.head r) 16
  let first := bitsOf h 0 32 == noChunk
  let last := bitsOf h 32 32
  let n ← if first then pure 252 else Eng.read k (plus (b.chunk last) 4) 4
  let (i, n) ← if n < 252 then pure (last, n) else do pure (← Eng.takeChunk k b r last first, 0)
  Eng.write k (plus (b.chunk i) (64 + 16 * n)) (leBytes 8 x ++ leBytes 8 v)
  Eng.write k (plus (b.chunk i) 4) (leBytes 4 (n + 1))
  Eng.write k (plus (b.head r) 8) (leBytes 8 (bitsOf h 64 64 + 1))

/-- The pairs of an append, in order. -/
def runAppend (k : Command) : List Nat → Eng Unit
  | x :: v :: rest => do Eng.append k x v; runAppend k rest
  | _ => pure ()

/-! ### BINPLAY (R302) -/

/-- The chunks of a bin in order: their indices; none where the chain leaves the pool or does not end within it, which makes BINPLAY
trap MESH at acceptance (R300; DESIGN CHOICE, log 72: no rule names such a chain's cause). -/
def Act.chain (b : BinSet) : Nat → Nat → Act (Option (List Nat))
  | 0, i => return (if i = noChunk then some [] else none)
  | n + 1, i => do
    if i = noChunk then return some []
    else if b.nchunk ≤ i then return none
    else
      let next ← Act.load (b.chunk i) 4
      return (← Act.chain b n next).map (i :: ·)

/-- The bytes of a region of the target (R302). -/
def BinSet.regionLen (b : BinSet) (r : Nat) : Nat := min regionBytes (b.tlen - r * regionBytes)

/-- The address of a region of the target. -/
def BinSet.regionAddr (b : BinSet) (r : Nat) : Word := plus b.targa (r * regionBytes)

/-- The bytes of the head of an empty bin (R300). -/
def emptyHead : List Byte := leBytes 4 noChunk ++ leBytes 4 noChunk ++ leBytes 8 0

/-- BINPLAY's effect (R281, R302): at acceptance the region's bin is set empty. -/
def effBinplay (a : SReg) : State → Eff := Act.effect do
  let va := (← get).hart.readS a
  let w ← Act.block va 64
  let ba := dword w 16
  let r := bitsOf w 192 32
  let stage := dword w 32
  let aligned := decide (ba.toNat % 64 = 0)
  let known : Issue := {
    kind := .binning, op := 2, va := va, block := leBytes 64 w, bad := false, causes := [], reads := []
    writes := (if aligned then [[(ba, 256)]] else []) ++ (if inScratchSpace stage then [[(stage, regionBytes)]] else [])
    fin := [(va, 8)], extra := [] }
  let bw ← Act.forIssue known (do Act.settled ba; if aligned then Act.load ba 256 else pure 0)
  let s ← get
  let b := BinSet.ofNat ba bw
  let known := { known with causes := if aligned then s.foreign ba b.die b.device else [] }
  let ok := aligned && b.legal bw && known.causes == [] && decide (r < b.nreg)
  let h ← if ok then Act.forIssue known (Act.load (b.head r) 16) else pure 0
  let cs ← if ok then Act.forIssue known (Act.chain b b.nchunk (bitsOf h 0 32)) else pure none
  let region := (b.regionAddr r, b.regionLen r)
  Act.issue { known with
    bad := headerBad 2 w || bitsOf w 224 32 != 0 || bitsOf w 320 192 != 0 || cs.isNone || stage.toNat % 64 != 0
      || !(inScratchSpace stage)
    reads := if ok then [region] else []
    writes := known.writes ++ (if ok then [[(b.head r, 16)], (cs.getD []).map fun c => (b.chunk c, 4096), [region]] else [])
    extra := cs.getD [] }
  modify fun s =>
    let e := s.hart.engineEnv .binning
    s.writeParts e (s.pinEngine e .store (b.head r).toNat 16).1 emptyHead

/-- BINPLAY: queues the replay of a region's bin (R302). -/
def execBinplay (a : SReg) (s : State) : Host.Outcome State Fault Refusal := runQueued (wordOf (.binplay a)) (effBinplay a) s

/-- The rounding mode of a bin set (01 R35). -/
def binRm : Nat → RM
  | 1 => .rtz
  | 2 => .rdn
  | 3 => .rup
  | 4 => .rmm
  | _ => .rne

/-- The floating format of a tag code that a bin set may have. -/
def binFmt : Nat → Option FFmt
  | 8 => some .fp64
  | 9 => some .fp32
  | 11 => some .bf16
  | _ => none

/-- An element with an update applied to it (R302). -/
def BinSet.apply (b : BinSet) (e v : Nat) : Nat :=
  let w := 8 * binBytes b.fmt
  match binFmt b.fmt with
  | some f => if b.op = 0 then (f.add ⟨binRm b.rm, false, false⟩ e v).1 else (f.minmax false (b.op == 2) e v).1
  | none =>
    if b.op = 0 then (e + v) % 2 ^ w
    else if b.op = 1 then (if toS w v < toS w e then v else e)
    else (if toS w e < toS w v then v else e)

/-- The bytes of a range as they lie, with the poison of their blocks carried to the staging range (15 R413). -/
def Eng.stage (k : Command) (src dst : Word) (n : Nat) : Eng Unit := do
  let ps ← Eng.parts k src n
  let (s, bytes, bad) := (← get).readParts ps
  set s
  Eng.write k dst bytes
  if bad.isSome then
    let blocks := (List.range ((n + 63) / 64)).filter fun i =>
      (pinned ps 64 (plus src (64 * i)).toNat 1).any fun p => match p.place.key? with
        | some key => s.rel.poison.contains (key / 64 * 64)
        | none => false
    let out ← Eng.parts k dst n
    modify fun s => blocks.foldl (fun s i => s.poisonParts (pinned out 64 (plus dst (64 * i)).toNat (min 64 (n - 64 * i)))) s
    Eng.fail 8 0
  else pure ()

/-- The pairs of a chunk are applied in order to the staging range. -/
def Eng.applyChunk (k : Command) (b : BinSet) (r : Nat) (stage : Word) (c : Nat) : Eng Unit := do
  let e := binBytes b.fmt
  let n ← Eng.read k (plus (b.chunk c) 4) 4
  for j in List.range (min n 252) do
    let p ← Eng.read k (plus (b.chunk c) (64 + 16 * j)) 16
    let at_ := plus stage ((bitsOf p 0 64 - r * (regionBytes / e)) * e)
    let old ← Eng.read k at_ e
    Eng.write k at_ (leBytes e (b.apply old (bitsOf p 64 (8 * e))))

/-- The next `n` chunks of a BINPLAY's chain are applied in S3, and the region is written back (R302); `at_` counts the chunks that
are applied. -/
def Eng.play (k : Command) (n : Nat) : Eng BinSet := do
  let w := k.word
  let b ← Eng.binSet k (dword w 16)
  let r := bitsOf w 192 32
  let stage := dword w 32
  Eng.stage k (b.regionAddr r) stage (b.regionLen r)
  for c in (k.extra.drop k.at_).take n do Eng.applyChunk k b r stage c
  Eng.stage k stage (b.regionAddr r) (b.regionLen r)
  return b

/-- BINPLAY's run (R302): what is left of the chain is applied, and its chunks go to the front of the free list (log 38). -/
def runBinplay (k : Command) : Eng Unit := do
  let b ← Eng.play k k.extra.length
  match k.extra.head?, k.extra.getLast? with
  | some first, some last =>
    Eng.write k (b.chunk last) (leBytes 4 (b.free % 2 ^ 32))
    Eng.write k (plus b.addr 48) (leBytes 8 first)
    Eng.write k (plus b.addr 56) (leBytes 4 (b.nfree + k.extra.length))
  | _, _ => pure ()

/-! ### The engine -/

/-- The first command of a die's binning engine is of an operation. -/
def State.binHead (s : State) (die op : Nat) : Bool := ((s.queueOf .binning die).head?.map Command.op) == some op

/-- BIN_APPEND_WRITE: the binning engine of a die writes the pairs of a BINAPP (R301). -/
def execBinAppendWrite (die : Nat) (s : State) : Host.Outcome State Fault Refusal :=
  .next (if s.binHead die 1 then s.engineStep .binning die fun k => runAppend k k.extra else s)

/-- BINNING_COMMAND_RUN: the binning engine of a die performs a BINPLAY and writes DONE (R302). -/
def execBinningCommandRun (die : Nat) (s : State) : Host.Outcome State Fault Refusal :=
  .next (if s.binHead die 2 then s.engineStep .binning die runBinplay else s)

end Sys2Proof.Machine
end

