-- ==== Sys2Proof/Machine/ScalarFp.lean ====
section
/-! DEFINITION. Scalar floating point, major 0x0C (04 R149; 05 R177 to R179). -/

namespace Sys2Proof.Machine

/-- The format of precision P (04 R149). -/
def fpFmt (p : BitVec 1) : FFmt := if p = 0 then .fp64 else .fp32

/-- A result in a scalar register: FP32 has ones above (01 R24). -/
def boxFp (p : BitVec 1) (v : Nat) : Word := BitVec.ofNat 64 (if p = 0 then v else v + 0xFFFFFFFF00000000)

/-- The value of a scalar floating operand; FTZ16 has no effect (05 R177). -/
def Hart.readF (h : Hart) (p : BitVec 1) (r : SReg) : FVal := (fpFmt p).unpack false (h.readS r).toNat

/-- An operation that writes a register and raises flags, after the check of MODE.RM if it rounds (01 R35). -/
def effFp (rounds : Bool) (d : SReg) (f : Hart → Word × Flags) (s : State) : Eff :=
  if rounds ∧ s.hart.rm?.isNone then .trap .illegalRm s
  else .done { s with hart := (s.hart.writeS d (f s.hart).1).raise (f s.hart).2 }

/-- A value before rounding, rounded into precision P by MODE.RM, with the flags of both. -/
def roundFp (h : Hart) (p : BitVec 1) (sat : Bool) (v : FVal × Flags) : Word × Flags :=
  let (w, f) := (fpFmt p).round (h.fenv sat) v.1
  (boxFp p w, v.2.or f)

/-- A comparison of two values: false for a NaN, which raises NV where it is signalling or the comparison is ordered (02 R67). -/
def fpCompare (ordered : Bool) (test : Int → Bool) (a b : FVal) : Bool × Flags :=
  if a.isNan || b.isNan then (false, { nv := ordered || a.isSig || b.isSig })
  else (test (a.cmp b), {})

/-- A comparison result in a register. -/
def compareFp (ordered : Bool) (test : Int → Bool) (a b : FVal) : Word × Flags :=
  let (r, f) := fpCompare ordered test a b
  (if r then 1 else 0, f)

/-- A minimum or maximum of two registers (02 R75). -/
def minmaxFp (p : BitVec 1) (max : Bool) (a b : Nat) : Word × Flags :=
  let (v, f) := (fpFmt p).minmax false max a b
  (boxFp p v, f)

/-- FADD: s_d takes s_a + s_b (05 R177). -/
def execFadd (d a b : SReg) (p : BitVec 1) (s : State) : Host.Outcome State Fault Refusal :=
  runScalar (wordOf (.fadd d a b p)) (effFp true d fun h => roundFp h p false (FVal.add h.rm (h.readF p a) (h.readF p b))) s

/-- FSUB: s_d takes s_a − s_b (05 R177). -/
def execFsub (d a b : SReg) (p : BitVec 1) (s : State) : Host.Outcome State Fault Refusal :=
  runScalar (wordOf (.fsub d a b p)) (effFp true d fun h => roundFp h p false (FVal.add h.rm (h.readF p a) (h.readF p b).negate)) s

/-- FMUL: s_d takes s_a × s_b (05 R177). -/
def execFmul (d a b : SReg) (p : BitVec 1) (s : State) : Host.Outcome State Fault Refusal :=
  runScalar (wordOf (.fmul d a b p)) (effFp true d fun h => roundFp h p false (FVal.mul (h.readF p a) (h.readF p b))) s

/-- FMA: s_d takes s_a × s_b + s_d, one rounding (05 R177). -/
def execFma (d a b : SReg) (p : BitVec 1) (s : State) : Host.Outcome State Fault Refusal :=
  runScalar (wordOf (.fma d a b p)) (effFp true d fun h => roundFp h p false (FVal.fma h.rm (h.readF p a) (h.readF p b) (h.readF p d))) s

/-- FNMA: s_d takes −(s_a × s_b) + s_d, one rounding (05 R177). -/
def execFnma (d a b : SReg) (p : BitVec 1) (s : State) : Host.Outcome State Fault Refusal :=
  runScalar (wordOf (.fnma d a b p)) (effFp true d fun h => roundFp h p false (FVal.fma h.rm (h.readF p a).negate (h.readF p b) (h.readF p d))) s

/-- FDIV: s_d takes s_a / s_b (05 R177). -/
def execFdiv (d a b : SReg) (p : BitVec 1) (s : State) : Host.Outcome State Fault Refusal :=
  runScalar (wordOf (.fdiv d a b p)) (effFp true d fun h => roundFp h p false (FVal.div (h.readF p a) (h.readF p b))) s

/-- FSQRT: s_d takes √s_a, correctly rounded (05 R177). -/
def execFsqrt (d a : SReg) (p : BitVec 1) (s : State) : Host.Outcome State Fault Refusal :=
  runScalar (wordOf (.fsqrt d a p)) (effFp true d fun h => roundFp h p false (h.readF p a).sqrt) s

/-- FMIN: s_d takes the minimum of 02 R75. -/
def execFmin (d a b : SReg) (p : BitVec 1) (s : State) : Host.Outcome State Fault Refusal :=
  runScalar (wordOf (.fmin d a b p)) (effFp false d fun h => minmaxFp p false (h.readS a).toNat (h.readS b).toNat) s

/-- FMAX: s_d takes the maximum of 02 R75. -/
def execFmax (d a b : SReg) (p : BitVec 1) (s : State) : Host.Outcome State Fault Refusal :=
  runScalar (wordOf (.fmax d a b p)) (effFp false d fun h => minmaxFp p true (h.readS a).toNat (h.readS b).toNat) s

/-- FEQ: s_d takes 1 if s_a equals s_b (05 R177). -/
def execFeq (d a b : SReg) (p : BitVec 1) (s : State) : Host.Outcome State Fault Refusal :=
  runScalar (wordOf (.feq d a b p)) (effFp false d fun h => compareFp false (· == 0) (h.readF p a) (h.readF p b)) s

/-- FLT: s_d takes 1 if s_a is below s_b (05 R177). -/
def execFlt (d a b : SReg) (p : BitVec 1) (s : State) : Host.Outcome State Fault Refusal :=
  runScalar (wordOf (.flt d a b p)) (effFp false d fun h => compareFp true (· < 0) (h.readF p a) (h.readF p b)) s

/-- FLE: s_d takes 1 if s_a is at most s_b (05 R177). -/
def execFle (d a b : SReg) (p : BitVec 1) (s : State) : Host.Outcome State Fault Refusal :=
  runScalar (wordOf (.fle d a b p)) (effFp false d fun h => compareFp true (· ≤ 0) (h.readF p a) (h.readF p b)) s

/-- FCVT_FF: P names the target; into FP64 it is exact and does not look at MODE.RM (05 R178). -/
def execFcvtFf (d a : SReg) (p : BitVec 1) (s : State) : Host.Outcome State Fault Refusal :=
  runScalar (wordOf (.fcvtFf d a p))
    (effFp (p = 1) d fun h => let v := h.readF (~~~p) a; roundFp h p h.sat (v, { nv := v.isSig })) s

/-- A conversion to an integer of 64 bits (02 R78). -/
def toWord (h : Hart) (isSigned : Bool) (v : FVal) : Word × Flags :=
  let (i, f) := v.toInt h.rm isSigned 64
  (BitVec.ofInt 64 i, f)

/-- FCVT_FS: to signed INT64 (05 R178). -/
def execFcvtFs (d a : SReg) (p : BitVec 1) (s : State) : Host.Outcome State Fault Refusal :=
  runScalar (wordOf (.fcvtFs d a p)) (effFp true d fun h => toWord h true (h.readF p a)) s

/-- FCVT_FU: to unsigned INT64 (05 R178). -/
def execFcvtFu (d a : SReg) (p : BitVec 1) (s : State) : Host.Outcome State Fault Refusal :=
  runScalar (wordOf (.fcvtFu d a p)) (effFp true d fun h => toWord h false (h.readF p a)) s

/-- FCVT_SF: from signed INT64 (05 R178). -/
def execFcvtSf (d a : SReg) (p : BitVec 1) (s : State) : Host.Outcome State Fault Refusal :=
  runScalar (wordOf (.fcvtSf d a p)) (effFp true d fun h => roundFp h p false (FVal.ofInt (h.readS a).toInt, {})) s

/-- FCVT_UF: from unsigned INT64 (05 R178). -/
def execFcvtUf (d a : SReg) (p : BitVec 1) (s : State) : Host.Outcome State Fault Refusal :=
  runScalar (wordOf (.fcvtUf d a p)) (effFp true d fun h => roundFp h p false (FVal.ofInt (h.readS a).toNat, {})) s

/-- FCLASS: s_d takes the class mask of s_a (05 R179). -/
def execFclass (d a : SReg) (p : BitVec 1) (s : State) : Host.Outcome State Fault Refusal :=
  runScalar (wordOf (.fclass d a p)) (effFp false d fun h => (1 <<< (fpFmt p).cls false (h.readS a).toNat, {})) s

end Sys2Proof.Machine
end

