-- ==== Sys2Proof/Machine/VInt.lean ====
section
/-! DEFINITION. Integer vector operations, comparison, selection, moves, widening and narrowing: majors 0x10 to 0x12
(04 R153, R154; 06 R211 to R217). -/

namespace Sys2Proof.Machine

/-- The element-wise shape of an instruction: what its result tag is, whether it reads its destination as an addend, whether
it rounds, and Op on the index, the elements of va and b and the old element. -/
structure VOp where
  useA : Use
  useB : Use
  tag : Hart → Nat → BitVec 6
  addend : Bool := false
  rounds : Bool := false
  op : Hart → Nat → Nat → Nat → Nat → Nat → Nat × Flags

/-- An element-wise instruction on va and b at EW1 (02 R97, 06 R206). -/
def VOp.eff (v : VOp) (d a : VReg) (h2 : BitVec 2) (b : BitVec 5) : State → Eff :=
  laneGoverned Hart.anyActive do
    let h := (← get).hart
    let w := h.ew1
    Act.legal (h.groupOk d w && h.groupOk a w && h.srcOk h2 b w) v.rounds
    let oa := h.opnd a w (h.wantOf v.useA w)
    let x := h.src h2 b w v.useB
    let od := h.opnd d w (if v.addend then h.wantOf v.useA w else [])
    Act.elementwise (oa :: x.opnds ++ if v.addend then [od] else []) od (v.tag h w) fun h =>
      let ea := h.elems oa
      let eb := h.srcElem x
      let ed := h.elems od
      fun i => v.op h w i (ea i) (eb i) (ed i)

/-- An element-wise instruction on va alone (shape 00, b zero). -/
def VOp.eff1 (v : VOp) (d a : VReg) : State → Eff :=
  laneGoverned Hart.anyActive do
    let h := (← get).hart
    let w := h.ew1
    Act.legal (h.groupOk d w && h.groupOk a w) v.rounds
    let oa := h.opnd a w (h.wantOf v.useA w)
    let od := h.opnd d w []
    Act.elementwise [oa] od (v.tag h w) fun h => let ea := h.elems oa; fun i => v.op h w i (ea i) 0 0

/-- A typed integer operation without flags (06 R211). -/
def VOp.int (f : Nat → Nat → Nat → Nat → Nat) : VOp where
  useA := .int
  useB := .int
  tag := fun _ w => intTag w
  op := fun _ w _ a b d => (f w a b d % 2 ^ w, {})

/-- A bitwise operation: untyped, result RAW (06 R211). -/
def VOp.bits (f : Nat → Nat → Nat) : VOp where
  useA := .raw
  useB := .raw
  tag := fun _ _ => 0
  op := fun _ _ _ a b _ => (f a b, {})

/-- A shift: typed a, untyped b (06 R211). -/
def VOp.shift (f : Nat → Nat → Nat → Nat) : VOp where
  useA := .int
  useB := .amount
  tag := fun _ w => intTag w
  op := fun _ w _ a b _ => (f w a b, {})

/-- A saturating operation (06 R211). -/
def VOp.clamped (isSigned : Bool) (f : Int → Int → Int) : VOp where
  useA := .int
  useB := .int
  tag := fun _ w => intTag w
  op := fun _ w _ a b _ =>
    if isSigned then saturate true w (f (toS w a) (toS w b)) else saturate false w (f a b)

/-- VADD: element-wise, a + b (06 R211). -/
def effVadd (d a : VReg) (b : BitVec 5) (h : BitVec 2) : State → Eff :=
  (VOp.int (fun _ a b _ => a + b)).eff d a h b

/-- VADD on a hart (06 R211). -/
def execVadd (d a b : BitVec 5) (h : BitVec 2) (s : State) : Host.Outcome State Fault Refusal :=
  runQueued (wordOf (.vadd d a b h)) (effVadd d a b h) s

/-- VSUB: element-wise, a − b (06 R211). -/
def effVsub (d a : VReg) (b : BitVec 5) (h : BitVec 2) : State → Eff :=
  (VOp.int (fun w a b _ => a + 2 ^ w - b)).eff d a h b

/-- VSUB on a hart (06 R211). -/
def execVsub (d a b : BitVec 5) (h : BitVec 2) (s : State) : Host.Outcome State Fault Refusal :=
  runQueued (wordOf (.vsub d a b h)) (effVsub d a b h) s

/-- VRSUB: element-wise, b − a (06 R211). -/
def effVrsub (d a : VReg) (b : BitVec 5) (h : BitVec 2) : State → Eff :=
  (VOp.int (fun w a b _ => b + 2 ^ w - a)).eff d a h b

/-- VRSUB on a hart (06 R211). -/
def execVrsub (d a b : BitVec 5) (h : BitVec 2) (s : State) : Host.Outcome State Fault Refusal :=
  runQueued (wordOf (.vrsub d a b h)) (effVrsub d a b h) s

/-- VMUL: element-wise, the low bits of a × b (06 R211). -/
def effVmul (d a : VReg) (b : BitVec 5) (h : BitVec 2) : State → Eff :=
  (VOp.int (fun _ a b _ => a * b)).eff d a h b

/-- VMUL on a hart (06 R211). -/
def execVmul (d a b : BitVec 5) (h : BitVec 2) (s : State) : Host.Outcome State Fault Refusal :=
  runQueued (wordOf (.vmul d a b h)) (effVmul d a b h) s

/-- VMULH: element-wise, the high bits of the signed product (06 R211). -/
def effVmulh (d a : VReg) (b : BitVec 5) (h : BitVec 2) : State → Eff :=
  (VOp.int (fun w a b _ => ofS w (toS w a * toS w b / (2 ^ w : Nat)))).eff d a h b

/-- VMULH on a hart (06 R211). -/
def execVmulh (d a b : BitVec 5) (h : BitVec 2) (s : State) : Host.Outcome State Fault Refusal :=
  runQueued (wordOf (.vmulh d a b h)) (effVmulh d a b h) s

/-- VMULHU: element-wise, the high bits of the unsigned product (06 R211). -/
def effVmulhu (d a : VReg) (b : BitVec 5) (h : BitVec 2) : State → Eff :=
  (VOp.int (fun w a b _ => a * b / 2 ^ w)).eff d a h b

/-- VMULHU on a hart (06 R211). -/
def execVmulhu (d a b : BitVec 5) (h : BitVec 2) (s : State) : Host.Outcome State Fault Refusal :=
  runQueued (wordOf (.vmulhu d a b h)) (effVmulhu d a b h) s

/-- VMADD: element-wise, a × b + vd (06 R211). -/
def effVmadd (d a : VReg) (b : BitVec 5) (h : BitVec 2) : State → Eff :=
  ({ VOp.int (fun _ a b d => a * b + d) with addend := true }).eff d a h b

/-- VMADD on a hart (06 R211). -/
def execVmadd (d a b : BitVec 5) (h : BitVec 2) (s : State) : Host.Outcome State Fault Refusal :=
  runQueued (wordOf (.vmadd d a b h)) (effVmadd d a b h) s

/-- VDIV: element-wise, the signed quotient (02 R64) (06 R211). -/
def effVdiv (d a : VReg) (b : BitVec 5) (h : BitVec 2) : State → Eff :=
  (VOp.int (fun w a b _ => quotS w a b)).eff d a h b

/-- VDIV on a hart (06 R211). -/
def execVdiv (d a b : BitVec 5) (h : BitVec 2) (s : State) : Host.Outcome State Fault Refusal :=
  runQueued (wordOf (.vdiv d a b h)) (effVdiv d a b h) s

/-- VDIVU: element-wise, the unsigned quotient (02 R64) (06 R211). -/
def effVdivu (d a : VReg) (b : BitVec 5) (h : BitVec 2) : State → Eff :=
  (VOp.int (fun w a b _ => quotU w a b)).eff d a h b

/-- VDIVU on a hart (06 R211). -/
def execVdivu (d a b : BitVec 5) (h : BitVec 2) (s : State) : Host.Outcome State Fault Refusal :=
  runQueued (wordOf (.vdivu d a b h)) (effVdivu d a b h) s

/-- VREM: element-wise, the signed remainder (02 R64) (06 R211). -/
def effVrem (d a : VReg) (b : BitVec 5) (h : BitVec 2) : State → Eff :=
  (VOp.int (fun w a b _ => remS w a b)).eff d a h b

/-- VREM on a hart (06 R211). -/
def execVrem (d a b : BitVec 5) (h : BitVec 2) (s : State) : Host.Outcome State Fault Refusal :=
  runQueued (wordOf (.vrem d a b h)) (effVrem d a b h) s

/-- VMIN: element-wise, the signed minimum (06 R211). -/
def effVmin (d a : VReg) (b : BitVec 5) (h : BitVec 2) : State → Eff :=
  (VOp.int (fun w a b _ => if toS w b < toS w a then b else a)).eff d a h b

/-- VMIN on a hart (06 R211). -/
def execVmin (d a b : BitVec 5) (h : BitVec 2) (s : State) : Host.Outcome State Fault Refusal :=
  runQueued (wordOf (.vmin d a b h)) (effVmin d a b h) s

/-- VMAX: element-wise, the signed maximum (06 R211). -/
def effVmax (d a : VReg) (b : BitVec 5) (h : BitVec 2) : State → Eff :=
  (VOp.int (fun w a b _ => if toS w a < toS w b then b else a)).eff d a h b

/-- VMAX on a hart (06 R211). -/
def execVmax (d a b : BitVec 5) (h : BitVec 2) (s : State) : Host.Outcome State Fault Refusal :=
  runQueued (wordOf (.vmax d a b h)) (effVmax d a b h) s

/-- VMINU: element-wise, the unsigned minimum (06 R211). -/
def effVminu (d a : VReg) (b : BitVec 5) (h : BitVec 2) : State → Eff :=
  (VOp.int (fun _ a b _ => min a b)).eff d a h b

/-- VMINU on a hart (06 R211). -/
def execVminu (d a b : BitVec 5) (h : BitVec 2) (s : State) : Host.Outcome State Fault Refusal :=
  runQueued (wordOf (.vminu d a b h)) (effVminu d a b h) s

/-- VMAXU: element-wise, the unsigned maximum (06 R211). -/
def effVmaxu (d a : VReg) (b : BitVec 5) (h : BitVec 2) : State → Eff :=
  (VOp.int (fun _ a b _ => max a b)).eff d a h b

/-- VMAXU on a hart (06 R211). -/
def execVmaxu (d a b : BitVec 5) (h : BitVec 2) (s : State) : Host.Outcome State Fault Refusal :=
  runQueued (wordOf (.vmaxu d a b h)) (effVmaxu d a b h) s

/-- VAND: element-wise, a AND b (06 R211). -/
def effVand (d a : VReg) (b : BitVec 5) (h : BitVec 2) : State → Eff :=
  (VOp.bits (· &&& ·)).eff d a h b

/-- VAND on a hart (06 R211). -/
def execVand (d a b : BitVec 5) (h : BitVec 2) (s : State) : Host.Outcome State Fault Refusal :=
  runQueued (wordOf (.vand d a b h)) (effVand d a b h) s

/-- VOR: element-wise, a OR b (06 R211). -/
def effVor (d a : VReg) (b : BitVec 5) (h : BitVec 2) : State → Eff :=
  (VOp.bits (· ||| ·)).eff d a h b

/-- VOR on a hart (06 R211). -/
def execVor (d a b : BitVec 5) (h : BitVec 2) (s : State) : Host.Outcome State Fault Refusal :=
  runQueued (wordOf (.vor d a b h)) (effVor d a b h) s

/-- VXOR: element-wise, a XOR b (06 R211). -/
def effVxor (d a : VReg) (b : BitVec 5) (h : BitVec 2) : State → Eff :=
  (VOp.bits (· ^^^ ·)).eff d a h b

/-- VXOR on a hart (06 R211). -/
def execVxor (d a b : BitVec 5) (h : BitVec 2) (s : State) : Host.Outcome State Fault Refusal :=
  runQueued (wordOf (.vxor d a b h)) (effVxor d a b h) s

/-- VSHL: element-wise, a shifted left by b (02 R65) (06 R211). -/
def effVshl (d a : VReg) (b : BitVec 5) (h : BitVec 2) : State → Eff :=
  (VOp.shift shlN).eff d a h b

/-- VSHL on a hart (06 R211). -/
def execVshl (d a b : BitVec 5) (h : BitVec 2) (s : State) : Host.Outcome State Fault Refusal :=
  runQueued (wordOf (.vshl d a b h)) (effVshl d a b h) s

/-- VSHR: element-wise, a shifted right logically by b (02 R65) (06 R211). -/
def effVshr (d a : VReg) (b : BitVec 5) (h : BitVec 2) : State → Eff :=
  (VOp.shift (fun _ => shrN)).eff d a h b

/-- VSHR on a hart (06 R211). -/
def execVshr (d a b : BitVec 5) (h : BitVec 2) (s : State) : Host.Outcome State Fault Refusal :=
  runQueued (wordOf (.vshr d a b h)) (effVshr d a b h) s

/-- VSAR: element-wise, a shifted right arithmetically by b (02 R65) (06 R211). -/
def effVsar (d a : VReg) (b : BitVec 5) (h : BitVec 2) : State → Eff :=
  (VOp.shift sarN).eff d a h b

/-- VSAR on a hart (06 R211). -/
def execVsar (d a b : BitVec 5) (h : BitVec 2) (s : State) : Host.Outcome State Fault Refusal :=
  runQueued (wordOf (.vsar d a b h)) (effVsar d a b h) s

/-- VSADD: element-wise, a + b clamped, signed (06 R211). -/
def effVsadd (d a : VReg) (b : BitVec 5) (h : BitVec 2) : State → Eff :=
  (VOp.clamped true (· + ·)).eff d a h b

/-- VSADD on a hart (06 R211). -/
def execVsadd (d a b : BitVec 5) (h : BitVec 2) (s : State) : Host.Outcome State Fault Refusal :=
  runQueued (wordOf (.vsadd d a b h)) (effVsadd d a b h) s

/-- VSADDU: element-wise, a + b clamped, unsigned (06 R211). -/
def effVsaddu (d a : VReg) (b : BitVec 5) (h : BitVec 2) : State → Eff :=
  (VOp.clamped false (· + ·)).eff d a h b

/-- VSADDU on a hart (06 R211). -/
def execVsaddu (d a b : BitVec 5) (h : BitVec 2) (s : State) : Host.Outcome State Fault Refusal :=
  runQueued (wordOf (.vsaddu d a b h)) (effVsaddu d a b h) s

/-- VSSUB: element-wise, a − b clamped, signed (06 R211). -/
def effVssub (d a : VReg) (b : BitVec 5) (h : BitVec 2) : State → Eff :=
  (VOp.clamped true (· - ·)).eff d a h b

/-- VSSUB on a hart (06 R211). -/
def execVssub (d a b : BitVec 5) (h : BitVec 2) (s : State) : Host.Outcome State Fault Refusal :=
  runQueued (wordOf (.vssub d a b h)) (effVssub d a b h) s

/-- VSSUBU: element-wise, a − b clamped, unsigned (06 R211). -/
def effVssubu (d a : VReg) (b : BitVec 5) (h : BitVec 2) : State → Eff :=
  (VOp.clamped false (· - ·)).eff d a h b

/-- VSSUBU on a hart (06 R211). -/
def execVssubu (d a b : BitVec 5) (h : BitVec 2) (s : State) : Host.Outcome State Fault Refusal :=
  runQueued (wordOf (.vssubu d a b h)) (effVssubu d a b h) s

/-- VABS: element-wise, the absolute value; −2^(EW−1) gives itself (06 R211). -/
def effVabs (d a : VReg) : State → Eff :=
  (VOp.int (fun w a _ _ => (toS w a).natAbs)).eff1 d a

/-- VABS on a hart (06 R211). -/
def execVabs (d a : BitVec 5) (s : State) : Host.Outcome State Fault Refusal :=
  runQueued (wordOf (.vabs d a)) (effVabs d a) s

/-- VCLZ: element-wise, leading zeros (06 R211). -/
def effVclz (d a : VReg) : State → Eff :=
  (VOp.int (fun w a _ _ => clzN w a)).eff1 d a

/-- VCLZ on a hart (06 R211). -/
def execVclz (d a : BitVec 5) (s : State) : Host.Outcome State Fault Refusal :=
  runQueued (wordOf (.vclz d a)) (effVclz d a) s

/-- VPOPC: element-wise, the number of 1 bits (06 R211). -/
def effVpopc (d a : VReg) : State → Eff :=
  (VOp.int (fun w a _ _ => popcN w a)).eff1 d a

/-- VPOPC on a hart (06 R211). -/
def execVpopc (d a : BitVec 5) (s : State) : Host.Outcome State Fault Refusal :=
  runQueued (wordOf (.vpopc d a)) (effVpopc d a) s

/-- The condition of a VCMP variant (06 R212). -/
def intCond (c : BitVec 3) (w a b : Nat) : Bool :=
  match c.toNat with
  | 0 => a == b
  | 1 => a != b
  | 2 => decide (toS w a < toS w b)
  | 3 => decide (toS w a ≤ toS w b)
  | 4 => decide (a < b)
  | 5 => decide (a ≤ b)
  | 6 => decide (toS w b < toS w a)
  | _ => decide (b < a)

/-- A comparison of va and b into a predicate (06 R208). -/
def effCompare (u : Use) (d : PReg) (a : VReg) (b : BitVec 5) (h2 : BitVec 2) (test : Hart → Nat → Nat → Nat → Bool × Flags) :
    State → Eff :=
  laneGoverned Hart.anyActive do
    let h := (← get).hart
    let w := h.ew1
    Act.legal (h.groupOk a w && h.srcOk h2 b w) false
    let oa := h.opnd a w (h.wantOf u w)
    let x := h.src h2 b w u
    Act.predicate (oa :: x.opnds) d fun h =>
      let ea := h.elems oa
      let eb := h.srcElem x
      fun i => test h w (ea i) (eb i)

/-- VCMP: an integer comparison into a predicate (06 R212). -/
def effVcmp (d : PReg) (a : VReg) (b : BitVec 5) (h : BitVec 2) (c : BitVec 3) : State → Eff :=
  effCompare .int d a b h fun _ w x y => (intCond c w x y, {})

/-- VCMP on a hart (06 R212). -/
def execVcmp (d : BitVec 3) (a b : BitVec 5) (h : BitVec 2) (c : BitVec 3) (s : State) : Host.Outcome State Fault Refusal :=
  runQueued (wordOf (.vcmp d a b h c)) (effVcmp d a b h c) s

/-- VSEL: a[i] where bit i of the selecting predicate is 1, else b; untyped, result RAW (06 R213). -/
def effVsel (d a : VReg) (b : BitVec 5) (h : BitVec 2) (p : PReg) : State → Eff :=
  ({ useA := .raw, useB := .raw, tag := fun _ _ => 0
     op := fun h _ i a b _ => (if (h.readP p).getLsbD i then a else b, {}) } : VOp).eff d a h b

/-- VSEL on a hart (06 R213). -/
def execVsel (d a b : BitVec 5) (h : BitVec 2) (p : BitVec 3) (s : State) : Host.Outcome State Fault Refusal :=
  runQueued (wordOf (.vsel d a b h p)) (effVsel d a b h p) s

/-- VMV: b into vd, result RAW (06 R214). -/
def effVmv (d : VReg) (b : BitVec 5) (h2 : BitVec 2) : State → Eff :=
  laneGoverned Hart.anyActive do
    let h := (← get).hart
    let w := h.ew1
    Act.legal (h.groupOk d w && h.srcOk h2 b w) false
    let x := h.src h2 b w .raw
    Act.elementwise x.opnds (h.opnd d w []) 0 fun h => let eb := h.srcElem x; fun i => (eb i, {})

/-- VMV on a hart (06 R214). -/
def execVmv (d b : BitVec 5) (h : BitVec 2) (s : State) : Host.Outcome State Fault Refusal := runQueued (wordOf (.vmv d b h)) (effVmv d b h) s

/-- VID: each element's index modulo 2^EW1 (06 R214). -/
def effVid (d : VReg) : State → Eff :=
  laneGoverned Hart.anyActive do
    let h := (← get).hart
    let w := h.ew1
    Act.legal (h.groupOk d w) false
    Act.elementwise [] (h.opnd d w []) (intTag w) fun _ i => (i % 2 ^ w, {})

/-- VID on a hart (06 R214). -/
def execVid (d : BitVec 5) (s : State) : Host.Outcome State Fault Refusal := runQueued (wordOf (.vid d)) (effVid d) s

/-- The index that VEXT and VINS name, if their shape names one (06 R215). -/
def Hart.index? (h : Hart) (h2 : BitVec 2) (b : BitVec 5) : Option Nat :=
  if h2 = 1 then some (h.readS b).toNat else if h2 = 2 then some b.toNat else none

/-- The lanes of VEXT and VINS: element idx, or every element of a shape that names none (06 R215). -/
def indexLanes (h2 : BitVec 2) (b : BitVec 5) (h : Hart) : Bool :=
  match h.index? h2 b with
  | some i => h.active i
  | none => h.anyActive

/-- The upper bits of an extracted element, by the tag of va (06 R215). The tag is compared whole: INTn or RAW with GB set is
taken as another tag, whose upper bits are zeros (DESIGN CHOICE, log 67). -/
def extFill (t : BitVec 6) (w v : Nat) : Word :=
  if t = 9 then BitVec.ofNat 64 (v + (2 ^ 64 - 2 ^ w))
  else if t = 0 ∨ t = 1 ∨ t = 2 ∨ t = 3 ∨ t = 4 ∨ t = 5 then BitVec.ofInt 64 (toS w v)
  else BitVec.ofNat 64 v

/-- VEXT: element idx of va into s_d; va is a group of EW1, legal and aligned as every group is (06 R206, R215; 01 R25; log 11). -/
def effVext (d : SReg) (a : VReg) (b : BitVec 5) (h2 : BitVec 2) : State → Eff :=
  laneGoverned (indexLanes h2 b) do
    let h := (← get).hart
    let w := h.ew1
    match h.index? h2 b with
    | none => Act.trap .illegal
    | some i =>
      Act.legal (h.groupOk a w) false
      let oa := h.opnd a w []
      Act.openStreams [oa] []
      Act.modifyHart fun h => h.writeS d (extFill (h.tag oa.reg) w (h.elems oa i))

/-- VEXT on a hart (06 R215). -/
def execVext (d a b : BitVec 5) (h : BitVec 2) (s : State) : Host.Outcome State Fault Refusal := runQueued (wordOf (.vext d a b h)) (effVext d a b h) s

/-- VINS: s_a into element idx of vd; the other elements and the tag stay (06 R215; log 11). -/
def effVins (d : VReg) (a : SReg) (b : BitVec 5) (h2 : BitVec 2) : State → Eff :=
  laneGoverned (indexLanes h2 b) do
    let h := (← get).hart
    let w := h.ew1
    match h.index? h2 b with
    | none => Act.trap .illegal
    | some i =>
      Act.legal (h.groupOk d w) false
      let od := h.opnd d w []
      Act.openStreams [] [od]
      Act.writeGroup od (setElem w (h.bitsOfOpnd od) i (h.readS a).toNat) id [i]

/-- VINS on a hart (06 R215). -/
def execVins (d a b : BitVec 5) (h : BitVec 2) (s : State) : Host.Outcome State Fault Refusal := runQueued (wordOf (.vins d a b h)) (effVins d a b h) s

/-- An exact conversion into a wider floating format (06 R216). -/
def widenFp (h : Hart) (w2 w1 x : Nat) : Nat × Flags :=
  let v := (h.fmt w2).unpack h.ftz x
  ((h.fmt w1).exact v, { nv := v.isSig })

/-- One element of VWIDEN by its kind (06 R216). -/
def widenElem (k : BitVec 3) (h : Hart) (w2 w1 x : Nat) : Nat × Flags :=
  if k = 0 then (ofS w1 (toS w2 x), {}) else if k = 1 then (x, {}) else widenFp h w2 w1 x

/-- VWIDEN of b of a shape, from EW2 to EW1 (04 R153, 06 R216). -/
def effVwidenOf (h2 : BitVec 2) (d : VReg) (b : BitVec 5) (k : BitVec 3) : State → Eff :=
  laneGoverned Hart.anyActive do
    let h := (← get).hart
    let u : Use := if k = 2 then .fp else .int
    Act.legal (k.toNat < 3 && decide (h.ew2 < h.ew1) && h.groupOk d h.ew1 && h.srcOk h2 b h.ew2) false
    let x := h.src h2 b h.ew2 u
    Act.elementwise x.opnds (h.opnd d h.ew1 []) (if k = 2 then h.fpTag h.ew1 else intTag h.ew1) fun h =>
      let eb := h.srcElem x
      fun i => widenElem k h h.ew2 h.ew1 (eb i)

/-- VWIDEN of a vector register (06 R216). -/
def effVwiden (d : VReg) (b : BitVec 5) (k : BitVec 3) : State → Eff := effVwidenOf 0 d b k

/-- VWIDEN on a hart (06 R216). -/
def execVwiden (d b : BitVec 5) (k : BitVec 3) (s : State) : Host.Outcome State Fault Refusal := runQueued (wordOf (.vwiden d b k)) (effVwiden d b k) s

/-- One element of VNSHR: shifted right with one rounding, then clamped or wrapped (06 R217). -/
def narrowElem (h : Hart) (k : BitVec 3) (w2 w1 x n : Nat) : Nat × Flags :=
  let v : Int := if k = 0 then toS w2 x else x
  let q := signed (v < 0) (roundShift h.rm (v < 0) v.natAbs (n % 256)).1
  if h.sat then saturate (k = 0) w1 q else (ofS w1 q, {})

/-- VNSHR: the narrowing shift (06 R217). -/
def effVnshr (d a : VReg) (b : BitVec 5) (h2 : BitVec 2) (k : BitVec 3) : State → Eff :=
  laneGoverned Hart.anyActive do
    let h := (← get).hart
    Act.legal (k.toNat < 2 && decide (h.ew1 < h.ew2) && h.groupOk d h.ew1 && h.groupOk a h.ew2 && h.srcOk h2 b h.ew2) true
    let oa := h.opnd a h.ew2 [intTag h.ew2]
    let x := h.src h2 b h.ew2 .raw
    Act.elementwise (oa :: x.opnds) (h.opnd d h.ew1 []) (intTag h.ew1) fun h =>
      let ea := h.elems oa
      let eb := h.srcElem x
      fun i => narrowElem h k h.ew2 h.ew1 (ea i) (eb i)

/-- VNSHR on a hart (06 R217). -/
def execVnshr (d a b : BitVec 5) (h : BitVec 2) (k : BitVec 3) (s : State) : Host.Outcome State Fault Refusal :=
  runQueued (wordOf (.vnshr d a b h k)) (effVnshr d a b h k) s

end Sys2Proof.Machine
end

