-- ==== Sys2Proof/Machine/VFp.lean ====
section
/-! DEFINITION. Floating vector operations, approximations, conversions and mixed widths: majors 0x13 to 0x15 (06 R218 to
R226). -/

namespace Sys2Proof.Machine

/-- A value before rounding, rounded into a format by MODE, with the flags of both. -/
def FFmt.deliver (f : FFmt) (h : Hart) (sat : Bool) (v : FVal × Flags) : Nat × Flags :=
  let (w, g) := f.round (h.fenv sat) v.1
  (w, v.2.or g)

/-- A rounding operation in the floating format of EW1 (06 R218). -/
def VOp.fp (f : RM → FVal → FVal → FVal → FVal × Flags) : VOp where
  useA := .fp
  useB := .fp
  tag := fun h w => h.fpTag w
  rounds := true
  op := fun h w _ a b d =>
    let u := (h.fmt w).unpack h.ftz
    (h.fmt w).deliver h false (f h.rm (u a) (u b) (u d))

/-- A minimum or maximum (02 R75, 06 R218). -/
def VOp.minmax (max : Bool) : VOp where
  useA := .fp
  useB := .fp
  tag := fun h w => h.fpTag w
  op := fun h w _ a b _ => (h.fmt w).minmax h.ftz max a b

/-- VFADD: element-wise, a + b (06 R218). -/
def effVfadd (d a : VReg) (b : BitVec 5) (h : BitVec 2) : State → Eff :=
  (VOp.fp (fun r a b _ => FVal.add r a b)).eff d a h b

/-- VFADD on a hart (06 R218). -/
def execVfadd (d a b : BitVec 5) (h : BitVec 2) (s : State) : Host.Outcome State Fault Refusal :=
  runQueued (wordOf (.vfadd d a b h)) (effVfadd d a b h) s

/-- VFSUB: element-wise, a − b (06 R218). -/
def effVfsub (d a : VReg) (b : BitVec 5) (h : BitVec 2) : State → Eff :=
  (VOp.fp (fun r a b _ => FVal.add r a b.negate)).eff d a h b

/-- VFSUB on a hart (06 R218). -/
def execVfsub (d a b : BitVec 5) (h : BitVec 2) (s : State) : Host.Outcome State Fault Refusal :=
  runQueued (wordOf (.vfsub d a b h)) (effVfsub d a b h) s

/-- VFMUL: element-wise, a × b (06 R218). -/
def effVfmul (d a : VReg) (b : BitVec 5) (h : BitVec 2) : State → Eff :=
  (VOp.fp (fun _ a b _ => FVal.mul a b)).eff d a h b

/-- VFMUL on a hart (06 R218). -/
def execVfmul (d a b : BitVec 5) (h : BitVec 2) (s : State) : Host.Outcome State Fault Refusal :=
  runQueued (wordOf (.vfmul d a b h)) (effVfmul d a b h) s

/-- VFMA: element-wise, a × b + vd, one rounding (06 R218). -/
def effVfma (d a : VReg) (b : BitVec 5) (h : BitVec 2) : State → Eff :=
  ({ VOp.fp (fun r a b d => FVal.fma r a b d) with addend := true }).eff d a h b

/-- VFMA on a hart (06 R218). -/
def execVfma (d a b : BitVec 5) (h : BitVec 2) (s : State) : Host.Outcome State Fault Refusal :=
  runQueued (wordOf (.vfma d a b h)) (effVfma d a b h) s

/-- VFNMA: element-wise, −(a × b) + vd, one rounding (06 R218). -/
def effVfnma (d a : VReg) (b : BitVec 5) (h : BitVec 2) : State → Eff :=
  ({ VOp.fp (fun r a b d => FVal.fma r a.negate b d) with addend := true }).eff d a h b

/-- VFNMA on a hart (06 R218). -/
def execVfnma (d a b : BitVec 5) (h : BitVec 2) (s : State) : Host.Outcome State Fault Refusal :=
  runQueued (wordOf (.vfnma d a b h)) (effVfnma d a b h) s

/-- VFMS: element-wise, a × b − vd, one rounding (06 R218). -/
def effVfms (d a : VReg) (b : BitVec 5) (h : BitVec 2) : State → Eff :=
  ({ VOp.fp (fun r a b d => FVal.fma r a b d.negate) with addend := true }).eff d a h b

/-- VFMS on a hart (06 R218). -/
def execVfms (d a b : BitVec 5) (h : BitVec 2) (s : State) : Host.Outcome State Fault Refusal :=
  runQueued (wordOf (.vfms d a b h)) (effVfms d a b h) s

/-- VFDIV: element-wise, a / b, correctly rounded (06 R218). -/
def effVfdiv (d a : VReg) (b : BitVec 5) (h : BitVec 2) : State → Eff :=
  (VOp.fp (fun _ a b _ => FVal.div a b)).eff d a h b

/-- VFDIV on a hart (06 R218). -/
def execVfdiv (d a b : BitVec 5) (h : BitVec 2) (s : State) : Host.Outcome State Fault Refusal :=
  runQueued (wordOf (.vfdiv d a b h)) (effVfdiv d a b h) s

/-- VFSQRT: element-wise, √a, correctly rounded (06 R218). -/
def effVfsqrt (d a : VReg) : State → Eff :=
  (VOp.fp (fun _ a _ _ => a.sqrt)).eff1 d a

/-- VFSQRT on a hart (06 R218). -/
def execVfsqrt (d a : BitVec 5) (s : State) : Host.Outcome State Fault Refusal :=
  runQueued (wordOf (.vfsqrt d a)) (effVfsqrt d a) s

/-- VFMIN: element-wise, the minimum of 02 R75 (06 R218). -/
def effVfmin (d a : VReg) (b : BitVec 5) (h : BitVec 2) : State → Eff :=
  (VOp.minmax false).eff d a h b

/-- VFMIN on a hart (06 R218). -/
def execVfmin (d a b : BitVec 5) (h : BitVec 2) (s : State) : Host.Outcome State Fault Refusal :=
  runQueued (wordOf (.vfmin d a b h)) (effVfmin d a b h) s

/-- VFMAX: element-wise, the maximum of 02 R75 (06 R218). -/
def effVfmax (d a : VReg) (b : BitVec 5) (h : BitVec 2) : State → Eff :=
  (VOp.minmax true).eff d a h b

/-- VFMAX on a hart (06 R218). -/
def execVfmax (d a b : BitVec 5) (h : BitVec 2) (s : State) : Host.Outcome State Fault Refusal :=
  runQueued (wordOf (.vfmax d a b h)) (effVfmax d a b h) s

/-- The sign that VFSGN gives (06 R219). -/
def signOf (k : BitVec 3) (x y : Nat) : Nat := if k = 0 then y else if k = 1 then 1 - y else (x + y) % 2

/-- VFSGN: the magnitude of a with a sign from b (06 R219). -/
def effVfsgn (d a : VReg) (b : BitVec 5) (h : BitVec 2) (k : BitVec 3) (s : State) : Eff :=
  let v : VOp :=
    { useA := .fp, useB := .fp, tag := fun h w => h.fpTag w
      op := fun _ w _ a b _ =>
        (a % 2 ^ (w - 1) + signOf k (a / 2 ^ (w - 1)) (b / 2 ^ (w - 1)) * 2 ^ (w - 1), {}) }
  if k.toNat < 3 then v.eff d a h b s else laneGoverned Hart.anyActive (Act.trap .illegal) s

/-- VFSGN on a hart (06 R219). -/
def execVfsgn (d a b : BitVec 5) (h : BitVec 2) (k : BitVec 3) (s : State) : Host.Outcome State Fault Refusal :=
  runQueued (wordOf (.vfsgn d a b h k)) (effVfsgn d a b h k) s

/-- An approximation (06 R220, R221; log 7). -/
def VOp.approx (x : Approx) : VOp where
  useA := .fp
  useB := .raw
  tag := fun h w => h.fpTag w
  rounds := true
  op := fun h w _ a _ _ => x.apply (h.fmt w) h.ftz a

/-- VFRCP: element-wise, the approximation of 1 / a (06 R220, R221). -/
def effVfrcp (d a : VReg) : State → Eff :=
  (VOp.approx .rcp).eff1 d a

/-- VFRCP on a hart (06 R220, R221). -/
def execVfrcp (d a : BitVec 5) (s : State) : Host.Outcome State Fault Refusal :=
  runQueued (wordOf (.vfrcp d a)) (effVfrcp d a) s

/-- VFRSQ: element-wise, the approximation of 1 / √a (06 R220, R221). -/
def effVfrsq (d a : VReg) : State → Eff :=
  (VOp.approx .rsq).eff1 d a

/-- VFRSQ on a hart (06 R220, R221). -/
def execVfrsq (d a : BitVec 5) (s : State) : Host.Outcome State Fault Refusal :=
  runQueued (wordOf (.vfrsq d a)) (effVfrsq d a) s

/-- VFEXP2: element-wise, the approximation of 2^a (06 R220, R221). -/
def effVfexp2 (d a : VReg) : State → Eff :=
  (VOp.approx .exp2).eff1 d a

/-- VFEXP2 on a hart (06 R220, R221). -/
def execVfexp2 (d a : BitVec 5) (s : State) : Host.Outcome State Fault Refusal :=
  runQueued (wordOf (.vfexp2 d a)) (effVfexp2 d a) s

/-- VFLOG2: element-wise, the approximation of log2 a (06 R220, R221). -/
def effVflog2 (d a : VReg) : State → Eff :=
  (VOp.approx .log2).eff1 d a

/-- VFLOG2 on a hart (06 R220, R221). -/
def execVflog2 (d a : BitVec 5) (s : State) : Host.Outcome State Fault Refusal :=
  runQueued (wordOf (.vflog2 d a)) (effVflog2 d a) s

/-- One element of VFCVT by its kind (06 R222). -/
def convertElem (h : Hart) (k : BitVec 3) (w2 w1 x : Nat) : Nat × Flags :=
  if k = 0 then
    let v := (h.fmt w2).unpack h.ftz x
    (h.fmt w1).deliver h h.sat (v, { nv := v.isSig })
  else if k = 1 ∨ k = 2 then
    let (i, f) := ((h.fmt w2).unpack h.ftz x).toInt h.rm (k = 1) w1
    (ofS w1 i, f)
  else (h.fmt w1).deliver h false (FVal.ofInt (if k = 3 then toS w2 x else x), {})

/-- VFCVT: from EW2 to EW1 (06 R222). -/
def effVfcvt (d a : VReg) (k : BitVec 3) : State → Eff :=
  laneGoverned Hart.anyActive do
    let h := (← get).hart
    Act.legal (k.toNat < 5 && h.groupOk d h.ew1 && h.groupOk a h.ew2) true
    let oa := h.opnd a h.ew2 (if k.toNat < 3 then [h.fpTag h.ew2] else [intTag h.ew2])
    Act.elementwise [oa] (h.opnd d h.ew1 []) (if k = 1 ∨ k = 2 then intTag h.ew1 else h.fpTag h.ew1) fun h =>
      let ea := h.elems oa
      fun i => convertElem h k h.ew2 h.ew1 (ea i)

/-- VFCVT on a hart (06 R222). -/
def execVfcvt (d a : BitVec 5) (k : BitVec 3) (s : State) : Host.Outcome State Fault Refusal := runQueued (wordOf (.vfcvt d a k)) (effVfcvt d a k) s

/-- VFCLASS: element-wise, the class of a as an integer (06 R223). -/
def effVfclass (d a : VReg) : State → Eff :=
  ({ useA := .fp, useB := .raw, tag := fun _ w => intTag w
     op := fun h w _ a _ _ => (if 16 ≤ w then 2 ^ (h.fmt w).cls h.ftz a else (h.fmt w).cls h.ftz a, {}) } : VOp).eff1 d a

/-- VFCLASS on a hart (06 R223). -/
def execVfclass (d a : BitVec 5) (s : State) : Host.Outcome State Fault Refusal :=
  runQueued (wordOf (.vfclass d a)) (effVfclass d a) s

/-- A VFCMP variant on two values (06 R224). -/
def fpCond (c : BitVec 3) (x y : FVal) : Bool × Flags :=
  let nan := x.isNan || y.isNan
  let sg : Flags := { nv := x.isSig || y.isSig }
  match c.toNat with
  | 0 => fpCompare false (· == 0) x y
  | 1 => fpCompare false (· != 0) x y
  | 2 => fpCompare true (· < 0) x y
  | 3 => fpCompare true (· ≤ 0) x y
  | 4 => fpCompare true (· > 0) x y
  | 5 => fpCompare true (· ≥ 0) x y
  | 6 => (nan, sg)
  | _ => (!nan, sg)

/-- VFCMP: a floating comparison into a predicate (06 R224). -/
def effVfcmp (d : PReg) (a : VReg) (b : BitVec 5) (h : BitVec 2) (c : BitVec 3) : State → Eff :=
  effCompare .fp d a b h fun h w x y => fpCond c ((h.fmt w).unpack h.ftz x) ((h.fmt w).unpack h.ftz y)

/-- VFCMP on a hart (06 R224). -/
def execVfcmp (d : BitVec 3) (a b : BitVec 5) (h : BitVec 2) (c : BitVec 3) (s : State) : Host.Outcome State Fault Refusal :=
  runQueued (wordOf (.vfcmp d a b h c)) (effVfcmp d a b h c) s

/-- VMULM: the exact product at twice the wider width (06 R225). -/
def effVmulm (d a : VReg) (b : BitVec 5) (h2 : BitVec 2) (k : BitVec 3) : State → Eff :=
  laneGoverned Hart.anyActive do
    let h := (← get).hart
    let w := 2 * max h.ew1 h.ew2
    Act.legal (k.toNat < 3 && decide (w ≤ 64) && h.groupOk d w && h.groupOk a h.ew1 && h.srcOk h2 b h.ew2) false
    let oa := h.opnd a h.ew1 [intTag h.ew1]
    let x := h.src h2 b h.ew2 .int
    Act.elementwise (oa :: x.opnds) (h.opnd d w []) (intTag w) fun h =>
      let ea := h.elems oa
      let eb := h.srcElem x
      fun i =>
        let p : Int := if k = 1 then ea i else toS h.ew1 (ea i)
        let q : Int := if k = 0 then toS h.ew2 (eb i) else eb i
        (ofS w (p * q), {})

/-- VMULM on a hart (06 R225). -/
def execVmulm (d a b : BitVec 5) (h : BitVec 2) (k : BitVec 3) (s : State) : Host.Outcome State Fault Refusal :=
  runQueued (wordOf (.vmulm d a b h k)) (effVmulm d a b h k) s

/-- VFMAM: a × b + vd into FP32 or FP64, one rounding (06 R226). -/
def effVfmam (d a : VReg) (b : BitVec 5) (h2 : BitVec 2) : State → Eff :=
  laneGoverned Hart.anyActive do
    let h := (← get).hart
    let m := max h.ew1 h.ew2
    let w := if m ≤ 16 then 32 else 64
    Act.legal (decide (m ≤ 32) && h.groupOk d w && h.groupOk a h.ew1 && h.srcOk h2 b h.ew2) true
    let oa := h.opnd a h.ew1 [h.fpTag h.ew1]
    let x := h.src h2 b h.ew2 .fp
    let od := h.opnd d w [h.fpTag w]
    Act.elementwise (oa :: x.opnds ++ [od]) od (h.fpTag w) fun h =>
      let ea := h.elems oa
      let eb := h.srcElem x
      let ed := h.elems od
      fun i => (h.fmt w).deliver h false (FVal.fma h.rm ((h.fmt h.ew1).unpack h.ftz (ea i))
        ((h.fmt h.ew2).unpack h.ftz (eb i)) ((h.fmt w).unpack h.ftz (ed i)))

/-- VFMAM on a hart (06 R226). -/
def execVfmam (d a b : BitVec 5) (h : BitVec 2) (s : State) : Host.Outcome State Fault Refusal := runQueued (wordOf (.vfmam d a b h)) (effVfmam d a b h) s

end Sys2Proof.Machine
end

