-- ==== Sys2Proof/Machine/VPerm.lean ====
section
/-! DEFINITION. Reductions, slides, permutations, scans, ranking and predicate operations: majors 0x16 to 0x18 (02 R91 to
R93; 06 R207 to R210, R227 to R236). -/

namespace Sys2Proof.Machine

/-! ### Reductions -/

/-- The lane of a reduction: its result (06 R227). -/
def anyLength (h : Hart) : Bool := decide (0 < h.vl.toNat)

/-- The bits of a register above element 0, as tail elements (06 R227). -/
def Hart.aboveFirst (h : Hart) (w old : Nat) : Nat := if h.tailZero then 0 else old / 2 ^ w * 2 ^ w

/-- A reduction: the fold of a start value and the active elements of va (06 R227). -/
def effReduce (u : Use) (rounds : Bool) (d a : VReg) (b : BitVec 5) (h1 : BitVec 1)
    (f : Hart → Nat → Nat → List Nat → Nat × Flags) : State → Eff :=
  laneGoverned anyLength do
    let h := (← get).hart
    let w := h.ew1
    Act.legal (h.groupOk a w && h.vstart = 0) rounds
    let oa := h.opnd a w (h.wantOf u w)
    let x : Src := if h1 = 0 then .vec ⟨b.toNat, 1, w, h.wantOf u w⟩ else .const ((h.readS b).toNat % 2 ^ w)
    let od : Opnd := ⟨d.toNat, 1, w, []⟩
    Act.ready (oa :: x.opnds) [od] (oa :: x.opnds)
    let h := (← get).hart
    let ea := h.elems oa
    let (v, g) := f h w (h.srcElem x 0) (h.activeList.map ea)
    Act.writeVec od (v % 2 ^ w + h.aboveFirst w (h.bitsOfOpnd od))
      (match u with | .fp => h.fpTag w | _ => intTag w) [0]
    Act.modifyHart fun h => h.raise g

/-- An integer reduction (02 R92, 06 R227). -/
def effReduceInt (d a : VReg) (b : BitVec 5) (h1 : BitVec 1) (f : Nat → Nat → Nat → Nat) : State → Eff :=
  effReduce .int false d a b h1 fun _ w s xs => (xs.foldl (f w) s, {})

/-- A floating minimum or maximum reduction (02 R75, 06 R227). -/
def effReduceMinmax (max : Bool) (d a : VReg) (b : BitVec 5) (h1 : BitVec 1) : State → Eff :=
  effReduce .fp false d a b h1 fun h w s xs =>
    xs.foldl (fun r x => let (v, g) := (h.fmt w).minmax h.ftz max r.1 x; (v, r.2.or g)) (s, {})

/-- VREDSUM: the wrapping sum of the start value and the active elements (06 R227). -/
def effVredsum (d a : VReg) (b : BitVec 5) (h : BitVec 1) : State → Eff :=
  effReduceInt d a b h fun w x y => (x + y) % 2 ^ w

/-- VREDSUM on a hart (06 R227). -/
def execVredsum (d a b : BitVec 5) (h : BitVec 1) (s : State) : Host.Outcome State Fault Refusal :=
  runQueued (wordOf (.vredsum d a b h)) (effVredsum d a b h) s

/-- VREDMIN: the signed minimum of the start value and the active elements (06 R227). -/
def effVredmin (d a : VReg) (b : BitVec 5) (h : BitVec 1) : State → Eff :=
  effReduceInt d a b h fun w x y => if toS w y < toS w x then y else x

/-- VREDMIN on a hart (06 R227). -/
def execVredmin (d a b : BitVec 5) (h : BitVec 1) (s : State) : Host.Outcome State Fault Refusal :=
  runQueued (wordOf (.vredmin d a b h)) (effVredmin d a b h) s

/-- VREDMAX: the signed maximum of the start value and the active elements (06 R227). -/
def effVredmax (d a : VReg) (b : BitVec 5) (h : BitVec 1) : State → Eff :=
  effReduceInt d a b h fun w x y => if toS w x < toS w y then y else x

/-- VREDMAX on a hart (06 R227). -/
def execVredmax (d a b : BitVec 5) (h : BitVec 1) (s : State) : Host.Outcome State Fault Refusal :=
  runQueued (wordOf (.vredmax d a b h)) (effVredmax d a b h) s

/-- VREDMINU: the unsigned minimum of the start value and the active elements (06 R227). -/
def effVredminu (d a : VReg) (b : BitVec 5) (h : BitVec 1) : State → Eff :=
  effReduceInt d a b h fun _ x y => min x y

/-- VREDMINU on a hart (06 R227). -/
def execVredminu (d a b : BitVec 5) (h : BitVec 1) (s : State) : Host.Outcome State Fault Refusal :=
  runQueued (wordOf (.vredminu d a b h)) (effVredminu d a b h) s

/-- VREDMAXU: the unsigned maximum of the start value and the active elements (06 R227). -/
def effVredmaxu (d a : VReg) (b : BitVec 5) (h : BitVec 1) : State → Eff :=
  effReduceInt d a b h fun _ x y => max x y

/-- VREDMAXU on a hart (06 R227). -/
def execVredmaxu (d a b : BitVec 5) (h : BitVec 1) (s : State) : Host.Outcome State Fault Refusal :=
  runQueued (wordOf (.vredmaxu d a b h)) (effVredmaxu d a b h) s

/-- VREDAND: bitwise AND of the start value and the active elements (06 R227). -/
def effVredand (d a : VReg) (b : BitVec 5) (h : BitVec 1) : State → Eff :=
  effReduceInt d a b h fun _ x y => x &&& y

/-- VREDAND on a hart (06 R227). -/
def execVredand (d a b : BitVec 5) (h : BitVec 1) (s : State) : Host.Outcome State Fault Refusal :=
  runQueued (wordOf (.vredand d a b h)) (effVredand d a b h) s

/-- VREDOR: bitwise OR of the start value and the active elements (06 R227). -/
def effVredor (d a : VReg) (b : BitVec 5) (h : BitVec 1) : State → Eff :=
  effReduceInt d a b h fun _ x y => x ||| y

/-- VREDOR on a hart (06 R227). -/
def execVredor (d a b : BitVec 5) (h : BitVec 1) (s : State) : Host.Outcome State Fault Refusal :=
  runQueued (wordOf (.vredor d a b h)) (effVredor d a b h) s

/-- VREDXOR: bitwise XOR of the start value and the active elements (06 R227). -/
def effVredxor (d a : VReg) (b : BitVec 5) (h : BitVec 1) : State → Eff :=
  effReduceInt d a b h fun _ x y => x ^^^ y

/-- VREDXOR on a hart (06 R227). -/
def execVredxor (d a b : BitVec 5) (h : BitVec 1) (s : State) : Host.Outcome State Fault Refusal :=
  runQueued (wordOf (.vredxor d a b h)) (effVredxor d a b h) s

/-- VFREDSUM: the floating sum in tree or sequential order (02 R91) (06 R227). -/
def effVfredsum (d a : VReg) (b : BitVec 5) (h : BitVec 1) : State → Eff :=
  effReduce .fp true d a b h fun h w s xs => (h.fmt w).reduceSum (h.fenv false) h.ordered s xs

/-- VFREDSUM on a hart (06 R227). -/
def execVfredsum (d a b : BitVec 5) (h : BitVec 1) (s : State) : Host.Outcome State Fault Refusal :=
  runQueued (wordOf (.vfredsum d a b h)) (effVfredsum d a b h) s

/-- VFREDMIN: the floating minimum (06 R227). -/
def effVfredmin (d a : VReg) (b : BitVec 5) (h : BitVec 1) : State → Eff :=
  effReduceMinmax false d a b h

/-- VFREDMIN on a hart (06 R227). -/
def execVfredmin (d a b : BitVec 5) (h : BitVec 1) (s : State) : Host.Outcome State Fault Refusal :=
  runQueued (wordOf (.vfredmin d a b h)) (effVfredmin d a b h) s

/-- VFREDMAX: the floating maximum (06 R227). -/
def effVfredmax (d a : VReg) (b : BitVec 5) (h : BitVec 1) : State → Eff :=
  effReduceMinmax true d a b h

/-- VFREDMAX on a hart (06 R227). -/
def execVfredmax (d a b : BitVec 5) (h : BitVec 1) (s : State) : Host.Outcome State Fault Refusal :=
  runQueued (wordOf (.vfredmax d a b h)) (effVfredmax d a b h) s

/-! ### Slides and permutations -/

/-- The offset of a slide (06 R228). -/
def Hart.slideBy (h : Hart) (h2 : BitVec 2) (b : BitVec 5) (w : Nat) : Nat :=
  if h2 = 0 then h.elems (h.opnd b w []) 0 else if h2 = 1 then (h.readS b).toNat else b.toNat

/-- A slide: Op on the offset, the source, the old destination and the index; untyped, with the format of va (06 R228). It sets
vd's tag also where no active element lies at or above the offset and none takes a new value (DEDUCED, log 67). -/
def effSlide (d a : VReg) (b : BitVec 5) (h2 : BitVec 2) (f : Nat → Nat → (Nat → Nat) → (Nat → Nat) → Nat → Nat) :
    State → Eff :=
  laneGoverned Hart.anyActive do
    let h := (← get).hart
    let w := h.ew1
    Act.legal (h.groupOk d w && h.groupOk a w && h.srcOk h2 b w) false
    let oa := h.opnd a w []
    let od := h.opnd d w []
    let ob := if h2 = 0 then [h.opnd b w []] else []
    Act.openStreams (oa :: ob) [od]
    let h := (← get).hart
    let ea := h.elems oa
    let ed := h.elems od
    let off := h.slideBy h2 b w
    let (v, _) := h.loop w (h.bitsOfOpnd od) fun i => (f h.vlmax.toNat off ea ed i, {})
    Act.writeVec od v (fmtOnly (h.tag oa.reg)) h.activeList

/-- VSLIDEUP: vd[i] takes va[i − off] from off on (06 R228). -/
def effVslideup (d a : VReg) (b : BitVec 5) (h : BitVec 2) : State → Eff :=
  effSlide d a b h fun _ off ea ed i => if off ≤ i then ea (i - off) else ed i

/-- VSLIDEUP on a hart (06 R228). -/
def execVslideup (d a b : BitVec 5) (h : BitVec 2) (s : State) : Host.Outcome State Fault Refusal :=
  runQueued (wordOf (.vslideup d a b h)) (effVslideup d a b h) s

/-- VSLIDEDN: vd[i] takes va[i + off] below VLMAX, else 0 (06 R228). -/
def effVslidedn (d a : VReg) (b : BitVec 5) (h : BitVec 2) : State → Eff :=
  effSlide d a b h fun m off ea _ i => if i + off < m then ea (i + off) else 0

/-- VSLIDEDN on a hart (06 R228). -/
def execVslidedn (d a b : BitVec 5) (h : BitVec 2) (s : State) : Host.Outcome State Fault Refusal :=
  runQueued (wordOf (.vslidedn d a b h)) (effVslidedn d a b h) s

/-- VPERM: vd[i] takes va[j] with j = vb[i] at EW2, or 0 at and above VLMAX (06 R229). -/
def effVperm (d a b : VReg) : State → Eff :=
  laneGoverned Hart.anyActive do
    let h := (← get).hart
    let w := h.ew1
    Act.legal (h.groupOk d w && h.groupOk a w && h.groupOk b h.ew2) false
    let oa := h.opnd a w []
    let ob := h.opnd b h.ew2 []
    let od := h.opnd d w []
    Act.openStreams [oa, ob] [od]
    let h := (← get).hart
    let ea := h.elems oa
    let eb := h.elems ob
    let (v, _) := h.loop w (h.bitsOfOpnd od) fun i => (if eb i < h.vlmax.toNat then ea (eb i) else 0, {})
    Act.writeVec od v (fmtOnly (h.tag oa.reg)) h.activeList

/-- VPERM on a hart (06 R229). -/
def execVperm (d a b : BitVec 5) (s : State) : Host.Outcome State Fault Refusal := runQueued (wordOf (.vperm d a b)) (effVperm d a b) s

/-- Elements from index 0 of a string of bits, with the rest as tail elements. -/
def Hart.front (h : Hart) (w old : Nat) (xs : List Nat) : Nat :=
  assemble w xs + if h.tailZero then 0 else old / 2 ^ (w * xs.length) * 2 ^ (w * xs.length)

/-- A cross-element instruction on va at EW1, which VSTART cannot resume (06 R207): the bits and the elements it writes. -/
def effCross (use : Hart → Nat → List (BitVec 6)) (tag : Hart → Nat → Opnd → BitVec 6) (rounds : Bool) (d a : VReg)
    (f : Hart → Nat → (Nat → Nat) → Nat → (Nat × List Nat) × Flags) : State → Eff :=
  laneGoverned Hart.anyGuarded do
    let h := (← get).hart
    let w := h.ew1
    Act.legal (h.groupOk d w && h.groupOk a w && h.vstart = 0) rounds
    let oa := h.opnd a w (use h w)
    let od := h.opnd d w []
    Act.ready [oa] [od] [oa]
    let h := (← get).hart
    let ((v, idx), g) := f h w (h.elems oa) (h.bitsOfOpnd od)
    Act.writeVec od v (tag h w oa) idx
    Act.modifyHart fun h => h.raise g

/-- VCOMPRESS: the active elements of va packed to the front (06 R230). -/
def effVcompress (d a : VReg) : State → Eff :=
  effCross (fun _ _ => []) (fun h _ oa => fmtOnly (h.tag oa.reg)) false d a fun h w ea old =>
    let xs := h.activeList.map ea
    ((h.front w old xs, List.range xs.length), {})

/-- VCOMPRESS on a hart (06 R230). -/
def execVcompress (d a : BitVec 5) (s : State) : Host.Outcome State Fault Refusal := runQueued (wordOf (.vcompress d a)) (effVcompress d a) s

/-- VEXPAND: consecutive elements of va to the active positions (06 R230). -/
def effVexpand (d a : VReg) : State → Eff :=
  effCross (fun _ _ => []) (fun h _ oa => fmtOnly (h.tag oa.reg)) false d a fun h w ea old =>
    let (v, _) := h.loop w old fun i => (ea ((h.activeList.filter (· < i)).length), {})
    ((v, h.activeList), {})

/-- VEXPAND on a hart (06 R230). -/
def execVexpand (d a : BitVec 5) (s : State) : Host.Outcome State Fault Refusal := runQueued (wordOf (.vexpand d a)) (effVexpand d a) s

/-- The inclusive running sums of elements, each with its index (02 R93). -/
def runningSums (add : Nat → Nat → Nat × Flags) (ea : Nat → Nat) : Option Nat → List Nat → List (Nat × Nat) × Flags
  | _, [] => ([], {})
  | acc, i :: is =>
    let (x, g) :=
      match acc with
      | none => (ea i, Flags.none)
      | some p => add p (ea i)
    let (r, g') := runningSums add ea (some x) is
    ((i, x) :: r, g.or g')

/-- VSCAN: the inclusive sum over the active elements, integer or floating (02 R93, 06 R231). -/
def effVscan (d a : VReg) (k : BitVec 1) : State → Eff :=
  effCross (fun h w => if k = 0 then [intTag w] else [h.fpTag w])
    (fun h w _ => if k = 0 then intTag w else h.fpTag w) (k = 1) d a fun h w ea old =>
      let add := fun (x y : Nat) => if k = 0 then ((x + y) % 2 ^ w, Flags.none) else (h.fmt w).add (h.fenv false) x y
      let (sums, g) := runningSums add ea none h.activeList
      let (v, _) := h.loop w old fun i => ((sums.lookup i).getD 0, {})
      ((v, h.activeList), g)

/-- VSCAN on a hart (06 R231). -/
def execVscan (d a : BitVec 5) (k : BitVec 1) (s : State) : Host.Outcome State Fault Refusal := runQueued (wordOf (.vscan d a k)) (effVscan d a k) s

/-! ### Ranking (06 R232, R233) -/

/-- An element put into a list of descending values; it goes behind equal ones. -/
def rankInto (above : Nat → Nat → Bool) (i : Nat) : List Nat → List Nat
  | [] => [i]
  | j :: js => if above i j then i :: j :: js else j :: rankInto above i js

/-- Indices by descending value, equal values by ascending index. -/
def rank (above : Nat → Nat → Bool) (is : List Nat) : List Nat := is.foldl (fun acc i => rankInto above i acc) []

/-- The sentinel: the most negative value (06 R233). -/
def sentinel (fl : Option FFmt) (w : Nat) : Nat :=
  match fl with
  | none => 2 ^ (w - 1)
  | some f => f.signBit true + f.largest + f.hasInf.toNat

/-- VTOPK: the k largest active values and their indices (06 R232; log 27). With k = 0 it writes no element and still sets the tags
of vd and of the index group (DEDUCED, log 67). -/
def effVtopk (d a : VReg) (b : SReg) (k : BitVec 1) : State → Eff :=
  laneGoverned Hart.anyGuarded do
    let h := (← get).hart
    let w := h.ew1
    let ok := match h.group8 32 with
      | none => false
      | some g => decide (d.toNat + 8 + max 1 (g / 8) ≤ 32 ∧ (g ≤ 8 ∨ (d.toNat + 8) % (g / 8) = 0))
    Act.legal (h.groupOk d w && h.groupOk a w && ok && h.vstart = 0) false
    let n := (h.readS b).toNat
    let oa := h.opnd a w []
    let od := h.opnd d w []
    let oi : Opnd := ⟨d.toNat + 8, max 1 ((h.group8 32).getD 8 / 8), 32, []⟩
    Act.openStreams [oa] [od, oi]
    let h := (← get).hart
    let t := fmtOnly (h.tag oa.reg)
    Act.require (t = 0 ∨ t = intTag w ∨ t = h.fpTag w) (.format (h.tag oa.reg) (h.fpTag w) oa.reg)
    let fl := if t = h.fpTag w then some (h.fmt w) else none
    let ea := h.elems oa
    let val := fun i => ((h.fmt w).unpack false (ea i))
    let keep := fun i =>
      match fl with
      | some _ => !(val i).isNan && !(k = 1 && (val i).isZero)
      | none => !(k = 1 && ea i = 0)
    let above := fun i j =>
      match fl with
      | some _ => (val j).below (val i)
      | none => decide (toS w (ea j) < toS w (ea i))
    let c := (rank above (h.activeList.filter keep)).take n
    let fill := min n h.vl.toNat - c.length
    let vals := c.map ea ++ List.replicate fill (sentinel fl w)
    let idxs := c ++ List.replicate fill 0xFFFFFFFF
    Act.writeVec od (h.front w (h.bitsOfOpnd od) vals) t (List.range vals.length)
    Act.writeVec oi (h.front 32 (h.bitsOfOpnd oi) idxs) (intTag 32) (List.range idxs.length)

/-- VTOPK on a hart (06 R232). -/
def execVtopk (d a b : BitVec 5) (k : BitVec 1) (s : State) : Host.Outcome State Fault Refusal := runQueued (wordOf (.vtopk d a b k)) (effVtopk d a b k) s

/-! ### Predicates (06 R234 to R236) -/

/-- A predicate operation on two predicates (06 R234). -/
def effPred (d a b : PReg) (f : Bool → Bool → Bool) : State → Eff :=
  laneGoverned Hart.anyActive do
    Act.predicate [] d fun h =>
      let x := h.readP a
      let y := h.readP b
      fun i => (f (x.getLsbD i) (y.getLsbD i), {})

/-- PAND: bit i is pa[i] AND pb[i] (06 R234). -/
def effPand (d a b : PReg) : State → Eff := effPred d a b (· && ·)

/-- PAND on a hart (06 R234). -/
def execPand (d a b : BitVec 3) (s : State) : Host.Outcome State Fault Refusal := runQueued (wordOf (.pand d a b)) (effPand d a b) s

/-- POR: bit i is pa[i] OR pb[i] (06 R234). -/
def effPor (d a b : PReg) : State → Eff := effPred d a b (· || ·)

/-- POR on a hart (06 R234). -/
def execPor (d a b : BitVec 3) (s : State) : Host.Outcome State Fault Refusal := runQueued (wordOf (.por d a b)) (effPor d a b) s

/-- PXOR: bit i is pa[i] XOR pb[i] (06 R234). -/
def effPxor (d a b : PReg) : State → Eff := effPred d a b (· != ·)

/-- PXOR on a hart (06 R234). -/
def execPxor (d a b : BitVec 3) (s : State) : Host.Outcome State Fault Refusal := runQueued (wordOf (.pxor d a b)) (effPxor d a b) s

/-- PANDN: bit i is pa[i] AND NOT pb[i] (06 R234). -/
def effPandn (d a b : PReg) : State → Eff := effPred d a b (· && !·)

/-- PANDN on a hart (06 R234). -/
def execPandn (d a b : BitVec 3) (s : State) : Host.Outcome State Fault Refusal := runQueued (wordOf (.pandn d a b)) (effPandn d a b) s

/-- PCNT: the number of active set bits (06 R209, R235). -/
def effPcnt (d : SReg) (a : PReg) : State → Eff :=
  laneGoverned Hart.anyActive do
    Act.modifyHart fun h => h.writeS d (BitVec.ofNat 64 ((h.activeList.filter fun i => (h.readP a).getLsbD i).length))

/-- PCNT on a hart (06 R235). -/
def execPcnt (d : BitVec 5) (a : BitVec 3) (s : State) : Host.Outcome State Fault Refusal := runQueued (wordOf (.pcnt d a)) (effPcnt d a) s

/-- PFIRST: the lowest active set bit, or all ones (06 R209, R235). -/
def effPfirst (d : SReg) (a : PReg) : State → Eff :=
  laneGoverned Hart.anyActive do
    Act.modifyHart fun h =>
      h.writeS d (match h.activeList.find? fun i => (h.readP a).getLsbD i with
        | some i => BitVec.ofNat 64 i
        | none => BitVec.allOnes 64)

/-- PFIRST on a hart (06 R235). -/
def execPfirst (d : BitVec 5) (a : BitVec 3) (s : State) : Host.Outcome State Fault Refusal := runQueued (wordOf (.pfirst d a)) (effPfirst d a) s

/-- PSETN: bit i is 1 when i is below s_a (06 R235). -/
def effPsetn (d : PReg) (a : SReg) : State → Eff :=
  laneGoverned Hart.anyActive do
    Act.predicate [] d fun h => let n := (h.readS a).toNat; fun i => (decide (i < n), {})

/-- PSETN on a hart (06 R235). -/
def execPsetn (d : BitVec 3) (a : BitVec 5) (s : State) : Host.Outcome State Fault Refusal := runQueued (wordOf (.psetn d a)) (effPsetn d a) s

/-- PMOV_PP: one predicate to another (06 R236). -/
def effPmovPp (d a : PReg) : State → Eff :=
  laneGoverned Hart.anyActive do
    Act.predicate [] d fun h => let x := h.readP a; fun i => (x.getLsbD i, {})

/-- PMOV_PP on a hart (06 R236). -/
def execPmovPp (d a : BitVec 3) (s : State) : Host.Outcome State Fault Refusal := runQueued (wordOf (.pmovPp d a)) (effPmovPp d a) s

/-- The register or pair that holds VL bits of a predicate (06 R236). -/
def Hart.predPair (h : Hart) (r : VReg) : Opnd := ⟨r.toNat, if h.vl.toNat ≤ h.regBits then 1 else 2, 1, [tagPred]⟩

/-- A pair starts at an even register (06 R236). -/
def Hart.pairOk (h : Hart) (r : VReg) : Bool := decide (h.vl.toNat ≤ h.regBits ∨ r.toNat % 2 = 0)

/-- PMOV_PV: a predicate into a register or pair, tagged PRED (06 R236). -/
def effPmovPv (d : VReg) (a : PReg) : State → Eff :=
  laneGoverned Hart.anyActive do
    let h := (← get).hart
    Act.legal (h.pairOk d) false
    Act.elementwise [] { h.predPair d with want := [] } tagPred fun h =>
      let x := h.readP a
      fun i => ((x.getLsbD i).toNat, {})

/-- PMOV_PV on a hart (06 R236). -/
def execPmovPv (d : BitVec 5) (a : BitVec 3) (s : State) : Host.Outcome State Fault Refusal := runQueued (wordOf (.pmovPv d a)) (effPmovPv d a) s

/-- PMOV_VP: a register or pair into a predicate (06 R236). -/
def effPmovVp (d : PReg) (a : VReg) : State → Eff :=
  laneGoverned Hart.anyActive do
    let h := (← get).hart
    Act.legal (h.pairOk a) false
    Act.predicate [h.predPair a] d fun h =>
      let g := h.bitsOfOpnd (h.predPair a)
      fun i => (g.testBit i, {})

/-- PMOV_VP on a hart (06 R236). -/
def execPmovVp (d : BitVec 3) (a : BitVec 5) (s : State) : Host.Outcome State Fault Refusal := runQueued (wordOf (.pmovVp d a)) (effPmovVp d a) s

end Sys2Proof.Machine
end

