-- ==== Sys2Proof/Machine/VMem.lean ====
section
/-! DEFINITION. Vector loads and stores, predicates in memory, and the stream instructions: majors 0x20 to 0x26 (04 R155;
07 R238 to R250). -/

namespace Sys2Proof.Machine

/-! ### The accesses of an instruction's elements -/

/-- The accesses of the elements, in order: all of them pass their checks; those before a fault do, with the element and the
cause; or one waits before any fault. -/
inductive Plan where
  | ok (xs : List (Nat × List (List Part)))
  | fault (xs : List (Nat × List (List Part))) (i : Nat) (c : Cause) (s : State)
  | wait (on : List Nat)

/-- The stop of one element or row, from that of its first access and those of the others: the one that ranks first (01 R53). -/
def soonerStop (x : Gate) {α : Type} (rest : Except Gate α) : Gate :=
  match rest with
  | .ok _ => x
  | .error e => if e.rank < x.rank then e else x

/-- The checks of one element's accesses. -/
def State.planOne (s : State) (acc : Acc) (len : Nat) : List Word → Except Gate (List (List Part))
  | [] => .ok []
  | a :: as =>
    let rest := s.planOne acc len as
    match s.check s.hart.env s.hart.num acc a len with
    | .trap c t => .error (soonerStop (.trap c t) rest)
    | .wait on => .error (soonerStop (.wait on) rest)
    | .ok ps => rest.map (ps :: ·)

/-- The checks of the elements' accesses of `len` bytes (07 R240, R242). -/
def State.plan (s : State) (acc : Acc) (len : Nat) : List (Nat × List Word) → Plan
  | [] => .ok []
  | (i, as) :: es =>
    match s.planOne acc len as with
    | .error (.trap c t) => .fault [] i c t
    | .error (.wait on) => .wait on
    | .error .go => .wait []
    | .ok ps =>
      match s.plan acc len es with
      | .ok xs => .ok ((i, ps) :: xs)
      | .fault xs j c t => .fault ((i, ps) :: xs) j c t
      | .wait on => .wait on

/-- The values of an element's accesses, and the lowest poisoned byte among them. -/
def State.readAccesses (s : State) : List (List Part) → State × List Nat × Option Word
  | [] => (s, [], none)
  | p :: ps =>
    let (s, b, bad) := s.readParts p
    let (s, vs, bad') := s.readAccesses ps
    (s, leNat b :: vs, lowest bad bad')

/-- The values of elements, and the lowest poisoned byte among them. -/
def State.readElems (s : State) : List (Nat × List (List Part)) → State × List (Nat × List Nat) × Option Word
  | [] => (s, [], none)
  | (i, ps) :: es =>
    let (s, vs, bad) := s.readAccesses ps
    let (s, xs, bad') := s.readElems es
    (s, (i, vs) :: xs, lowest bad bad')

/-- The lowest poisoned byte of the elements after one that faults, where they can be read (01 R53). -/
def State.poisonAfter (s : State) (len : Nat) : List (Nat × List Word) → State × Option Word
  | [] => (s, none)
  | (_, as) :: es =>
    let (s, bad) :=
      match s.planOne .load len as with
      | .ok ps => let (s, _, bad) := s.readAccesses ps; (s, bad)
      | .error _ => (s, none)
    let (s, bad') := s.poisonAfter len es
    (s, lowest bad bad')

/-- Values of elements read: all of them, or those before a faulting element with its cause. Poison squashes the whole
instruction (07 R240; 01 R53; 15 R414). -/
def Act.readPlan (len : Nat) (es : List (Nat × List Word)) : Act (List (Nat × List Nat) × Option (Nat × Cause)) := do
  let s ← get
  let take := fun (t : State) (xs : List (Nat × List (List Part))) (after : List (Nat × List Word))
      (stop : Option (Nat × Cause)) => do
    let (t, vs, bad) := t.readElems xs
    let (t, bad') := t.poisonAfter len after
    match lowest bad bad' with
    | some va => let (c, t) := t.consume va t.convoy; set t; Act.trap c
    | none => set t; return (vs, stop)
  match s.plan .load len es with
  | .ok xs => take s xs [] none
  | .wait on => throw (.wait on)
  | .fault xs i c t => take t xs (es.drop (xs.length + 1)) (some (i, c))

/-- A trap at element `i` with the hart `h` and its progress in VSTART (01 R52). -/
def Act.trapAt {α : Type} (h : Hart) (i : Nat) (c : Cause) : Act α := do
  Act.modifyHart fun _ => { h with vstart := BitVec.ofNat 15 i }
  throw (.keep c)

/-- An element at or above VSTART and below `n` is written (01 R42, 02 R97). Where every element below a fault was inactive and
kept, none is, and the tag stays, though the trap leaves VSTART above 0 (DESIGN CHOICE, log 67: R42's two sentences differ
there). -/
def Hart.wrote (h : Hart) (n : Nat) : Bool := h.maskZero && decide (h.vstart.toNat < n) || (h.activeList.any (· < n))

/-- The elements below the one at `n`, with the tag RAW, in a destination register group of hart `h` (07 R240, R242). -/
def Hart.partLoad (h : Hart) (d : Opnd) (n : Nat) (val : Nat → Nat) : Hart :=
  if h.wrote n then
    ((h.writeRegs d.reg (h.loopTo d.w (h.bitsOfOpnd d) n fun i => (val i, {})).1 d.regs).setTags d.reg 0 d.regs)
  else h

/-- One field of a list of element values. -/
def fieldOf (vs : List (Nat × List Nat)) (f i : Nat) : Nat := ((vs.lookup i).getD []).getD f 0

/-- A nibble of each byte for EW1 = 4, the whole value else (07 R240). -/
def nibbleOf (w i v : Nat) : Nat := if w = 4 then v / 16 ^ (i % 2) % 16 else v

/-- A vector load of the elements `es`, field f of element i to the group `ds[f]`; `trim` says which faults above the lowest
active element end the load early (07 R240, R242, R243). `h0` is the hart before the instruction. -/
def Act.loadElems (h0 : Hart) (ds : List Opnd) (len : Nat) (es : List (Nat × List Word)) (trim : Cause → Bool) : Act Unit := do
  let h := (← get).hart
  let first := (es.map Prod.fst).head?
  let whole := fun (vs : List (Nat × List Nat)) (idx : List Nat) =>
    ds.zipIdx.forM fun (d, f) => do
      let h := (← get).hart
      Act.writeVec d (h.loop d.w (h.bitsOfOpnd d) fun i => (nibbleOf d.w i (fieldOf vs f i), {})).1 0 idx
  let (vs, stop) ← Act.readPlan len es
  match stop with
  | none => whole vs h.activeList
  | some (i, c) =>
    if trim c && first != some i then do
      Act.modifyHart fun h => { h with vl := BitVec.ofNat 15 i }
      whole vs (h.activeList.filter (· < i))
    else do
      ds.zipIdx.forM fun (d, f) => do
        match h.writeStream? d with
        | some r => Act.append r ((h.activeList.filter (· < i)).map fun j => (j, nibbleOf d.w j (fieldOf vs f j))) 0
        | none => pure ()
      Act.trapAt (ds.zipIdx.foldl (fun k (d, f) =>
        if (h.writeStream? d).isSome then k else { k with
          vregs := (k.partLoad d i fun j => nibbleOf d.w j (fieldOf vs f j)).vregs
          tags := (k.partLoad d i fun j => nibbleOf d.w j (fieldOf vs f j)).tags }) h0) i c

/-- The values of an element's accesses written; for EW1 = 4 a nibble is merged into its byte (07 R240). -/
def State.writeAccesses (s : State) (nib : Option Nat) : List (List Part) → List Nat → State
  | [], _ => s
  | _, [] => s
  | p :: ps, v :: vs =>
    let len := (p.map Part.len).sum
    let v := match nib with
      | none => v
      | some i =>
        let old := leNat ((s.readParts p).2.1)
        old - old / 16 ^ (i % 2) % 16 * 16 ^ (i % 2) + v % 16 * 16 ^ (i % 2)
    (s.writeParts s.hart.env p (leBytes len v)).writeAccesses nib ps vs

/-- The bytes that accesses of elements write whole: at width 4, those of which both nibbles are written. -/
def wholeBytes (w : Nat) (xs : List (Nat × List (List Part))) : List (Nat × Nat) :=
  (if w = 4 then xs.filter fun x => x.1 % 2 == 1 && xs.any fun y => y.1 + 1 == x.1 && y.2 == x.2 else xs).flatMap fun x =>
    coverOf x.2.flatten

/-- The stores of an instruction's elements of width `w`: together one write, so a block that they cover whole loses its poison
(15 R413). -/
def State.storeAll (s : State) (w : Nat) (xs : List (Nat × List (List Part))) (vals : Nat → List Nat) : State :=
  xs.foldl (fun t x => t.writeAccesses (if w = 4 then some x.1 else none) x.2 (vals x.1)) (s.renew (wholeBytes w xs))

/-- A vector store of the elements `es`, field f of element i from `vals f i` (07 R240, R242). -/
def Act.storeElems (h0 : Hart) (w len : Nat) (es : List (Nat × List Word)) (vals : Nat → List Nat) : Act Unit := do
  let s ← get
  match s.plan .store len es with
  | .wait on => throw (.wait on)
  | .ok xs => set (s.storeAll w xs vals)
  | .fault xs i c t => do
    set (t.storeAll w xs vals)
    Act.trapAt h0 i c

/-! ### Addressing (07 R238, R239) -/

/-- Ordering and scope codes of the M format are legal together (07 R239; 04 R155). -/
def orderOk (r : BitVec 2) (c : BitVec 3) : Bool := c.toNat < 6 && (r != 0 || c == 0)

/-- With the ordering code release the instruction waits until its release may perform (03 R127). -/
def Act.release (r : BitVec 2) (c : BitVec 3) : Act Unit := do
  if r = 3 ∧ (← get).releaseReady c.toNat = false then throw .release else pure ()

/-- The bytes of an element; at EW1 = 4 its byte (07 R240). -/
def elemBytes (w : Nat) : Nat := max 1 (w / 8)

/-- Addresses of unit elements: base + 64 × o + i × E (07 R238). -/
def Hart.unitAddr (h : Hart) (a : SReg) (o : BitVec 5) (i : Nat) : Word :=
  h.readS a + BitVec.ofInt 64 (64 * o.toInt) + BitVec.ofNat 64 (i * h.ew1 / 8)

/-- Addresses of strided elements: base + i × s_b (07 R238). -/
def Hart.strideAddr (h : Hart) (a b : SReg) (i : Nat) : Word := h.readS a + BitVec.ofNat 64 i * h.readS b

/-- Address of field f of segment i: base + 64 × o + (i × F + f) × E (07 R238). -/
def Hart.segAddr (h : Hart) (a : SReg) (o : BitVec 5) (n f i : Nat) : Word :=
  h.readS a + BitVec.ofInt 64 (64 * o.toInt) + BitVec.ofNat 64 ((i * n + f) * h.ew1 / 8)

/-- Addresses of indexed elements: base + x[i] × E (07 R238). -/
def Hart.indexAddr (h : Hart) (a : SReg) (x : Nat → Nat) (i : Nat) : Word := h.readS a + BitVec.ofNat 64 (x i * h.ew1 / 8)

/-- A vector load with one field per element; `idx` is the index register, if it has one (07 R240). -/
def effLoadV (legal : Hart → Bool) (d : VReg) (idx : Option VReg) (addr : Hart → (Nat → Nat) → Nat → Word)
    (trim : Cause → Bool) (r : BitVec 2) (c : BitVec 3) (s : State) : Eff :=
  laneGoverned Hart.anyActive (do
    let h := (← get).hart
    let xo := idx.map fun b => h.opnd b h.ew2 []
    Act.legal (orderOk r c && legal h && h.groupOk d h.ew1 && idx.all (fun b => h.groupOk b h.ew2)) false
    Act.release r c
    let od := h.opnd d h.ew1 []
    Act.openStreams xo.toList [od]
    let h := (← get).hart
    let x := match xo with
      | some o => h.elems o
      | none => fun _ => 0
    Act.loadElems s.hart [od] (elemBytes h.ew1) (h.activeList.map fun i => (i, [addr h x i])) trim) s

/-- A vector store with one field per element (07 R240). -/
def effStoreV (legal : Hart → Bool) (d : VReg) (idx : Option VReg) (addr : Hart → (Nat → Nat) → Nat → Word)
    (r : BitVec 2) (c : BitVec 3) (s : State) : Eff :=
  laneGoverned Hart.anyActive (do
    let h := (← get).hart
    let xo := idx.map fun b => h.opnd b h.ew2 []
    Act.legal (orderOk r c && legal h && h.groupOk d h.ew1 && idx.all (fun b => h.groupOk b h.ew2)) false
    Act.release r c
    let od := h.opnd d h.ew1 []
    Act.openStreams (od :: xo.toList) []
    let h := (← get).hart
    let x := match xo with
      | some o => h.elems o
      | none => fun _ => 0
    let ed := h.elems od
    Act.storeElems s.hart h.ew1 (elemBytes h.ew1) (h.activeList.map fun i => (i, [addr h x i])) fun i => [ed i]) s

/-- EW1 is not 4 (07 R239). -/
def wideOnly (h : Hart) : Bool := h.ew1 != 4

/-- Neither width is 4 (07 R239). -/
def indexOnly (h : Hart) : Bool := h.ew1 != 4 && h.ew2 != 4

/-- VLD: unit-stride load (07 R240). -/
def effVld (d : VReg) (a : SReg) (o : BitVec 5) (r : BitVec 2) (c : BitVec 3) : State → Eff :=
  effLoadV (fun _ => true) d none (fun h _ i => h.unitAddr a o i) (fun _ => false) r c

/-- VLDS: strided load (07 R240). -/
def effVlds (d : VReg) (a b : SReg) (r : BitVec 2) (c : BitVec 3) : State → Eff :=
  effLoadV wideOnly d none (fun h _ i => h.strideAddr a b i) (fun _ => false) r c

/-- VLDX: indexed load (07 R240). -/
def effVldx (d : VReg) (a : SReg) (b : VReg) (r : BitVec 2) (c : BitVec 3) : State → Eff :=
  effLoadV indexOnly d (some b) (fun h x i => h.indexAddr a x i) (fun _ => false) r c

/-- The faults of VLDFF that trim VL (07 R243). -/
def trims : Cause → Bool
  | .page false _ => true
  | .access _ => true
  | .windowCross _ => true
  | _ => false

/-- VLDFF: unit load that trims VL at a later faulting element (07 R243). -/
def effVldff (d : VReg) (a : SReg) (o : BitVec 5) (r : BitVec 2) (c : BitVec 3) : State → Eff :=
  effLoadV (fun _ => true) d none (fun h _ i => h.unitAddr a o i) trims r c

/-- VST: unit-stride store (07 R240). -/
def effVst (d : VReg) (a : SReg) (o : BitVec 5) (r : BitVec 2) (c : BitVec 3) : State → Eff :=
  effStoreV (fun _ => true) d none (fun h _ i => h.unitAddr a o i) r c

/-- VSTS: strided store (07 R240). -/
def effVsts (d : VReg) (a b : SReg) (r : BitVec 2) (c : BitVec 3) : State → Eff :=
  effStoreV wideOnly d none (fun h _ i => h.strideAddr a b i) r c

/-- VSTX: indexed store (07 R240). -/
def effVstx (d : VReg) (a : SReg) (b : VReg) (r : BitVec 2) (c : BitVec 3) : State → Eff :=
  effStoreV indexOnly d (some b) (fun h x i => h.indexAddr a x i) r c

/-- The operands of a segment instruction: field f at v(d + f × max(G, 1)) (07 R242). -/
def Hart.segOpnds (h : Hart) (d : VReg) (n : Nat) : List Opnd :=
  let o := h.opnd d h.ew1 []
  (List.range n).map fun f => { o with reg := d.toNat + f * o.regs }

/-- A segment word is legal: at least two fields, all within v0 to v31, EW1 not 4 (07 R239, R242). -/
def Hart.segOk (h : Hart) (d : VReg) (f : BitVec 3) (r : BitVec 2) (c : BitVec 3) : Bool :=
  orderOk r c && f != 0 && wideOnly h && h.groupOk d h.ew1
    && decide (d.toNat + (f.toNat + 1) * (h.opnd d h.ew1 []).regs ≤ 32)

/-- VLDG: segment load (07 R242). -/
def effVldg (d : VReg) (a : SReg) (o : BitVec 5) (f : BitVec 3) (r : BitVec 2) (c : BitVec 3) (s : State) : Eff :=
  laneGoverned Hart.anyActive (do
    let h := (← get).hart
    let n := f.toNat + 1
    Act.legal (h.segOk d f r c) false
    Act.release r c
    let ds := h.segOpnds d n
    Act.openStreams [] ds
    let h := (← get).hart
    Act.loadElems s.hart ds (elemBytes h.ew1)
      (h.activeList.map fun i => (i, (List.range n).map fun k => h.segAddr a o n k i)) fun _ => false) s

/-- VSTG: segment store (07 R242). -/
def effVstg (d : VReg) (a : SReg) (o : BitVec 5) (f : BitVec 3) (r : BitVec 2) (c : BitVec 3) (s : State) : Eff :=
  laneGoverned Hart.anyActive (do
    let h := (← get).hart
    let n := f.toNat + 1
    Act.legal (h.segOk d f r c) false
    Act.release r c
    let ds := h.segOpnds d n
    Act.openStreams ds []
    let h := (← get).hart
    let es := ds.map h.elems
    Act.storeElems s.hart h.ew1 (elemBytes h.ew1)
      (h.activeList.map fun i => (i, (List.range n).map fun k => h.segAddr a o n k i)) fun i => es.map (· i)) s

/-! ### Scatter-add (07 R244, R245) -/

/-- How one element's read and add ends. -/
inductive Step1 where
  | next (s : State)
  | trap (c : Cause) (s : State)
  | wait (on : List Nat)

/-- How the elements of a scatter-add end: all are performed, those below one that faults are, or one must wait. -/
inductive Scattered where
  | all (s : State)
  | fault (s : State) (i : Nat) (c : Cause)
  | wait (on : List Nat)

/-- Elements of a scatter-add in ascending order, stopping at the first that faults or must wait. -/
def runElems (f : State → Nat → Step1) : State → List Nat → Scattered
  | s, [] => .all s
  | s, i :: is =>
    match f s i with
    | .next s => runElems f s is
    | .trap c s => .fault s i c
    | .wait on => .wait on

/-- The sum that a scatter-add leaves (07 R244). -/
def scatterSum (h : Hart) (fp : Bool) (w old v : Nat) : Nat :=
  if fp then ((h.fmt w).add (h.fenv false) old v).1 else (old + v) % 2 ^ w

/-- A floating format tag, whatever its width and GB bit (01 R35, R40). -/
def floatTag (t : BitVec 6) : Bool := decide (8 ≤ t.toNat % 32 ∧ t.toNat % 32 ≤ 14)

/-- The draw that a scatter-add's choices use: a new one, or that of the same word before a trap (07 R245; log 8). -/
def Hart.scatterDraw (h : Hart) (ticks : Nat) : Nat := if h.vstart = 0 then ticks else Table.get h.scatter h.pc.toNat ticks

/-- The checks of one element's accesses of a scatter-add (01 R53). -/
def State.addChecks (s : State) (len : Nat) (va : Word) : List Acc → Except Gate Unit
  | [] => .ok ()
  | acc :: accs =>
    let rest := s.addChecks len va accs
    match s.check s.hart.env s.hart.num acc va len with
    | .ok _ => rest
    | .trap c t => .error (soonerStop (.trap c t) rest)
    | .wait on => .error (soonerStop (.wait on) rest)

/-- One of the elements of a scatter-add must wait, before any of those below it faults: the arrays in retention that hold it. -/
def State.scatterWaits (s : State) (accs : List Acc) (len : Nat) : List Word → Option (List Nat)
  | [] => none
  | va :: vas =>
    match s.addChecks len va accs with
    | .ok _ => s.scatterWaits accs len vas
    | .error (.wait on) => some on
    | .error _ => none

/-- A scatter-add: `one` performs an element by the accesses `accs` (07 R244, R245). An element that must wait before any faults makes
the instruction wait, with nothing performed. While MODE.RM holds 5 to 7 a vd with any floating tag traps ILLEGAL (01 R35); the model
does so for VSTXC too, which R35's list does not name and R245 computes as VSTXA (DEDUCED, log 67). -/
def effScatter (aligned : Bool) (accs : List Acc) (d : VReg) (a : SReg) (b : VReg) (r : BitVec 2) (c : BitVec 3)
    (one : Hart → Nat → (Nat → Word) → (Nat → Nat) → Bool → State → Nat → Step1) (s : State) : Eff :=
  laneGoverned Hart.anyActive (do
    let h := (← get).hart
    let w := h.ew1
    let t := h.srcTag d.toNat
    let fp := t == h.fpTag w
    Act.legal (orderOk r c && indexOnly h && h.groupOk d w && h.groupOk b h.ew2 && !(fp && decide (w < 16))) (floatTag t)
    Act.release r c
    let od := h.opnd d w [h.fpTag w, intTag w]
    let ob := h.opnd b h.ew2 []
    Act.ready [od, ob] [] [od]
    let h := (← get).hart
    let fp := t == h.fpTag w
    let x := h.elems ob
    let v := h.elems od
    let addr := fun i => h.indexAddr a x i
    let st ← get
    let draw := h.scatterDraw st.ticks
    let es := h.activeList.takeWhile fun i => !(aligned && (addr i).toNat % (w / 8) != 0)
    match st.scatterWaits accs (w / 8) (es.map addr) with
    | some on => throw (.wait on)
    | none =>
      match runElems (one h draw addr v fp) st h.activeList with
      | .wait on => throw (.wait on)
      | .all t => set { t with ticks := t.ticks + 1, hart := { t.hart with scatter := Table.erase t.hart.scatter h.pc.toNat } }
      | .fault t i c => do
        set { t with ticks := t.ticks + 1 }
        Act.trapAt { s.hart with scatter := Table.set s.hart.scatter h.pc.toNat draw } i c) s

/-- One element of VSTXA: an atomic add at the home, at a naturally aligned address (07 R244). -/
def vstxaOne (h : Hart) (_ : Nat) (addr : Nat → Word) (v : Nat → Nat) (fp : Bool) (s : State) (i : Nat) : Step1 :=
  if (addr i).toNat % (h.ew1 / 8) ≠ 0 then .trap (.misalign (addr i)) s
  else
    match s.atomicN (addr i) (h.ew1 / 8) (fun old => some (scatterSum h fp h.ew1 old (v i))) s.convoy with
    | .ok _ s => .next s
    | .trap c s => .trap c s
    | .wait on => .wait on

/-- One element of VSTXC: a read and a write of their own; of the instruction's elements that name one location, one adds
(07 R245; log 8). -/
def vstxcOne (h : Hart) (draw : Nat) (addr : Nat → Word) (v : Nat → Nat) (fp : Bool) (s : State) (i : Nat) : Step1 :=
  let same := h.guardedList.filter fun j => addr j == addr i
  let winner := same.getD (Config.vstxcWinner draw (addr i).toNat % same.length) i
  match s.addChecks (h.ew1 / 8) (addr i) [.load, .store] with
  | .error (.trap c t) => .trap c t
  | .error (.wait on) => .wait on
  | .error .go => .wait []
  | .ok _ =>
    match s.loadN (addr i) (h.ew1 / 8) s.convoy with
    | .trap c t => .trap c t
    | .wait on => .wait on
    | .ok old t =>
      match t.storeN (addr i) (h.ew1 / 8) (if winner = i then scatterSum h fp h.ew1 old (v i) else old) with
      | .ok _ t => .next t
      | .trap c t => .trap c t
      | .wait on => .wait on

/-- VSTXA: indexed atomic scatter-add (07 R244). -/
def effVstxa (d : VReg) (a : SReg) (b : VReg) (r : BitVec 2) (c : BitVec 3) : State → Eff :=
  effScatter true [.atomic] d a b r c vstxaOne

/-- VSTXC: indexed scatter-add that is not atomic (07 R245). -/
def effVstxc (d : VReg) (a : SReg) (b : VReg) (r : BitVec 2) (c : BitVec 3) : State → Eff :=
  effScatter false [.load, .store] d a b r c vstxcOne

/-! ### Predicates in memory (07 R246) -/

/-- The bytes of a predicate transfer, from ⌊VSTART / 8⌋ to ⌈VL / 8⌉ (07 R246). -/
def Hart.predBytes (h : Hart) : List Nat := (List.range ((h.vl.toNat + 7) / 8)).drop (h.vstart.toNat / 8)

/-- The lane of PLD and PST: VL > 0; a VSTART at or above VL performs nothing (07 R246; 01 R31). -/
def predLanes (h : Hart) : Bool := decide (h.vstart.toNat < h.vl.toNat)

/-- Bits [lo, hi) of a number taken from another, the others kept. -/
def spliceBits (old new lo hi : Nat) : Nat :=
  old % 2 ^ lo + new / 2 ^ lo % 2 ^ (hi - lo) * 2 ^ lo + old / 2 ^ hi * 2 ^ hi

/-- PLD: bits 0 to VL − 1 of a predicate from memory (07 R246). -/
def effPld (d : PReg) (a : SReg) (o : BitVec 5) (r : BitVec 2) (c : BitVec 3) (s : State) : Eff :=
  laneGoverned predLanes (do
    let h := (← get).hart
    Act.legal (orderOk r c) false
    Act.release r c
    let base := h.readS a + BitVec.ofInt 64 (64 * o.toInt)
    let (vs, stop) ← Act.readPlan 1 (h.predBytes.map fun k => (k, [base + BitVec.ofNat 64 k]))
    let new := vs.foldl (fun n (k, v) => n + v.headD 0 * 256 ^ k) 0
    let old := (h.readP d).toNat
    match stop with
    | none =>
      let v := spliceBits old new h.vstart.toNat h.vl.toNat
      Act.modifyHart fun h => h.writeP d (BitVec.ofNat 16384 (if h.tailZero then v % 2 ^ h.vl.toNat else v))
    | some (k, cause) =>
      Act.trapAt (s.hart.writeP d (BitVec.ofNat 16384
        (if h.vstart.toNat < 8 * k then spliceBits old new h.vstart.toNat (8 * k) else old))) (8 * k) cause) s

/-- PST: a predicate to memory as ⌈VL / 8⌉ bytes, bits at and above VL as 0 (07 R246). -/
def effPst (d : PReg) (a : SReg) (o : BitVec 5) (r : BitVec 2) (c : BitVec 3) (s : State) : Eff :=
  laneGoverned predLanes (do
    let h := (← get).hart
    Act.legal (orderOk r c) false
    Act.release r c
    let base := h.readS a + BitVec.ofInt 64 (64 * o.toInt)
    let bits := (h.readP d).toNat % 2 ^ h.vl.toNat
    let st ← get
    let vals := fun (k : Nat) => [bits / 256 ^ k % 256]
    match st.plan .store 1 (h.predBytes.map fun k => (k, [base + BitVec.ofNat 64 k])) with
    | .wait on => throw (.wait on)
    | .ok xs => set (st.storeAll 8 xs vals)
    | .fault xs k cause t => do set (t.storeAll 8 xs vals); Act.trapAt s.hart (8 * k) cause) s

/-! ### Stream instructions (07 R247, R248) -/

/-- The dimensions of a descriptor: counts and strides, none where an entry breaks R247. -/
def descDims (w n : Nat) : Option (List (Nat × Int)) :=
  let entry := fun k =>
    (bitsOf w (128 + 128 * k) 32, bitsOf w (160 + 128 * k) 32, toS 64 (bitsOf w (192 + 128 * k) 64))
  if (List.range 4).all fun k =>
      if k < n then 1 ≤ (entry k).1 && (entry k).2.1 == 0 else bitsOf w (128 + 128 * k) 128 == 0
  then some ((List.range n).map fun k => ((entry k).1, (entry k).2.2))
  else none

/-- FMT of a stream: a defined tag code (07 R247; 01 R40). -/
def fmtOk (f : Nat) : Bool := f ≤ 5 || (8 ≤ f && f ≤ 17)

/-- SBIND: binds v28 + d to the descriptor at s_a (07 R247, R248). -/
def effSbind (d : BitVec 2) (a : SReg) : State → Eff := Act.effect do
  let h := (← get).hart
  let va := h.readS a
  let r := d.toNat
  let bad : Act Unit := Act.trap (.stream (28 + r))
  if h.bound r then bad
  else if va.toNat % 16 ≠ 0 then bad
  else
    let w ← Act.load va 80
    let n := bitsOf w 88 8
    if fmtOk (bitsOf w 64 8) && bitsOf w 72 8 < 4 && bitsOf w 80 8 < 2 && 1 ≤ n && n ≤ 4 && bitsOf w 96 32 == 0 then
      match descDims w n with
      | none => bad
      | some dims =>
        Act.modifyHart fun h => h.setStream r
          { bind := .affine (BitVec.ofNat 64 (bitsOf w 0 64)) (bitsOf w 80 8 == 1) dims, desc := va
            fmt := BitVec.ofNat 5 (bitsOf w 64 8), ewc := bitsOf w 72 8, pos := 0, fault := false }
    else bad

/-- SUNBIND: unbinds v28 + d, which then holds zero with tag RAW; of an unbound register it has no effect (07 R248). -/
def effSunbind (d : BitVec 2) : State → Eff := Act.effect do
  if (← get).hart.bound d.toNat then
    Act.modifyHart fun h => ((h.writeV (28 + d.toNat) 0).setTag (28 + d.toNat) 0).setStream d.toNat Stream.unbound
  else pure ()

/-- SPOS: position and fault bit of the stream of v28 + a into s_d, 0 for an unbound register (07 R248). -/
def effSpos (d : SReg) (a : BitVec 2) : State → Eff := Act.effect do
  Act.modifyHart fun h =>
    let t := h.stream a.toNat
    h.writeS d (if h.bound a.toNat then BitVec.ofNat 64 (t.pos % 2 ^ 63 + t.fault.toNat * 2 ^ 63) else 0)

/-- VLD on a hart (07 R240). -/
def execVld (d a o : BitVec 5) (r : BitVec 2) (c : BitVec 3) (s : State) : Host.Outcome State Fault Refusal :=
  runQueued (wordOf (.vld d a o r c)) (effVld d a o r c) s

/-- VLDFF on a hart (07 R243). -/
def execVldff (d a o : BitVec 5) (r : BitVec 2) (c : BitVec 3) (s : State) : Host.Outcome State Fault Refusal :=
  runQueued (wordOf (.vldff d a o r c)) (effVldff d a o r c) s

/-- VST on a hart (07 R240). -/
def execVst (d a o : BitVec 5) (r : BitVec 2) (c : BitVec 3) (s : State) : Host.Outcome State Fault Refusal :=
  runQueued (wordOf (.vst d a o r c)) (effVst d a o r c) s

/-- VLDS on a hart (07 R240). -/
def execVlds (d a b : BitVec 5) (r : BitVec 2) (c : BitVec 3) (s : State) : Host.Outcome State Fault Refusal :=
  runQueued (wordOf (.vlds d a b r c)) (effVlds d a b r c) s

/-- VLDX on a hart (07 R240). -/
def execVldx (d a b : BitVec 5) (r : BitVec 2) (c : BitVec 3) (s : State) : Host.Outcome State Fault Refusal :=
  runQueued (wordOf (.vldx d a b r c)) (effVldx d a b r c) s

/-- VSTS on a hart (07 R240). -/
def execVsts (d a b : BitVec 5) (r : BitVec 2) (c : BitVec 3) (s : State) : Host.Outcome State Fault Refusal :=
  runQueued (wordOf (.vsts d a b r c)) (effVsts d a b r c) s

/-- VSTX on a hart (07 R240). -/
def execVstx (d a b : BitVec 5) (r : BitVec 2) (c : BitVec 3) (s : State) : Host.Outcome State Fault Refusal :=
  runQueued (wordOf (.vstx d a b r c)) (effVstx d a b r c) s

/-- VSTXA on a hart (07 R244). -/
def execVstxa (d a b : BitVec 5) (r : BitVec 2) (c : BitVec 3) (s : State) : Host.Outcome State Fault Refusal :=
  runQueued (wordOf (.vstxa d a b r c)) (effVstxa d a b r c) s

/-- VSTXC on a hart (07 R245). -/
def execVstxc (d a b : BitVec 5) (r : BitVec 2) (c : BitVec 3) (s : State) : Host.Outcome State Fault Refusal :=
  runQueued (wordOf (.vstxc d a b r c)) (effVstxc d a b r c) s

/-- VLDG on a hart (07 R242). -/
def execVldg (d a o : BitVec 5) (f : BitVec 3) (r : BitVec 2) (c : BitVec 3) (s : State) : Host.Outcome State Fault Refusal :=
  runQueued (wordOf (.vldg d a o f r c)) (effVldg d a o f r c) s

/-- VSTG on a hart (07 R242). -/
def execVstg (d a o : BitVec 5) (f : BitVec 3) (r : BitVec 2) (c : BitVec 3) (s : State) : Host.Outcome State Fault Refusal :=
  runQueued (wordOf (.vstg d a o f r c)) (effVstg d a o f r c) s

/-- PLD on a hart (07 R246). -/
def execPld (d : BitVec 3) (a o : BitVec 5) (r : BitVec 2) (c : BitVec 3) (s : State) : Host.Outcome State Fault Refusal :=
  runQueued (wordOf (.pld d a o r c)) (effPld d a o r c) s

/-- PST on a hart (07 R246). -/
def execPst (d : BitVec 3) (a o : BitVec 5) (r : BitVec 2) (c : BitVec 3) (s : State) : Host.Outcome State Fault Refusal :=
  runQueued (wordOf (.pst d a o r c)) (effPst d a o r c) s

/-- SBIND on a hart (07 R248). -/
def execSbind (d : BitVec 2) (a : BitVec 5) (s : State) : Host.Outcome State Fault Refusal :=
  runQueued (wordOf (.sbind d a)) (effSbind d a) s

/-- SUNBIND on a hart (07 R248). -/
def execSunbind (d : BitVec 2) (s : State) : Host.Outcome State Fault Refusal :=
  runQueued (wordOf (.sunbind d)) (effSunbind d) s

/-- SPOS on a hart (07 R248). -/
def execSpos (d : BitVec 5) (a : BitVec 2) (s : State) : Host.Outcome State Fault Refusal :=
  runQueued (wordOf (.spos d a)) (effSpos d a) s

end Sys2Proof.Machine
end

