-- ==== Sys2Proof/Machine/MeshQuery.lean ====
section
/-! DEFINITION. Cells of a mesh as an engine reads them, and the commands that do not rewrite a mesh: MSHQ, MSHGL and MSHCUT
(08 R271 to R278, R286 to R289, R295). -/

namespace Sys2Proof.Machine

/-! ### Cells (R274 to R278) -/

/-- A face record with the cell it names: an identity, or a label of a cell while a command works. -/
structure MFace where
  face : Nat
  sub : Nat
  nface : Nat
  nsub : Nat
  hang : Bool
  own : Bool
  ghost : Bool
  bnd : Bool
  tag : Nat
  nbr : Nat
  deriving DecidableEq, Repr

/-- A cell with its face records; `root` is the level of the root of its tree. -/
structure MCell where
  label : Nat
  key : Nat
  type : Nat
  level : Nat
  part : Nat
  tree : Nat
  root : Nat
  ghost : Bool
  home : Nat
  faces : List MFace
  deriving DecidableEq, Repr

/-- The neighbour that a face record of a brick names, where it names one rightly (R276). -/
def recordNbr (base nesc w : Nat) (f : Face) : Option Nat :=
  if f.bnd then some 0
  else if f.esc then (if f.nbr < nesc then some (bitsOf w (8 * (5184 + 8 * f.nbr)) 48) else none)
  else
    let n : Int := (base : Int) + toS 16 f.nbr
    if n < 0 then none else some n.toNat

/-- A face record of a brick. -/
def recordOf (base nesc w i : Nat) : Option MFace :=
  let f := Face.ofNat (bitsOf w (8 * (2112 + 4 * i)) 32)
  (recordNbr base nesc w f).map fun n =>
    ⟨f.face, f.sub, f.nface, f.nsub, f.hang, f.own, f.ghost, f.bnd, if f.bnd then f.nbr % 256 else 0, n⟩

/-- Slot `j` of a brick, or none where it is malformed (R275). -/
def slotOf (d : MeshDesc) (base nesc nfrec w j : Nat) : Option MCell :=
  let c := Cell.ofNat (bitsOf w (8 * (64 + 32 * j)) 256)
  if c.type ≤ 3 ∧ c.level ≤ d.levels ∧ 4 ≤ c.nfrec ∧ c.nfrec ≤ 12 ∧ c.frec + c.nfrec ≤ nfrec then
    ((List.range c.nfrec).mapM fun i => recordOf base nesc w (c.frec + i)).map fun fs =>
      ⟨base + j, c.key, c.type, c.level, c.part, c.tree, 0, c.flags % 2 == 1, c.home, fs⟩
  else none

/-- The cells of brick `b`, its 8 KiB as a number, or the identity of what is malformed (R274, R282). -/
def brickCells (d : MeshDesc) (b w : Nat) : Except Nat (List MCell) :=
  let ncell := bitsOf w 64 16
  let nesc := bitsOf w 80 16
  let nfrec := bitsOf w 96 16
  if bitsOf w 0 64 = 64 * b ∧ 1 ≤ ncell ∧ ncell ≤ 64 ∧ nesc ≤ 256 ∧ nfrec ≤ 768 ∧
      bitsOf w 112 16 = (if b < d.nbrick then 0 else 1) then
    (List.range ncell).mapM fun j =>
      match slotOf d (64 * b) nesc nfrec w j with
      | some c => .ok { c with ghost := decide (d.nbrick ≤ b) }
      | none => .error (64 * b + j)
  else .error (64 * b)

/-- The descriptor of a running command; one that is no descriptor any more is malformed (R282). -/
def Eng.meshDesc (k : Command) (va : Word) : Eng MeshDesc := do
  let w ← Eng.read k va 256
  if (MeshDesc.ofNat va w).legal w then return MeshDesc.ofNat va w else Eng.fail 4 0

/-- The cells of some bricks. -/
def Eng.bricks (k : Command) (d : MeshDesc) (bs : List Nat) : Eng (List MCell) := do
  let css ← bs.mapM fun b => do
    match brickCells d b (← Eng.read k (d.brick b) 8192) with
    | .ok cs => return cs
    | .error id => Eng.fail 4 id
  return css.flatten

/-! ### MSHQ (R286, R287) -/

/-- The fields of MSHQ's block keep their limits; `first` is s_b. -/
def queryOk (d : MeshDesc) (w first : Nat) : Bool :=
  let nq := bitsOf w 256 32
  let qk := bitsOf w 288 8
  let ewc := bitsOf w 296 8
  let fmt := bitsOf w 304 8
  let maxf := bitsOf w 312 8
  !headerBad 0 w && bitsOf w 384 128 == 0 && nq != 0 && decide (qk ≤ 3 ∧ ewc ≤ 3) && fmtOk fmt
    && (maxf == 0 || decide (4 ≤ maxf ∧ maxf ≤ 12))
    && (qk == 1 || qk == 2 || bitsOf w 192 64 == 0)
    && (qk != 0 || (fmt == 3 && ewc == 2) || (fmt == 4 && ewc == 3))
    && (qk != 3 || (fmt == 3 && ewc == 2))
    && decide (first + nq ≤ 64 * (d.nbrick + d.ngbrick))

/-- MSHQ's effect: v28 + r becomes a stream of neighbour data (R286). -/
def effMshq (r : BitVec 2) (a b : SReg) : State → Eff := Act.effect do
  let s ← get
  let va := s.hart.readS a
  Act.require (!s.hart.bound r.toNat) (.stream (28 + r.toNat))
  let w ← Act.block va 64
  let d ← Act.meshDesc (dword w 16)
  Act.noneOf (s.foreignMesh d)
  match wellFormed d with
  | none => Act.trap (.mesh va)
  | some d =>
    let first := (s.hart.readS b).toNat
    if queryOk d w first then
      Act.modifyHart fun h => h.setStream r.toNat
        { bind := .query d.addr (dword w 24) first (bitsOf w 256 32) (bitsOf w 288 8) (bitsOf w 312 8) (dword w 40)
            (BitVec.ofNat 64 d.epoch)
          desc := va, fmt := BitVec.ofNat 5 (bitsOf w 304 8), ewc := bitsOf w 296 8, pos := 0, fault := false }
    else Act.trap (.mesh va)

/-- MSHQ: binds v28 + r to a stream of neighbour data (R286). -/
def execMshq (r : BitVec 2) (a b : SReg) (s : State) : Host.Outcome State Fault Refusal :=
  runQueued (wordOf (.mshq r a b)) (effMshq r a b) s

/-! ### MSHGL (R288, R289) -/

/-- A gather list header is legal: IDXW 2 or 3 and zeros (R288). -/
def listBad (g : Nat) : Bool :=
  !(bitsOf g 32 8 == 2 || bitsOf g 32 8 == 3) || bitsOf g 40 24 != 0 || bitsOf g 352 160 != 0

/-- The bytes of an entry of a gather list. -/
def entryBytes (g : Nat) : Nat := 2 ^ bitsOf g 32 8

/-- The arrays of a gather list of some entries: owners, neighbours, information. -/
def listArrays (g n : Nat) : List Range :=
  if listBad g then [] else [(dword g 16, n * entryBytes g), (dword g 24, n * entryBytes g), (dword g 32, n * 4)]

/-- MSHGL's effect (R281, R288). -/
def effMshgl (a : SReg) : State → Eff := Act.effect do
  let s ← get
  let va := s.hart.readS a
  let w ← Act.block va 64
  let gla := dword w 24
  let known : Issue := {
    kind := .topology, op := 1, va := va, block := leBytes 64 w, bad := false, causes := []
    reads := [(dword w 16, 256)], writes := [[(gla, 64)]], fin := [(va, 8)], extra := [] }
  let d ← Act.forIssue known (Act.meshDesc (dword w 16))
  let known := { known with causes := s.foreignMesh d }
  let g ← if gla.toNat % 64 = 0 then Act.forIssue known (Act.load gla 64) else pure 0
  let bad := headerBad 1 w || (wellFormed d).isNone || gla.toNat % 64 != 0 || listBad g || bitsOf w 320 32 == 0
    || decide (3 < bitsOf w 352 16) || bitsOf w 368 16 != 0 || bitsOf w 448 64 != 0
  Act.issue { known with
    bad := bad, writes := ((gla, 64) :: listArrays g (bitsOf g 320 32)).map fun r => [r], extra := [g] }

/-- MSHGL: queues the building of a gather list (R288). -/
def execMshgl (a : SReg) (s : State) : Host.Outcome State Fault Refusal := runQueued (wordOf (.mshgl a)) (effMshgl a) s

/-- The information word of a face record (R288): face number of the owner's side, SUB, HANG, ghost, boundary and tag. -/
def MFace.info (f : MFace) : Nat :=
  (if f.own then f.face else f.nface) + f.sub * 16 + f.hang.toNat * 64 + f.ghost.toNat * 128 + f.bnd.toNat * 256 + f.tag * 65536

/-- The entry that a face record of a cell emits: owner, neighbour, information (R289). -/
def MFace.entry (f : MFace) (id flags bslot : Nat) : Option (Nat × Nat × Nat) :=
  if f.own ∧ (f.bnd = false ∨ flags.testBit 0) then some (id, if f.bnd then bslot else f.nbr, f.info)
  else if f.ghost ∧ f.own = false ∧ flags.testBit 1 then some (f.nbr, id, f.info)
  else none

/-- An identity of an entry that does not fit the index width, the owner's before the neighbour's; a boundary entry holds a BSLOT, of
which the low bytes are kept (DESIGN CHOICE, log 72: R289 speaks of identities alone). -/
def entryMisfit (lim : Nat) (e : Nat × Nat × Nat) : Option Nat :=
  if lim ≤ e.1 then some e.1 else if e.2.2.testBit 8 = false ∧ lim ≤ e.2.1 then some e.2.1 else none

/-- The writes of a gather list's entries from number `i` on, brick by brick, each brick a unit (R283, R288). -/
def listWrites (g i : Nat) : List (List (Nat × Nat × Nat)) → List EngWrite
  | [] => []
  | es :: rest =>
    let n := entryBytes g
    unitOf [put (plus (dword g 16) (i * n)) (es.flatMap fun e => leBytes n e.1),
      put (plus (dword g 24) (i * n)) (es.flatMap fun e => leBytes n e.2.1),
      put (plus (dword g 32) (i * 4)) (es.flatMap fun e => leBytes 4 e.2.2)] ++ listWrites g (i + es.length) rest

/-- MSHGL's run (R289). Of several identities that do not fit, the first entry's is the detail (DESIGN CHOICE, log 72). -/
def runMshgl (k : Command) : Eng EngPlan := do
  let w := k.word
  let g := k.extra.headD 0
  let d ← Eng.meshDesc k (dword w 16)
  let lo := bitsOf w 256 64
  let hi := lo + bitsOf w 320 32
  let bs := (List.range d.nbrick).filter fun b => decide (64 * b < hi ∧ lo < 64 * b + 64)
  let cells ← Eng.bricks k d bs
  let cells := cells.filter fun c => decide (lo ≤ c.label ∧ c.label < hi)
  let ess := bs.map fun b => (cells.filter fun c => c.label / 64 == b).flatMap fun c =>
    c.faces.filterMap fun f => f.entry c.label (bitsOf w 352 16) (bitsOf w 384 64)
  let es := ess.flatten
  if bitsOf g 320 32 < es.length then return ⟨[put (dword w 24) (leBytes 4 0)], 1, es.length⟩
  else
    match es.findSome? (entryMisfit (256 ^ entryBytes g)) with
    | some id => Eng.fail 9 id
    | none =>
      let header := [put (dword w 24) (leBytes 4 es.length), put (plus (dword w 24) 8) (leBytes 8 d.epoch)]
      return ⟨listWrites g 0 ess ++ header, 0, 0⟩

/-! ### MSHCUT (R295) -/

/-- MSHCUT's effect (R281, R295). -/
def effMshcut (a : SReg) : State → Eff := Act.effect do
  let s ← get
  let va := s.hart.readS a
  let w ← Act.block va 128
  let n := bitsOf w 384 32
  let known : Issue := {
    kind := .topology, op := 5, va := va, block := leBytes 128 w, bad := false, causes := []
    reads := [(dword w 16, 256)]
    writes := [[(dword w 16, 256)], [(dword w 56, 8 * min n 65536)], [(dword w 64, 8 * min n 65536)]]
    fin := [(va, 8)], extra := [] }
  let d ← Act.forIssue known (Act.meshDesc (dword w 16))
  Act.issue { known with
    bad := headerBad 5 w || (wellFormed d).isNone || n == 0 || decide (65536 < n) || bitsOf w 416 32 != 0 || bitsOf w 640 384 != 0
    causes := s.foreignMesh d
    reads := known.reads ++ (wellFormed d).elim [] fun d => [(dword w 24, 256 * (d.nbrick + d.ngbrick))]
    writes := known.writes ++ (wellFormed d).elim [] fun d => [[(d.bricka, 8192 * d.nbrick)]] }

/-- MSHCUT: queues the assignment of parts from weights (R295). -/
def execMshcut (a : SReg) (s : State) : Host.Outcome State Fault Refusal := runQueued (wordOf (.mshcut a)) (effMshcut a) s

/-- A value that is not negative, as a multiple of 2^−1100; none for a negative or infinite value and for NaN. -/
def scaled (f : FFmt) (w : Nat) : Option Nat :=
  match f.unpack false w with
  | .fin neg m e => if neg ∧ m ≠ 0 then none else some (m * 2 ^ (e + 1100).toNat)
  | _ => none

/-- The parts of cells from their scaled weights, with the sum of what stands before them (R295). -/
def cutParts (npart tot : Nat) : Nat → List Nat → List Nat
  | _, [] => []
  | sum, x :: xs => min (npart - 1) ((2 * sum + x) * npart / (2 * tot)) :: cutParts npart tot (sum + x) xs

/-- MSHCUT's run (R295). -/
def runMshcut (k : Command) : Eng EngPlan := do
  let w := k.word
  let n := bitsOf w 384 32
  let d ← Eng.meshDesc k (dword w 16)
  Eng.require (d.epoch = bitsOf w 576 64) 5 (d.epoch % 2 ^ 48)
  let cells ← Eng.bricks k d (List.range d.nbrick)
  match scaled .fp64 (bitsOf w 256 64), scaled .fp64 (bitsOf w 320 64) with
  | some w0, some tot =>
    Eng.require (tot ≠ 0) 6 0
    let xs ← cells.mapM fun c => do
      match scaled .fp32 (← Eng.read k (plus (dword w 24) (4 * c.label)) 4) with
      | some x => return x
      | none => Eng.fail 6 c.label
    let ps := cells.zip (cutParts n tot w0 xs)
    let mine := fun p => ps.filter fun q => q.2 == p
    let parts := (List.range d.nbrick).flatMap fun b => unitOf ((ps.filter fun q => q.1.label / 64 == b).map fun (c, p) =>
      put (plus (d.brick b) (78 + 32 * (c.label % 64))) (leBytes 2 p))
    let arrays := [
      put (dword w 56) ((List.range n).flatMap fun p => leBytes 8 (match mine p with | [] => 2 ^ 64 - 1 | (c, _) :: _ => c.label)),
      put (dword w 64) ((List.range n).flatMap fun p => leBytes 8 (mine p).length), put (plus d.addr 72) (leBytes 4 n)]
    return ⟨parts ++ arrays, 0, 0⟩
  | _, _ => Eng.fail 6 0

end Sys2Proof.Machine
end

