-- ==== Sys2Proof/Machine/Colour.lean ====
section
/-! DEFINITION. The colouring unit: CLRGEN (08 R298, R299). -/

namespace Sys2Proof.Machine

/-- CLRGEN's effect (R281, R298). -/
def effClrgen (a : SReg) : State → Eff := Act.effect do
  let va := (← get).hart.readS a
  let w ← Act.block va 64
  let gla := dword w 16
  let ncol := bitsOf w 320 8
  let known : Issue := {
    kind := .colouring, op := 0, va := va, block := leBytes 64 w, bad := false, causes := [], reads := [(gla, 64)]
    writes := [[(dword w 32, 4 * (min ncol 16 + 1))]], fin := [(va, 8)], extra := [] }
  let g ← if gla.toNat % 64 = 0 then Act.forIssue known (Act.load gla 64) else pure 0
  let n := bitsOf g 0 32
  let bad := headerBad 0 w || gla.toNat % 64 != 0 || listBad g || ncol == 0 || decide (16 < ncol) || bitsOf w 328 56 != 0
    || decide (2 ^ 32 < bitsOf w 384 64) || bitsOf w 448 64 != 0
  Act.issue { known with
    bad := bad, reads := (gla, 64) :: listArrays g n, writes := [(dword w 24, 4 * n)] :: known.writes, extra := [g] }

/-- CLRGEN: queues a colouring of a gather list (R298). -/
def execClrgen (a : SReg) (s : State) : Host.Outcome State Fault Refusal := runQueued (wordOf (.clrgen a)) (effClrgen a) s

/-- The lowest class of some that holds none of the cells of a face, or the overflow class (R298). -/
def colourOf (classes : List (List Nat)) (x : List Nat) : Nat := classes.findIdx fun t => x.all fun i => !t.contains i

/-- The classes of faces in list order (R298). -/
def colours : List (List Nat) → List (List Nat) → List Nat
  | _, [] => []
  | classes, x :: xs =>
    let c := colourOf classes x
    c :: colours (classes.modify c fun t => x ++ t) xs

/-- The cells that a face touches (R298). -/
def touched (own nbr info : Nat) : List Nat := if info.testBit 8 then [own] else [own, nbr]

/-- The writes of a list of 4-byte entries, 64 entries to a unit (R283). -/
def entryWrites (a : Word) (xs : List Nat) : List EngWrite :=
  (List.range ((xs.length + 63) / 64)).flatMap fun i => unitOf [put (plus a (256 * i)) (((xs.drop (64 * i)).take 64).flatMap (leBytes 4))]

/-- CLRGEN's run (R298). Of several identities at or above NIDS the detail is the first in list order, a face's owner before its
neighbour (DESIGN CHOICE, log 72). -/
def runClrgen (k : Command) : Eng EngPlan := do
  let w := k.word
  let g := k.extra.headD 0
  let n := bitsOf g 0 32
  let e := entryBytes g
  let own ← Eng.read k (dword g 16) (n * e)
  let nbr ← Eng.read k (dword g 24) (n * e)
  let info ← Eng.read k (dword g 32) (n * 4)
  let faces := (List.range n).map fun j =>
    touched (bitsOf own (8 * e * j) (8 * e)) (bitsOf nbr (8 * e * j) (8 * e)) (bitsOf info (32 * j) 32)
  match (faces.map fun x => x.filter fun i => decide (bitsOf w 384 64 ≤ i)).find? fun x => !x.isEmpty with
  | some x => Eng.fail 9 (x.headD 0)
  | none =>
    let ncol := bitsOf w 320 8
    let cols := colours (List.replicate ncol []) faces
    let ofClass := fun (c : Nat) => (List.range n).filter fun j => cols.getD j 0 == c
    let counts := put (dword w 32) ((List.range (ncol + 1)).flatMap fun c => leBytes 4 (ofClass c).length)
    return ⟨entryWrites (dword w 24) ((List.range (ncol + 1)).flatMap ofClass) ++ [counts], 0, 0⟩

/-- COLOURING_COMMAND_RUN: the colouring unit of a die performs a command and writes DONE (R298). -/
def execColouringCommandRun (die : Nat) (s : State) : Host.Outcome State Fault Refusal :=
  .next (s.engineStep .colouring die fun k => Eng.run k (runClrgen k))

end Sys2Proof.Machine
end

