-- ==== Sys2Proof/Machine/Copy.lean ====
section
/-! DEFINITION. The copy engine: command blocks, the issue checks, and the run of a command (07 R253 to R259). -/

namespace Sys2Proof.Machine

/-- A dimension entry (R254). -/
structure CopyDim where
  dcount : Nat
  scount : Nat
  soff : Int
  zero : Nat
  sstride : Int
  dstride : Int
  deriving DecidableEq, Repr

/-- A copy command block (R254). `zeros` is the sum of its reserved fields. -/
structure CopyBlock where
  srca : Nat
  dsta : Nat
  ndim : Nat
  esize : Nat
  flags : Nat
  zeros : Nat
  pad : Nat
  idx : Nat
  nidx : Nat
  idxw : Nat
  perm : Nat
  bound : Nat
  dims : List CopyDim
  deriving DecidableEq, Repr

/-- The header of 64 bytes and the dimension entries of 32 bytes as a block. -/
def CopyBlock.ofNat (h : Nat) (ds : List Nat) : CopyBlock where
  srca := bitsOf h 0 64
  dsta := bitsOf h 64 64
  ndim := bitsOf h 128 8
  esize := bitsOf h 136 8
  flags := bitsOf h 144 16
  zeros := bitsOf h 160 32 + bitsOf h 360 24
  pad := bitsOf h 192 64
  idx := bitsOf h 256 64
  nidx := bitsOf h 320 32
  idxw := bitsOf h 352 8
  perm := bitsOf h 384 64
  bound := bitsOf h 448 64
  dims := ds.map fun d =>
    ⟨bitsOf d 0 32, bitsOf d 32 32, toS 32 (bitsOf d 64 32), bitsOf d 96 32, toS 64 (bitsOf d 128 64), toS 64 (bitsOf d 192 64)⟩

/-- The dimensions named by a header; none where their number is out of range. -/
def copyDims (h : Nat) : Nat := if 1 ≤ bitsOf h 128 8 ∧ bitsOf h 128 8 ≤ 9 then bitsOf h 128 8 else 0

/-- The source dimension of destination dimension k: k, or CPYP's permutation (R255). -/
def CopyBlock.source (c : CopyBlock) (op k : Nat) : Nat := if op = 1 then bitsOf c.perm (4 * k) 4 else k

/-- The operation takes its last dimension from the index list (R256). -/
def indexed (op : Nat) : Bool := decide (2 ≤ op)

/-- The limits of R254 and R256 on the fields; operations 0 CPY, 1 CPYP, 2 CPYG, 3 CPYS. PAD is free where PADEN is clear
(DESIGN CHOICE, log 67: no rule says whether it is then an unused field that must be zero). -/
def CopyBlock.ok (c : CopyBlock) (op : Nat) : Bool :=
  let ns := List.range c.ndim
  let last := c.dims.getD (c.ndim - 1) ⟨0, 0, 0, 0, 0, 0⟩
  decide (1 ≤ c.ndim ∧ c.ndim ≤ 9 ∧ c.esize ≤ 6 ∧ c.flags ≤ 1 ∧ c.zeros = 0)
    && (if op = 1 then (ns.all fun j => (ns.map (c.source 1)).contains j) && c.perm / 16 ^ c.ndim == 0 else c.perm == 0)
    && (if indexed op then
          decide (c.nidx ≠ 0 ∧ (c.idxw = 2 ∨ c.idxw = 3) ∧ last.dcount = c.nidx ∧ last.scount = 0 ∧ last.soff = 0)
        else decide (c.idx = 0 ∧ c.nidx = 0 ∧ c.idxw = 0 ∧ c.bound = 0))
    && (c.dims.zipIdx.all fun (d, k) =>
          decide (d.dcount ≠ 0 ∧ d.zero = 0) && (d.scount != 0 || (indexed op && k + 1 == c.ndim)))
    && decide (c.dims.foldl (fun n d => n * d.dcount) 1 ≤ 2 ^ 40)

/-- The coordinates of one dimension: whether the source coordinate is inside, and the offsets of source and destination
(R255, R256). Of the indexed dimension, an index at or above BOUND names no coordinate. -/
def CopyBlock.axis (c : CopyBlock) (op : Nat) (idx : List Nat) (k : Nat) : List (Bool × Int × Int) :=
  let dk := c.dims.getD k ⟨0, 0, 0, 0, 0, 0⟩
  let dj := c.dims.getD (c.source op k) ⟨0, 0, 0, 0, 0, 0⟩
  if indexed op ∧ k + 1 = c.ndim then
    idx.zipIdx.filterMap fun (v, j) =>
      if v < c.bound then
        some (true, ((if op = 2 then v else j : Nat) : Int) * dk.sstride, ((if op = 2 then j else v : Nat) : Int) * dk.dstride)
      else none
  else
    (List.range dk.dcount).map fun (i : Nat) =>
      let x := (i : Int) + dj.soff
      (decide (0 ≤ x ∧ x < dj.scount), x * dj.sstride, (i : Int) * dk.dstride)

/-- The elements of a box, dimension 0 fastest. -/
def boxOf : List (List (Bool × Int × Int)) → List (Bool × Int × Int)
  | [] => [(true, 0, 0)]
  | ax :: rest => (boxOf rest).flatMap fun p => ax.map fun q => (p.1 && q.1, p.2.1 + q.2.1, p.2.2 + q.2.2)

/-- One element that a command writes: its destination, and its source or none for padding. -/
abbrev Move := Nat × Option Nat

/-- The writes of a command in loop order (R255, R256). -/
def CopyBlock.moves (c : CopyBlock) (op : Nat) (idx : List Nat) : List Move :=
  (boxOf ((List.range c.ndim).map (c.axis op idx))).filterMap fun (inside, so, d) =>
    if inside then some (wordOfInt (c.dsta + d), some (wordOfInt (c.srca + so)))
    else if c.flags = 1 then some (wordOfInt (c.dsta + d), none)
    else none

/-- The element size. -/
def CopyBlock.bytes (c : CopyBlock) : Nat := 2 ^ c.esize

/-- The padding pattern (R254). -/
def CopyBlock.padBytes (c : CopyBlock) : List Byte :=
  (List.range c.bytes).map fun i => BitVec.ofNat 8 (c.pad / 256 ^ (i % 8))

/-- The span from the lowest to the highest byte of elements at some addresses: first byte and length (R255). -/
def spanOf (n : Nat) : List Nat → Option (Nat × Nat)
  | [] => none
  | a :: as =>
    match spanOf n as with
    | none => some (a, n)
    | some (lo, len) => some (min a lo, max (a + n) (lo + len) - min a lo)

/-- The pages of a span that elements at some addresses touch, clipped to the span (R256). -/
def namedPages (n lo len : Nat) (as : List Nat) : List (Nat × Nat) :=
  (sortNats (as.flatMap fun a => [a / 65536, (a + n - 1) / 65536]).eraseDups).map fun p =>
    let a := max lo (p * 65536)
    (a, min (lo + len) (p * 65536 + 65536) - a)

/-- A range of the command pinned: every page of the span, or, where an index list names it, the pages that hold elements
(R256, R257). -/
def State.pinSide (s : State) (e : Env) (acc : Acc) (named : Bool) (n : Nat) (as : List Nat) : List Part × List Cause :=
  match spanOf n as with
  | none => ([], [])
  | some (lo, len) =>
    if named ∧ e.crosses lo len = false then
      pinPages (s.pinPage e acc (BitVec.ofNat 64 lo)) ((namedPages n lo len as).flatMap fun (a, k) => e.pages k a k)
    else s.pinRange e acc lo len

/-- Two spans overlap. -/
def spansMeet : Option (Nat × Nat) → Option (Nat × Nat) → Bool
  | some (a, n), some (b, m) => decide (a < b + m ∧ b < a + n)
  | _, _ => false

/-- The environment of the copy engine that serves a hart: its own master identity (13 R385). -/
def Hart.copyEnv (h : Hart) : Env := { h.env with master := coreMaster h.core 1 }

/-- The commands in the queue of a core's copy engine. -/
def State.copyQueue (s : State) (core : Nat) : List Command := s.cmds.filter fun k => k.kind == .copy && k.unit == core

/-- The completion word as a destination range (R253), pinned. -/
def State.pinDone (s : State) (done : Option Word) : List Part × List Cause :=
  match done with
  | none => ([], [])
  | some w => s.pinRange s.hart.copyEnv .store w.toNat 8

/-- The writes of a command with the coordinates of its side that no index names: the destination of CPYG, the source of CPYS, the
whole range whatever the list holds (R256). -/
def CopyBlock.plainMoves (c : CopyBlock) (op : Nat) : List Move := { c with bound := 1 }.moves op (List.replicate c.nidx 0)

/-- The addresses of the source elements of a command, and of its destination elements. -/
def CopyBlock.sides (c : CopyBlock) (op : Nat) (idx : List Nat) : List Nat × List Nat :=
  ((if op = 3 then c.plainMoves op else c.moves op idx).filterMap Prod.snd,
    (if op = 2 then c.plainMoves op else c.moves op idx).map Prod.fst)

/-- The faults of the side of a command that no index names, and of its completion word: they are known before the list is read. -/
def State.plainCauses (s : State) (op : Nat) (done : Option Word) (c : CopyBlock) : List Cause :=
  let (ss, ds) := c.sides op []
  (s.pinSide s.hart.copyEnv .load false c.bytes (if op = 3 then ss else [])).2
    ++ (s.pinSide s.hart.copyEnv .store false c.bytes (if op = 2 then ds else [])).2 ++ (s.pinDone done).2

/-- The issue checks of a block whose fields are legal, after its index list has been read (R257), and its command. -/
def State.copyCheck (s : State) (op : Nat) (va : Word) (done : Option Word) (c : CopyBlock) (idx : List Nat) :
    Except Cause Command :=
  let e := s.hart.copyEnv
  let (ss, ds) := c.sides op idx
  let (src, c1) := s.pinSide e .load (op = 2) c.bytes ss
  let (dst, c2) := s.pinSide e .store (op = 3) c.bytes ds
  let (fin, c3) := s.pinDone done
  match firstCause (c1 ++ c2 ++ c3) with
  | some cause => .error cause
  | none =>
    if indexed op ∧ idx.any (fun v => decide (c.bound ≤ v)) then .error (.copyIndex va)
    else if op = 1 ∧ spansMeet (spanOf c.bytes ss) (spanOf c.bytes ds) then .error (.copyOverlap va)
    else .ok { id := s.stamp, kind := .copy, unit := s.hart.core, op := op, blockVa := va, block := [], done := done
               env := e, hart := s.hart.num, launch := s.hart.block.map fun b => (b.slot, b.node, b.gen), stamp := none
               src := src, dst := [dst], fin := fin, claimed := false, tiles := [], status := none, extra := [] }

/-- The words of a block as the engine keeps them: header, dimension entries and indices. -/
def copyWords (h : Nat) (ds idx : List Nat) : List Nat := h :: ds.length :: ds ++ idx

/-- The indices of a command's list, each read as a scalar load. -/
def Act.indices (c : CopyBlock) : Act (List Nat) :=
  (List.range c.nidx).mapM fun j => Act.load (plus (BitVec.ofNat 64 c.idx) (j * 2 ^ c.idxw)) (2 ^ c.idxw)

/-- The index list is aligned to its width (R257). -/
def Act.listAligned (op : Nat) (c : CopyBlock) : Act Unit :=
  let il := indexed op && (c.idxw == 2 || c.idxw == 3)
  Act.require (!il || c.idx % 2 ^ c.idxw == 0) (.misalign (BitVec.ofNat 64 c.idx))

/-- A copy instruction: the block is read and checked, and the engine's queue of 32 takes the command (R253, R257). A fault in reading
the block or the list comes after the conditions that rank before it and are known without what could not be read (01 R53). -/
def Act.copy (op : Nat) (va : Word) (done : Option Word) : Act Unit := do
  Act.require (va.toNat % 64 = 0) (.misalign va)
  match done with
  | some w => Act.require (w.toNat % 8 = 0) (.misalign w)
  | none => pure ()
  let fin := do Act.noneOf ((← get).pinDone done).2
  let h ← Act.unless fin (Act.load va 64)
  let list := Act.listAligned op (CopyBlock.ofNat h [])
  let ds ← Act.unless (do list; fin) ((List.range (copyDims h)).mapM fun k => Act.load (plus va (64 + 32 * k)) 32)
  let c := CopyBlock.ofNat h ds
  list
  Act.require (c.ok op) (.copyIndex va)
  let idx ← if indexed op then Act.unless (do Act.noneOf ((← get).plainCauses op done c)) (Act.indices c) else pure []
  let s ← get
  match s.copyCheck op va done c idx with
  | .error cause => Act.trap cause
  | .ok k =>
    if 32 ≤ (s.copyQueue s.hart.core).length then throw (.wait [])
    else set (s.enqueue { k with extra := copyWords h ds idx })

/-- The effect of a copy instruction; field b 0 names no completion word (R253). -/
def effCopy (op : Nat) (a b : SReg) (s : State) : Eff :=
  Act.effect (Act.copy op (s.hart.readS a) (if b = 0 then none else some (s.hart.readS b))) s

/-- CPY: issues a copy command (R253, R255). -/
def execCpy (a b : SReg) (s : State) : Host.Outcome State Fault Refusal := runQueued (wordOf (.cpy a b)) (effCopy 0 a b) s

/-- CPYP: issues a permuting copy command (R253, R255). -/
def execCpyp (a b : SReg) (s : State) : Host.Outcome State Fault Refusal := runQueued (wordOf (.cpyp a b)) (effCopy 1 a b) s

/-- CPYG: issues an indexed gather copy command (R253, R256). -/
def execCpyg (a b : SReg) (s : State) : Host.Outcome State Fault Refusal := runQueued (wordOf (.cpyg a b)) (effCopy 2 a b) s

/-- CPYS: issues an indexed scatter copy command (R253, R256). -/
def execCpys (a b : SReg) (s : State) : Host.Outcome State Fault Refusal := runQueued (wordOf (.cpys a b)) (effCopy 3 a b) s

/-! ### The engine -/

/-- The block and the indices that a command keeps. -/
def Command.copyBlock (k : Command) : CopyBlock × List Nat :=
  match k.extra with
  | h :: n :: rest => (CopyBlock.ofNat h (rest.take n), rest.drop n)
  | _ => (CopyBlock.ofNat 0 [], [])

/-- The parts of one element. -/
def elemParts (ps : List Part) (a n : Nat) : List Part := pinned ps n a n

/-- The bytes of one element, and whether poison was among them. -/
def State.readElem (s : State) (src : List Part) (c : CopyBlock) (m : Move) : State × List Byte × Bool :=
  match m.2 with
  | none => (s, c.padBytes, false)
  | some a => let (s, bs, bad) := s.readParts (elemParts src a c.bytes); (s, bs, bad.isSome)

/-- The whole source is read before any byte is written (R255, R256). -/
def State.readMoves (s : State) (src : List Part) (c : CopyBlock) : List Move → State × List (Nat × List Byte × Bool)
  | [] => (s, [])
  | m :: ms =>
    let (s, bs, bad) := s.readElem src c m
    let (s, rest) := s.readMoves src c ms
    (s, (m.1, bs, bad) :: rest)

/-- An element that a command writes: its address, its bytes, and whether they are poisoned. -/
abbrev Elem := Nat × List Byte × Bool

/-- Bytes of an element that no earlier element of the command wrote (03 R115). -/
def freshBytes (earlier : List Elem) (x : Elem) : List Nat :=
  ((List.range x.2.1.length).map (x.1 + ·)).filter fun b => !(earlier.any fun y => y.1 ≤ b && b < y.1 + y.2.1.length)

/-- The bytes of an element count in their tile, each destination byte of the command once (03 R115). -/
def State.countElem (s : State) (k : Command) (earlier : List Elem) (x : Elem) : State :=
  let f := freshBytes earlier x
  if f.length = x.2.1.length then s.countParts k.env.ctx (elemParts k.dst.flatten x.1 x.2.1.length)
  else f.foldl (fun s b => s.countParts k.env.ctx (elemParts k.dst.flatten b 1)) s

/-- One element is written, counted in its tile, and carries poison (03 R115; R259). -/
def State.writeElem (s : State) (k : Command) (earlier : List Elem) (x : Elem) : State :=
  let ps := elemParts k.dst.flatten x.1 x.2.1.length
  let s := (s.writeParts k.env ps x.2.1).countElem k earlier x
  if x.2.2 then s.poisonParts ps else s

/-- Elements are written in order; those of the list before them have been. -/
def State.writeElems (s : State) (k : Command) (earlier : List Elem) : List Elem → State
  | [] => s
  | x :: xs => (s.writeElem k earlier x).writeElems k (earlier ++ [x]) xs

/-- The pieces of memory and scratchpads that elements cover. -/
def piecesOf (k : Command) (xs : List Elem) : List (Nat × Nat) :=
  xs.flatMap fun x => coverOf (elemParts k.dst.flatten x.1 x.2.1.length)

/-- The elements of a copy command with their bytes: the whole source is read before any byte is written (R255, R256), and what a
stop left unwritten stays read (03 R138). -/
def State.copyElems (s : State) (k : Command) : State × List Elem :=
  if k.rest.isEmpty then
    let (c, idx) := k.copyBlock
    s.readMoves k.src c (c.moves k.op idx)
  else (s, k.rest)

/-- A copy command with its elements read writes those up to number `n`. -/
def State.copyTo (s : State) (k : Command) (xs : List Elem) (n : Nat) : State :=
  let ys := (xs.take n).drop k.at_
  (s.renew (piecesOf k ys)).writeElems k (xs.take k.at_) ys

/-- A copy command that may run makes its reads and its writes, and ends (R255, R256, R258, R259); fenced memory gives status 1
(15 R425). -/
def State.runCopy (s : State) (k : Command) : State :=
  let (s, xs) := s.copyElems k
  let s := s.copyTo k xs xs.length
  if xs.any (fun x => x.2.2) ∨ s.fencedParts k.dst.flatten then
    let s := (s.report (288 + k.unit) { code := 0x51, adrk := 1, addr := k.blockVa, master := k.env.master, ctx := k.env.ctx }).1
    s.complete k 1 0
  else s.complete k 0 0

/-- The step of a core's copy engine: a command that has ended writes its DONE word, or the oldest one that may run runs. -/
def State.copyStep (s : State) (core : Nat) : State :=
  match (s.copyQueue core).find? fun k => k.status.isSome || s.mayRun k with
  | none => s
  | some k =>
    match k.status with
    | some (st, d) => s.complete k st d
    | none => s.runCopy k

/-- COPY_COMMAND_RUN: the copy engine of a core performs a command (R255). -/
def execCopyCommandRun (core : Nat) (s : State) : Host.Outcome State Fault Refusal := .next (s.copyStep core)

/-- COMMAND_CLAIM_REGISTRATION: an accepted command issues once its claims and its source tiles allow it (03 R132). -/
def execCommandClaimRegistration (e : EngineKind) (k : Nat) (s : State) : Host.Outcome State Fault Refusal :=
  .next (s.registerNext e k)

end Sys2Proof.Machine
end

