-- ==== Sys2Proof/Machine/MeshPack.lean ====
section
/-! DEFINITION. A mesh taken from its bricks and tree, and packed into new ones: order, brick closing, deltas and escapes,
trees, remap lists and the installation of a descriptor (08 R273 to R278, R282, R284, R294; logs 33, 34). -/

namespace Sys2Proof.Machine

/-! ### Keys (R273) -/

/-- Digit `l` of a curve key. -/
def keyDigit (key l : Nat) : Nat := key / 2 ^ (60 - 3 * l) % 8

/-- A key with its digits at and beyond a level zero: the key of the ancestor at that level. -/
def keyAt (key l : Nat) : Nat := key / 2 ^ (63 - 3 * l) * 2 ^ (63 - 3 * l)

/-- The key of child `c` of a cell at level `l`. -/
def childKey (key l c : Nat) : Nat := key + c * 2 ^ (60 - 3 * l)

/-- Two cells overlap: one lies in the other's tree. -/
def MCell.meets (a b : MCell) : Bool := keyAt a.key (min a.level b.level) == keyAt b.key (min a.level b.level)

/-! ### Reading (R278) -/

/-- The level of the root above a tree node, by the path of child numbers that the cell's key gives; none where the tree is
malformed (R278). -/
def climb (tree ntree key : Nat) : Nat → Nat → Option Nat
  | level, i =>
    let n := bitsOf tree (128 * i) 128
    if ntree ≤ i ∨ bitsOf n 112 8 ≠ level then none
    else if bitsOf n 0 32 = 2 ^ 32 - 1 then some level
    else
      match level with
      | 0 => none
      | l + 1 => if bitsOf n 120 3 = keyDigit key l then climb tree ntree key l (bitsOf n 0 32) else none

/-- A cell's digits end at its level, its records name cells of the part alone, and its tree node names the cell. -/
def MCell.sound (labels : List Nat) (tree : Nat) (c : MCell) : Bool :=
  keyAt c.key c.level == c.key && decide (c.key < 2 ^ 63) && (c.faces.all fun f => f.bnd || labels.contains f.nbr) && bitsOf tree (128 * c.tree + 64) 48 == c.label

/-- Every cell of a part, checked, with the level of its root. -/
def Eng.mesh (k : Command) (d : MeshDesc) : Eng (List MCell) := do
  let cells ← Eng.bricks k d (List.range (d.nbrick + d.ngbrick))
  let tree ← Eng.read k d.treea (16 * d.ntree)
  let labels := cells.map MCell.label
  cells.mapM fun c =>
    match climb tree d.ntree c.key c.level c.tree with
    | some r => if c.sound labels tree then return { c with root := r } else Eng.fail 4 c.label
    | none => Eng.fail 4 c.label

/-! ### Labels: an identity of the old mesh; child c of it; the merged parent of eight cells; a cell of another part -/

/-- The label of child `c` of a cell. -/
def childLabel (id c : Nat) : Nat := id % 2 ^ 48 + (c + 1) * 2 ^ 48

/-- The label of the parent of eight cells, the first of them `id`. -/
def parentLabel (id : Nat) : Nat := id % 2 ^ 48 + 2 ^ 52

/-- The label of the cell that a HOME field names (R275). -/
def homeLabel (home : Nat) : Nat := home % 2 ^ 48 + 2 ^ 60 * (1 + home / 2 ^ 52)

/-- The old identity that a label comes from (log 34). -/
def labelOrigin (l : Nat) : Nat := l % 2 ^ 48

/-! ### Packing (R273) -/

/-- The identity of a label. -/
def idOf (ids : List (Nat × Nat)) (l : Nat) : Option Nat := ids.lookup l

/-- A neighbour's difference fits 16 bits (R276). -/
def nearId (base n : Nat) : Bool := decide ((n : Int) - base ≤ 32767 ∧ (base : Int) - n ≤ 32767)

/-- The escapes of a cell in a brick of some base. -/
def MCell.escapes (ids : List (Nat × Nat)) (base : Nat) (c : MCell) : Nat :=
  (c.faces.filter fun f => !f.bnd && !((idOf ids f.nbr).map (nearId base)).getD true).length

/-- The first cells are eight sibling leaves. -/
def siblings (cs : List MCell) : Bool :=
  match cs with
  | [] => false
  | c :: _ =>
    decide (c.root < c.level) && keyDigit c.key (c.level - 1) == 0 && (cs.take 8).length == 8
      && ((cs.take 8).zipIdx.all fun (d, i) => d.level == c.level && d.key == childKey c.key (c.level - 1) i)

/-- The next cell closes a brick that holds some cells, with their face records and escapes (R273). -/
def closes (ids : List (Nat × Nat)) (base n nf ne : Nat) (cs : List MCell) : Bool :=
  let faces := fun (ds : List MCell) => (ds.map fun d => d.faces.length).sum
  let escs := fun (ds : List MCell) => (ds.map (MCell.escapes ids base)).sum
  let full := fun (m : Nat) => decide (64 < n + m ∨ 768 < nf + faces (cs.take m) ∨ 256 < ne + escs (cs.take m))
  full 1 || (siblings cs && full 8)

/-- Cells in their order split into bricks, from brick `b` on; `cur` is the brick being filled, last cell first (R273). -/
def fillBricks (ids : List (Nat × Nat)) (b : Nat) (cur : List MCell) : List MCell → List (List MCell)
  | [] => if cur.isEmpty then [] else [cur.reverse]
  | c :: cs =>
    let nf := (cur.map fun d => d.faces.length).sum
    let ne := (cur.map (MCell.escapes ids (64 * b))).sum
    if !cur.isEmpty && closes ids (64 * b) cur.length nf ne (c :: cs) then cur.reverse :: fillBricks ids (b + 1) [c] cs
    else fillBricks ids b (c :: cur) cs

/-- A mesh in bricks: the bricks, how many are local, and the identity of every label. -/
structure Packed where
  bricks : List (List MCell)
  local_ : Nat
  ids : List (Nat × Nat)
  deriving DecidableEq, Repr

/-- The cells in ascending key. -/
def byKey (cs : List MCell) : List MCell := sortBy (fun a b => decide (a.key ≤ b.key)) cs

/-- One packing, with escapes counted by identities that an earlier one gave. -/
def packOnce (m : List MCell) (ids : List (Nat × Nat)) : Packed :=
  let loc := fillBricks ids 0 [] (byKey (m.filter fun c => !c.ghost))
  let gh := fillBricks ids loc.length [] (byKey (m.filter MCell.ghost))
  let bs := loc ++ gh
  ⟨bs, loc.length, bs.zipIdx.flatMap fun (cs, b) => cs.zipIdx.map fun (c, j) => (c.label, 64 * b + j)⟩

/-- The packing whose escapes follow from its own identities, from one without escapes on (log 33). -/
def packMesh (m : List MCell) : Nat → List (Nat × Nat) → Option Packed
  | 0, _ => none
  | n + 1, ids => let p := packOnce m ids; if p.ids = ids then some p else packMesh m n p.ids

/-! ### The tree (R278) -/

/-- A tree node by its level and its key. -/
abbrev TNode := Nat × Nat

/-- The nodes above a cell and its own. -/
def MCell.chain (c : MCell) : List TNode := (List.range (c.level + 1 - c.root)).map fun i => (c.root + i, keyAt c.key (c.root + i))

/-- The nodes that have descendants. -/
def interiorNodes (m : List MCell) : List TNode := (m.flatMap fun c => c.chain.dropLast).eraseDups

/-- The nodes in the order of R278, below an interior node. -/
def placeChildren (inner : List TNode) : Nat → TNode → List TNode
  | 0, _ => []
  | fuel + 1, n =>
    if inner.contains n then
      let cs := (List.range 8).map fun c => (n.1 + 1, childKey n.2 n.1 c)
      cs ++ cs.flatMap (placeChildren inner fuel)
    else []

/-- The nodes of a mesh in the order of R278. -/
def treeOrder (m : List MCell) : List TNode :=
  let inner := interiorNodes m
  let all := (m.flatMap MCell.chain).eraseDups
  let roots := sortBy (fun a b => decide (a.2 ≤ b.2))
    (all.filter fun n => n.1 == 0 || !inner.contains (n.1 - 1, keyAt n.2 (n.1 - 1)))
  roots.flatMap fun r => r :: placeChildren inner 22 r

/-- A node's bytes; a child that the part does not hold is a leaf without a cell (log 35). -/
def nodeBytes (order inner : List TNode) (cells : List (TNode × Nat)) (n : TNode) : List Byte :=
  let up := (n.1 - 1, keyAt n.2 (n.1 - 1))
  let isRoot := n.1 == 0 || !inner.contains up
  let isInner := inner.contains n
  leBytes 4 (if isRoot then 2 ^ 32 - 1 else order.idxOf up)
    ++ leBytes 4 (if isInner then order.idxOf (n.1 + 1, n.2) else 2 ^ 32 - 1)
    ++ leBytes 6 (if isInner then 2 ^ 48 - 1 else (cells.lookup n).getD (2 ^ 48 - 1))
    ++ leBytes 1 n.1 ++ leBytes 1 (if isRoot then 0 else keyDigit n.2 (n.1 - 1))

/-! ### Bricks (R274 to R276) -/

/-- The face records of a cell in the order of R276. -/
def MCell.sorted (c : MCell) : List MFace := sortBy (fun a b => decide (a.face * 4 + a.sub ≤ b.face * 4 + b.sub)) c.faces

/-- A record as a face record of a brick, with the escapes so far. -/
def recordBytes (p : Packed) (ghosts : List Nat) (base : Nat) (f : MFace) (esc : List Nat) : List Byte × List Nat :=
  let word := fun (e : Bool) (v : Nat) =>
    leBytes 4 (Face.toNat ⟨!f.bnd && ghosts.contains f.nbr, f.bnd, e, f.own, f.face, f.sub, f.nface, f.nsub, f.hang, v⟩)
  if f.bnd then (word false f.tag, esc)
  else
    let n := (idOf p.ids f.nbr).getD 0
    if nearId base n then (word false (ofS 16 ((n : Int) - base)), esc) else (word true esc.length, esc ++ [n])

/-- Bytes filled up with zeros. -/
def padTo (n : Nat) (bs : List Byte) : List Byte := bs ++ List.replicate (n - bs.length) 0

/-- Brick `b`. -/
def brickBytes (p : Packed) (ghosts : List Nat) (order : List TNode) (b : Nat) (cs : List MCell) : List Byte :=
  let base := 64 * b
  let recs := cs.flatMap MCell.sorted
  let (fb, esc) := recs.foldl (fun (bs, esc) f => let (x, e) := recordBytes p ghosts base f esc; (bs ++ x, e)) ([], [])
  let frec := fun (j : Nat) => ((cs.take j).map fun c => c.faces.length).sum
  let cell := fun (c : MCell) (j : Nat) => leBytes 32
    (Cell.toNat ⟨c.key, c.type, c.level, c.faces.length, c.ghost.toNat, frec j, c.part, order.idxOf (c.level, c.key), if c.ghost then c.home else 0⟩)
  let keyOf := fun (o : Option MCell) => (o.map MCell.key).getD 0
  padTo 64 (leBytes 8 base ++ leBytes 2 cs.length ++ leBytes 2 esc.length ++ leBytes 2 recs.length
      ++ leBytes 2 (if b < p.local_ then 0 else 1) ++ leBytes 8 (keyOf cs.head?) ++ leBytes 8 (keyOf cs.getLast?))
    ++ padTo 2048 (cs.zipIdx.flatMap fun (c, j) => cell c j) ++ padTo 3072 fb ++ padTo 2048 (esc.flatMap (leBytes 8))
    ++ List.replicate 960 0

/-! ### The end of a rewriting command -/

/-- The lowest identity of a cell that breaks the balance: neighbours more than one level apart, or more than 12 records (R277). -/
def unbalanced (m : List MCell) : Option Nat :=
  let levels := m.map fun c => (c.label, c.level)
  let bad := m.flatMap fun c =>
    (if 12 < c.faces.length then [c.label] else [])
      ++ (c.faces.filter fun f => !f.bnd && match levels.lookup f.nbr with
          | some l => decide (l + 1 < c.level ∨ c.level + 1 < l)
          | none => false).flatMap fun f => [c.label, f.nbr]
  (bad.map labelOrigin).min?

/-- The lowest old identity of a cell that names a cell which the mesh does not hold. -/
def dangling (m : List MCell) : Option Nat :=
  let labels := m.map MCell.label
  ((m.filter fun c => !(c.faces.all fun f => f.bnd || labels.contains f.nbr)).map fun c => labelOrigin c.label).min?

/-- Where a rewriting command puts a mesh: brick area, its bricks, tree area, its nodes. -/
structure Areas where
  bricka : Word
  brickcap : Nat
  treea : Word
  treecap : Nat
  deriving DecidableEq, Repr

/-- A mesh packed and checked against its areas (R277, R282). -/
def Eng.pack (m : List MCell) (a : Areas) : Eng Packed := do
  match dangling m with
  | some id => Eng.fail 4 id
  | none =>
    match unbalanced m with
    | some id => Eng.fail 2 id
    | none =>
      match packMesh m 64 (packOnce m []).ids with
      | none => Eng.fail 4 0
      | some p =>
        Eng.require (p.bricks.length ≤ a.brickcap) 1 p.bricks.length
        Eng.require ((treeOrder m).length ≤ a.treecap) 1 (treeOrder m).length
        return p

/-- The writes of the new bricks, each a unit, and of the new tree (R283, R284). -/
def meshWrites (m : List MCell) (p : Packed) (a : Areas) : List EngWrite :=
  let order := treeOrder m
  let inner := interiorNodes m
  let ghosts := (m.filter MCell.ghost).map MCell.label
  let cells := m.map fun c => ((c.level, c.key), (idOf p.ids c.label).getD 0)
  (p.bricks.zipIdx.flatMap fun (cs, b) => unitOf [put (plus a.bricka (8192 * b)) (brickBytes p ghosts order b cs)])
    ++ [put a.treea (order.flatMap (nodeBytes order inner cells))]

/-- The write of a remap list with its records (R294). -/
def remapWrite (a : Word) (epoch : Nat) (rs : List Nat) : EngWrite :=
  put a (leBytes 8 rs.length ++ leBytes 8 epoch ++ rs.flatMap (leBytes 16))

/-- A remap record (R294). -/
def remapRec (dst src kind : Nat) : Nat := dst * 2 ^ 64 + src * 2 ^ 16 + kind

/-- The last write to a descriptor: it names the new mesh, and EPOCH rises (R284). -/
def installWrite (d : MeshDesc) (m : List MCell) (p : Packed) (a : Areas) : EngWrite :=
  let locals := (m.filter fun c => !c.ghost).length
  put d.addr (leBytes 80 (MeshDesc.toNat { d with
    epoch := (d.epoch + 1) % 2 ^ 64, ncell := locals, nbrick := p.local_, ngbrick := p.bricks.length - p.local_
    bricka := a.bricka, brickcap := a.brickcap, ntree := (treeOrder m).length, treea := a.treea, treecap := a.treecap
    nghost := m.length - locals }))

/-! ### The pattern table (R279) -/

/-- A link byte: a subface of a parent face, or a sibling and its face. -/
inductive Link where
  | parent (face sub : Nat)
  | sibling (child face : Nat)
  deriving DecidableEq, Repr

/-- The faces of a cell type (R275). -/
def typeFaces : Nat → Nat
  | 0 => 4
  | 1 => 6
  | 2 => 5
  | 3 => 5
  | _ => 0

/-- Byte `i` of the entry of a parent type and a child. -/
def patByte (pat t c i : Nat) : Nat := bitsOf pat (8 * (128 * t + 16 * c + i)) 8

/-- The link of a child's face. -/
def patLink (pat t c f : Nat) : Link :=
  let x := patByte pat t c (2 + f)
  if 128 ≤ x then .parent (x / 16 % 8) (x / 4 % 4) else .sibling (x / 16 % 8) (x % 8)

/-- A parent type is present. -/
def patPresent (pat t : Nat) : Bool := bitsOf pat (1024 * t) 1024 != 0

/-- The children and faces of a parent type that lie on a subface of a parent face. -/
def patOn (pat t pf s : Nat) : List (Nat × Nat) :=
  (List.range 8).flatMap fun c =>
    ((List.range (patByte pat t c 1)).filter fun f => patLink pat t c f == .parent pf s).map fun f => (c, f)

/-- The entries of a parent type that is present keep the rules of R279. -/
def patOk (pat t : Nat) : Bool :=
  ((List.range 8).all fun c =>
    patByte pat t c 0 ≤ 3 && patByte pat t c 1 == typeFaces (patByte pat t c 0)
      && (List.range (patByte pat t c 1)).all fun f =>
        match patLink pat t c f with
        | .parent pf _ => decide (pf < typeFaces t)
        | .sibling e g => decide (g < patByte pat t e 1) && patLink pat t e g == .sibling c f)
    && (List.range (typeFaces t)).all fun pf => (List.range 4).all fun s => (patOn pat t pf s).length == 1

/-- The pattern table of a mesh, checked (R279). -/
def Eng.pattern (k : Command) (d : MeshDesc) : Eng Nat := do
  let pat ← Eng.read k d.patta 512
  Eng.require ((List.range 4).all fun t => !patPresent pat t || patOk pat t) 4 0
  return pat

end Sys2Proof.Machine
end

