-- ==== Sys2Proof/Machine/MeshRewrite.lean ====
section
/-! DEFINITION. MSHREF, MSHCRS and MSHREN: refinement, coarsening, and renumbering with the ghost layer (08 R290 to R294;
logs 34 to 37). -/

namespace Sys2Proof.Machine

/-! ### Issue (R290) -/

/-- The fields that an operation does not use are zero, and those it uses keep their limits; 2 MSHREF, 3 MSHCRS, 4 MSHREN. -/
def rewriteBad (op w : Nat) : Bool :=
  let gsync := op == 4 && bitsOf w 544 16 == 1
  headerBad op w || bitsOf w 560 16 != 0 || bitsOf w 736 288 != 0
    || (op == 4 && bitsOf w 192 64 != 0) || decide ((if op = 4 then 1 else 0) < bitsOf w 544 16)
    || (if gsync then bitsOf w 704 32 == 0 || decide (4096 < bitsOf w 704 32) else bitsOf w 640 96 != 0)
    || (dword w 32).toNat % 8192 != 0 || (dword w 48).toNat % 16 != 0 || (dword w 56).toNat % 64 != 0

/-- The old and the new brick area overlap (R290). -/
def areasMeet (d : MeshDesc) (w : Nat) : Bool :=
  let a := d.bricka.toNat
  let b := (dword w 32).toNat
  decide (a < b + 8192 * bitsOf w 320 32 ∧ b < a + 8192 * d.brickcap)

/-- The entries of a part table: device, die and descriptor address; none where bytes 2 to 7 are not zero (R290). -/
def partEntries (tab n : Nat) : Option (List (Nat × Nat × Word)) :=
  (List.range n).mapM fun i =>
    let e := bitsOf tab (128 * i) 128
    if bitsOf e 16 48 = 0 then some (bitsOf e 0 8, bitsOf e 8 8, BitVec.ofNat 64 (bitsOf e 64 64)) else none

/-- The entries of the part table that a command reads: none where it synchronises no ghosts or their number is out of range. -/
def tableEntries (op w : Nat) : Nat :=
  let n := bitsOf w 704 32
  if op = 4 ∧ bitsOf w 544 16 = 1 ∧ n ≤ 4096 then n else 0

/-- The effect of MSHREF, MSHCRS and MSHREN (R281, R290). The ranges that the block names are checked whether or not the descriptor is
well formed. -/
def effRewrite (op : Nat) (a : SReg) : State → Eff := Act.effect do
  let s ← get
  let va := s.hart.readS a
  let w ← Act.block va 128
  let npt := tableEntries op w
  let known : Issue := {
    kind := .topology, op := op, va := va, block := leBytes 128 w, bad := false, causes := []
    reads := [(dword w 16, 256), (dword w 80, 16 * npt)]
    writes := [[(dword w 16, 256)], [(dword w 32, 8192 * bitsOf w 320 32)], [(dword w 48, 16 * bitsOf w 352 32)],
      [(dword w 56, 16 + 16 * bitsOf w 512 32)]]
    fin := [(va, 8)], extra := [] }
  let d ← Act.forIssue known (Act.meshDesc (dword w 16))
  let known := { known with
    causes := s.foreignMesh d
    reads := known.reads ++ (wellFormed d).elim [] fun d => if op = 4 then [] else [(dword w 24, 64 * (d.nbrick + d.ngbrick))] }
  let tab ← if npt = 0 then pure 0 else Act.forIssue known (Act.load (dword w 80) (16 * npt))
  let owners := partEntries tab npt
  let away := ((owners.getD []).filter fun e => e.1 != s.fab.device.toNat).map fun e => Cause.access e.2.2
  Act.issue { known with
    bad := rewriteBad op w || (wellFormed d).isNone || owners.isNone || ((wellFormed d).map fun d => areasMeet d w).getD false
    causes := known.causes ++ if s.hart.ctxcfg.getLsbD 1 then [] else away }

/-- MSHREF: queues a refinement (R291). -/
def execMshref (a : SReg) (s : State) : Host.Outcome State Fault Refusal := runQueued (wordOf (.mshref a)) (effRewrite 2 a) s

/-- MSHCRS: queues a coarsening (R292). -/
def execMshcrs (a : SReg) (s : State) : Host.Outcome State Fault Refusal := runQueued (wordOf (.mshcrs a)) (effRewrite 3 a) s

/-- MSHREN: queues a renumbering (R293). -/
def execMshren (a : SReg) (s : State) : Host.Outcome State Fault Refusal := runQueued (wordOf (.mshren a)) (effRewrite 4 a) s

/-! ### Refinement (R291) -/

/-- The face record of child `c` on face `f`, from its link and the parent's records. -/
def childFace (pat : Nat) (p : MCell) (c f : Nat) : Option MFace :=
  match patLink pat p.type c f with
  | .sibling e g => some ⟨f, 0, g, 0, false, decide (c < e), false, false, 0, childLabel p.label e⟩
  | .parent pf s =>
    let rs := p.faces.filter fun r => r.face == pf
    match rs.find? fun r => r.hang && r.sub == s with
    | some r => some ⟨f, 0, r.nface, 0, false, r.own, false, false, 0, r.nbr⟩
    | none =>
      (rs.find? fun r => !r.hang).map fun r =>
        if r.bnd then ⟨f, 0, 0, 0, false, true, false, true, r.tag, 0⟩
        else ⟨f, 0, r.nface, s, false, r.own, false, false, 0, r.nbr⟩

/-- Child `c` of a cell. -/
def childCell (pat : Nat) (p : MCell) (c : Nat) : Option MCell :=
  ((List.range (patByte pat p.type c 1)).mapM (childFace pat p c)).map fun fs =>
    { p with label := childLabel p.label c, key := childKey p.key p.level c, type := patByte pat p.type c 0
             level := p.level + 1, faces := fs }

/-- A neighbour's record toward a cell that is refined: four records where the neighbour was at its level, one record where it
was finer; a coarser neighbour's record stays for the balance check to find. -/
def refineRecord (pat : Nat) (p q : MCell) (r : MFace) : List MFace :=
  let at_ := fun (s : Nat) => (patOn pat p.type r.nface s).headD (0, 0)
  if r.bnd || r.nbr != p.label then [r]
  else if q.level = p.level then
    (List.range 4).map fun s => { r with hang := true, sub := s, nface := (at_ s).2, nsub := 0, nbr := childLabel p.label (at_ s).1 }
  else if p.level < q.level then [{ r with nface := (at_ r.nsub).2, nsub := 0, nbr := childLabel p.label (at_ r.nsub).1 }]
  else [{ r with nbr := childLabel p.label 0 }]

/-- One cell is refined. -/
def refineCell (pat : Nat) (m : List MCell) (l : Nat) : Eng (List MCell) := do
  match m.find? fun c => c.label == l with
  | none => return m
  | some p =>
    Eng.require (patPresent pat p.type) 4 p.label
    match (List.range 8).mapM (childCell pat p) with
    | none => Eng.fail 4 p.label
    | some cs =>
      return (m.filter fun c => c.label != l).map (fun q => { q with faces := q.faces.flatMap (refineRecord pat p q) }) ++ cs

/-- The marked local cells (R290). -/
def Eng.marked (k : Command) (m : List MCell) : Eng (List MCell) := do
  let ms ← m.mapM fun c => do
    if c.ghost then return none
    else return if (← Eng.read k (plus (dword k.word 24) c.label) 1) = 0 then none else some c
  return ms.filterMap id

/-- MSHREF's mesh (R291): coarse cells before fine ones. -/
def refine (k : Command) (d : MeshDesc) (pat : Nat) (m : List MCell) : Eng (List MCell) := do
  let marks ← Eng.marked k m
  match ((marks.filter fun c => decide (d.levels ≤ c.level)).map MCell.label).min? with
  | some id => Eng.fail 3 id
  | none => ((sortBy (fun a b => decide (a.level ≤ b.level)) marks).map MCell.label).foldlM (refineCell pat) m

/-! ### Coarsening (R292) -/

/-- The records of the parent's face from those of its children, or none where the children's neighbours there are no parent's
(R292). A boundary face takes the tag of the child at subface 0 (DESIGN CHOICE, log 72: no rule says which of four tags that
differ). -/
def mergedFace (pat t : Nat) (levels : List (Nat × Nat)) (g : List MCell) (pf : Nat) : Option (List MFace) :=
  let of := fun (s : Nat) =>
    let (c, f) := (patOn pat t pf s).headD (0, 0)
    (((g[c]?).map MCell.faces).getD []).filter fun (r : MFace) => r.face == f
  let lvl := ((g.head?).map MCell.level).getD 0
  match of 0, of 1, of 2, of 3 with
  | [a], [b], [c], [d] =>
    let rs := [a, b, c, d]
    if rs.all MFace.bnd then some [{ a with face := pf, sub := 0 }]
    else if rs.any fun (r : MFace) => r.bnd || r.hang then none
    else if rs.all fun (r : MFace) => levels.lookup r.nbr == some lvl then
      some (rs.zipIdx.map fun ((r : MFace), s) => ⟨pf, s, r.nface, 0, true, r.own, false, false, 0, r.nbr⟩)
    else if rs.all fun (r : MFace) => r.nbr == a.nbr then some [⟨pf, 0, a.nface, 0, false, a.own, false, false, 0, a.nbr⟩]
    else none
  | _, _, _, _ => none

/-- Eight cells are the children that the pattern gives a parent type (R279; log 36). -/
def childrenOf (pat t : Nat) (g : List MCell) : Bool :=
  patPresent pat t && g.zipIdx.all fun (c, i) => c.type == patByte pat t i 0 && (List.range (patByte pat t i 1)).all fun f =>
    match patLink pat t i f with
    | .parent .. => true
    | .sibling e h => c.faces.any fun r => r.face == f && r.nface == h && r.nbr == (g.map MCell.label).getD e 0

/-- A neighbour's record toward a child that is merged (R292). -/
def mergeRecord (pat t : Nat) (g : List MCell) (q : MCell) (r : MFace) : MFace :=
  match g.zipIdx.find? fun (c, _) => !r.bnd && c.label == r.nbr with
  | none => r
  | some (c, i) =>
    match patLink pat t i r.nface with
    | .parent pf s =>
      let id := parentLabel (g.headD c).label
      if q.level < c.level then { r with sub := 0, hang := false, nface := pf, nsub := 0, nbr := id }
      else { r with nface := pf, nsub := s, nbr := id }
    | .sibling .. => r

/-- Eight siblings are merged, or left where the parent would not meet R277; a parent type that the table does not have is
malformed. -/
def mergeGroup (pat : Nat) (m : List MCell) (g : List MCell) : Eng (List MCell) := do
  match g with
  | [] => return m
  | c :: _ =>
    match (List.range 4).find? fun t => childrenOf pat t g with
    | none => Eng.fail 4 (labelOrigin c.label)
    | some t =>
      let levels := m.map fun q => (q.label, q.level)
      match (List.range (typeFaces t)).mapM (mergedFace pat t levels g) with
      | none => return m
      | some fs =>
        if 12 < fs.flatten.length then return m
        else
          let ls := g.map MCell.label
          let p := { c with label := parentLabel c.label, key := keyAt c.key (c.level - 1), type := t, level := c.level - 1
                            faces := fs.flatten }
          return p :: (m.filter fun q => !ls.contains q.label).map fun q =>
            { q with faces := (q.faces.map (mergeRecord pat t g q)).eraseDups }

/-- The group of eight local marked siblings that a cell begins. -/
def groupFrom (marked : List Nat) (m : List MCell) (c : MCell) : Option (List MCell) :=
  if c.root < c.level ∧ keyDigit c.key (c.level - 1) = 0 then
    (List.range 8).mapM fun i =>
      m.find? fun d => d.level == c.level && d.key == childKey c.key (c.level - 1) i && !d.ghost && marked.contains d.label
  else none

/-- One pass over the groups, fine cells before coarse ones. -/
def coarsenPass (pat : Nat) (marked : List Nat) (m : List MCell) : Eng (List MCell) :=
  (sortBy (fun a b => decide (b.level ≤ a.level)) (byKey m)).foldlM (fun m c =>
    match groupFrom marked m c with
    | some g => mergeGroup pat m g
    | none => pure m) m

/-- Passes until none merges a group (log 36). -/
def coarsenAll (pat : Nat) (marked : List Nat) : Nat → List MCell → Eng (List MCell)
  | 0, m => return m
  | n + 1, m => do
    let m' ← coarsenPass pat marked m
    if m'.length = m.length then return m else coarsenAll pat marked n m'

/-- MSHCRS's mesh (R292). -/
def coarsen (k : Command) (pat : Nat) (m : List MCell) : Eng (List MCell) := do
  let marks ← Eng.marked k m
  coarsenAll pat (marks.map MCell.label) marks.length m

/-! ### The ghost layer (R293) -/

/-- Records that name no cell of the mesh give way: a face without a known neighbour becomes a boundary with tag 0 (log 35). -/
def clip (labels : List Nat) (c : MCell) : MCell :=
  let known := c.faces.filter fun r => r.bnd || labels.contains r.nbr
  let lost := ((c.faces.map MFace.face).eraseDups).filter fun f => !(known.any fun r => r.face == f)
  { c with faces := known ++ lost.map fun f => ⟨f, 0, 0, 0, false, true, false, true, 0, 0⟩ }

/-- A pair of records, of a local cell toward a ghost and of the owner's cell toward its ghost of the local cell, as the two
parts now stand: the record of the local cell and that of the new ghost (R293; log 37). -/
def pairOf (c g o q : MCell) (r t : MFace) : Option (MFace × MFace) :=
  let faces := (c.level != q.level || t.nface == r.face) && (o.level != g.level || r.nface == t.face)
  let subs := !(c.level == o.level && decide (g.level < c.level ∧ q.level < o.level)) || r.nsub == t.nsub
  if o.meets g && q.meets c && faces && subs then
    let hang := decide (c.level < o.level)
    let sub := if hang then (if q.level = c.level then t.nsub else r.sub) else 0
    let nhang := decide (o.level < c.level)
    let nsub := if nhang then (if g.level = o.level then r.nsub else t.sub) else 0
    some (⟨r.face, sub, t.face, nsub, hang, decide (c.key < o.key), false, false, 0, o.label⟩,
      ⟨t.face, nsub, r.face, sub, nhang, decide (o.key < c.key), false, false, 0, c.label⟩)
  else none

/-- A cell of another part as this part names it: its own label and its neighbours' by HOME. -/
def MCell.abroad (owner : Nat) (part : List MCell) (c : MCell) : MCell :=
  let name := fun (l : Nat) =>
    match part.find? fun d => d.label == l with
    | some d => if d.ghost then homeLabel d.home else homeLabel (owner * 2 ^ 52 + l)
    | none => l
  { c with label := name c.label, faces := c.faces.map fun r => if r.bnd then r else { r with nbr := name r.nbr } }

/-- The part whose descriptor is at an address, which must be one: status 4 with the ghost if it is not (R293). -/
def Eng.partAt (k : Command) (ghost : Nat) (va : Word) : Eng (List MCell) := do
  let w ← Eng.read k va 256
  let d := MeshDesc.ofNat va w
  if d.legal w then Eng.bricks k d (List.range (d.nbrick + d.ngbrick)) else Eng.fail 4 ghost

/-- The owner's part, for the device and die of a HOME field: status 4 with the ghost where the table lacks it (R293). -/
def Eng.owner (k : Command) (tab : List (Nat × Nat × Word)) (g : MCell) : Eng (List MCell) := do
  match tab.find? fun e => e.1 == g.home / 2 ^ 56 && e.2.1 == g.home / 2 ^ 52 % 16 with
  | none => Eng.fail 4 g.label
  | some (_, _, va) => Eng.partAt k g.label va

/-- The records of both sides between a local cell and a ghost, and the ghosts that the leaves of a part become. -/
abbrev Pairs := List (MFace × MFace × MCell)

/-- The leaves of a part that a local cell meets across a record toward a ghost: a part's ghost that covers the local cell is that
cell's, wherever it thinks that the cell lives. -/
def pairsIn (g c : MCell) (r : MFace) (p : Nat × List MCell) : Pairs :=
  let (owner, part) := p
  (part.filter fun o => !o.ghost && o.meets g).flatMap fun o => o.faces.filterMap fun t =>
    match part.find? fun q => !t.bnd && q.label == t.nbr && q.ghost with
    | none => none
    | some q =>
      let away := { o.abroad owner part with ghost := true, root := min g.root o.level, home := owner * 2 ^ 52 + o.label }
      (pairOf c g away q r t).map fun x => (x.1, x.2, away)

/-- A face is covered: by one leaf, or by four finer ones. -/
def covers (ps : Pairs) : Bool :=
  ps.any (fun p => !p.1.hang) || decide (4 ≤ ((ps.map fun p => p.1.sub).eraseDups).length)

/-- The cells of the owner that a local cell meets across a record toward a ghost: in the part that HOME names, and in every part
where that does not cover the face, as after a migration (R293, R296). -/
def ghostPairs (ghosts : List MCell) (parts : List (Nat × List MCell)) (c : MCell) (r : MFace) : Pairs :=
  match ghosts.find? fun g => !r.bnd && g.label == r.nbr with
  | none => []
  | some g =>
    let near := (parts.filter fun p => p.1 == g.home / 2 ^ 52).flatMap (pairsIn g c r)
    if covers near then near else parts.flatMap (pairsIn g c r)

/-- A record names a ghost. -/
def MFace.toGhost (ghosts : List MCell) (r : MFace) : Bool := !r.bnd && ghosts.any fun g => g.label == r.nbr

/-- The ghosts toward which no part that HOME names covers a face. -/
def staleGhosts (locals ghosts : List MCell) (parts : List (Nat × List MCell)) : List MCell :=
  ghosts.filter fun g => locals.any fun c => c.faces.any fun r => !r.bnd && r.nbr == g.label && !covers (ghostPairs [g] parts c r)

/-- The mesh with its ghost layer rebuilt from the owners' parts; `own` is this part's device and die. Where a cell has moved away
from the part that HOME names, the other parts of the table are searched (R293, R296). -/
def ghostSync (k : Command) (own : Nat) (tab : List (Nat × Nat × Word)) (m : List MCell) : Eng (List MCell) := do
  let locals := m.filter fun c => !c.ghost
  let ghosts := m.filter fun g => g.ghost && locals.any fun c => c.faces.any fun r => !r.bnd && r.nbr == g.label
  let homes := (ghosts.map fun g => g.home / 2 ^ 52).eraseDups
  let named ← homes.mapM fun h => do
    match ghosts.find? fun g => g.home / 2 ^ 52 == h with
    | some g => return (h, ← Eng.owner k tab g)
    | none => return (h, [])
  let others := tab.filter fun e => e.1 * 16 + e.2.1 != own && !homes.contains (e.1 * 16 + e.2.1)
  let found ← match staleGhosts locals ghosts named with
    | [] => pure []
    | g :: _ => others.mapM fun e => do return (e.1 * 16 + e.2.1, ← Eng.partAt k g.label e.2.2)
  let parts := named ++ found
  let news ← locals.mapM fun c => do
    let rs ← c.faces.mapM fun r => do
      if r.toGhost ghosts then
        match ghostPairs ghosts parts c r with
        | [] => Eng.fail 4 c.label
        | ps => return (ps.map Prod.fst, ps.map Prod.snd)
      else return ([r], [])
    return ({ c with faces := (rs.flatMap Prod.fst).eraseDups }, rs.flatMap Prod.snd)
  let layer := (news.flatMap fun n => n.2.map Prod.snd).eraseDups
  let named := layer.map fun g =>
    let mine := ((news.flatMap Prod.snd).filter fun p => p.2.label == g.label).map Prod.fst
    let rest := g.faces.filter fun r => r.bnd || r.nbr / 2 ^ 60 != 1 + own
    { g with faces := (rest ++ mine).eraseDups }
  let all := news.map Prod.fst ++ named
  return all.map (clip (all.map MCell.label))

/-- The old identity of a ghost that the new layer still has: the old ghost of the same cell (R294). -/
def survivor (old : List MCell) (g : MCell) : Option Nat :=
  (old.find? fun o => o.ghost && o.key == g.key && o.level == g.level).map MCell.label

/-! ### The run -/

/-- The remap record of a cell of the new mesh (R294). -/
def remapOf (old : List MCell) (p : Packed) (c : MCell) : Option Nat :=
  let dst := (idOf p.ids c.label).getD 0
  if c.ghost then (survivor old c).map fun src => remapRec dst src 0
  else if c.label < 2 ^ 48 then some (remapRec dst c.label 0)
  else if c.label < 2 ^ 52 then (if c.label / 2 ^ 48 = 1 then some (remapRec dst (labelOrigin c.label) 1) else none)
  else some (remapRec dst (labelOrigin c.label) 2)

/-- The run of MSHREF, MSHCRS and MSHREN (R284, R291 to R294). -/
def runRewrite (k : Command) : Eng EngPlan := do
  let w := k.word
  let d ← Eng.meshDesc k (dword w 16)
  Eng.require (d.epoch = bitsOf w 576 64) 5 (d.epoch % 2 ^ 48)
  let pat ← Eng.pattern k d
  let old ← Eng.mesh k d
  let m ←
    if k.op = 2 then refine k d pat old
    else if k.op = 3 then coarsen k pat old
    else if bitsOf w 544 16 = 1 then do
      let tab ← Eng.read k (dword w 80) (16 * bitsOf w 704 32)
      ghostSync k (d.device * 16 + d.die) ((partEntries tab (bitsOf w 704 32)).getD []) old
    else pure old
  let a : Areas := ⟨dword w 32, bitsOf w 320 32, dword w 48, bitsOf w 352 32⟩
  let p ← Eng.pack m a
  let rs := sortNats (m.filterMap (remapOf old p))
  Eng.require (rs.length ≤ bitsOf w 512 32) 1 rs.length
  return ⟨meshWrites m p a ++ [remapWrite (dword w 56) ((d.epoch + 1) % 2 ^ 64) rs, installWrite d m p a], 0, 0⟩

end Sys2Proof.Machine
end

