-- ==== Sys2Proof/Machine/MeshMigrate.lean ====
section
/-! DEFINITION. MSHMIG, and the topology engine's step (08 R296; logs 34, 35). -/

namespace Sys2Proof.Machine

/-- MSHMIG's effect (R281, R296). -/
def effMshmig (a : SReg) : State → Eff := Act.effect do
  let s ← get
  let va := s.hart.readS a
  let w ← Act.block va 128
  let lists := 16 + 16 * bitsOf w 832 32
  let known : Issue := {
    kind := .topology, op := 6, va := va, block := leBytes 128 w, bad := false, causes := [], reads := []
    writes := [[(dword w 16, 256)], [(dword w 24, 256)], [(dword w 40, 8192 * bitsOf w 576 32)], [(dword w 48, 16 * bitsOf w 640 32)],
      [(dword w 56, 8192 * bitsOf w 608 32)], [(dword w 64, 16 * bitsOf w 672 32)], [(dword w 88, lists)], [(dword w 96, lists)]]
    fin := [(va, 8)], extra := [] }
  let d ← Act.forIssue known (Act.meshDesc (dword w 16))
  let known := { known with causes := s.foreignMesh d }
  let t ← Act.forIssue known (Act.meshDesc (dword w 24))
  let away := t.any fun (t, _) => t.device != s.fab.device.toNat
  let aligned := [(dword w 40, 8192), (dword w 48, 16), (dword w 56, 8192), (dword w 64, 16), (dword w 88, 64), (dword w 96, 64)].all
    fun (x, n) => x.toNat % n == 0
  Act.issue { known with
    bad := headerBad 6 w || (wellFormed d).isNone || (wellFormed t).all (fun t => decide (12 ≤ t.die)) || !aligned
      || bitsOf w 288 32 != 0 || bitsOf w 864 32 != 0
    causes := known.causes ++ if away && !s.hart.ctxcfg.getLsbD 1 then [.access (dword w 24)] else [] }

/-- MSHMIG: queues the migration of a part (R296). -/
def execMshmig (a : SReg) (s : State) : Host.Outcome State Fault Refusal := runQueued (wordOf (.mshmig a)) (effMshmig a) s

/-! ### The run -/

/-- What is known of a cell of a third part from the ghosts of both sides: its records toward cells that either side holds. -/
def joinGhosts (cs : List MCell) : List MCell :=
  (cs.map MCell.label).eraseDups.filterMap fun l =>
    match cs.filter fun c => c.label == l with
    | [] => none
    | c :: ds =>
      let fs := (c :: ds).flatMap MCell.faces
      let inner := (fs.filter fun r => !r.bnd).eraseDups
      some { c with faces := inner ++ ((fs.filter MFace.bnd).eraseDups.filter fun r => !(inner.any fun q => q.face == r.face)) }

/-- One side after the move: its local cells and the one-cell ghost layer that they touch, out of all the cells known (R296). -/
def sideOf (all : List MCell) (mine : List Nat) : List MCell :=
  let locals := all.filter fun c => mine.contains c.label
  let touched := locals.flatMap fun c => (c.faces.filter fun r => !r.bnd).map MFace.nbr
  let side := locals.map (fun c => { c with ghost := false })
    ++ (all.filter fun c => touched.contains c.label && !mine.contains c.label).map fun c => { c with ghost := true }
  side.map (clip (side.map MCell.label))

/-- A ghost's HOME after the move: the side that holds the cell now and its identity there, or as it was (R296). -/
def newHome (sides : List (Nat × List Nat × Packed)) (c : MCell) : MCell :=
  match sides.find? fun s => s.2.1.contains c.label with
  | some (owner, _, p) => { c with home := owner * 2 ^ 52 + (idOf p.ids c.label).getD 0 }
  | none => c

/-- A packed side with the HOME fields of its ghosts after the move. -/
def Packed.rehomed (p : Packed) (sides : List (Nat × List Nat × Packed)) : Packed :=
  { p with bricks := p.bricks.map fun cs => cs.map (newHome sides) }

/-- The records of the cells that stay on a side and of the ghosts that it keeps (R294, R296); `old` are the labels of the cells
of the side before the move, with their identities. -/
def stayRecords (old : List (Nat × Nat)) (gone : List Nat) (p : Packed) (m : List MCell) : List Nat :=
  m.filterMap fun c =>
    if gone.contains c.label then none
    else (old.lookup c.label).map fun src => remapRec ((idOf p.ids c.label).getD 0) src 0

/-- A record that crosses parts (R294, R296). -/
def crossRec (other dst src : Nat) : Nat := remapRec (other * 2 ^ 52 + dst) src 256

/-- MSHMIG's run (R296). -/
def runMshmig (k : Command) : Eng EngPlan := do
  let w := k.word
  let d ← Eng.meshDesc k (dword w 16)
  let t ← Eng.meshDesc k (dword w 24)
  Eng.require (d.epoch = bitsOf w 896 64) 5 (d.epoch % 2 ^ 48)
  Eng.require (t.epoch = bitsOf w 960 64) 5 (t.epoch % 2 ^ 48)
  let _ ← Eng.pattern k d
  let ms ← Eng.mesh k d
  let mt ← Eng.mesh k t
  let ks := d.device * 16 + d.die
  let kt := t.device * 16 + t.die
  let cs := ms.map fun c => (c.label, c.abroad ks ms)
  let ct := mt.map fun c => (c.label, c.abroad kt mt)
  let both := (cs ++ ct).map Prod.snd
  let locals := both.filter fun c => !c.ghost
  let names := locals.map MCell.label
  match (both.filter fun c => c.ghost && (c.home / 2 ^ 52 == ks || c.home / 2 ^ 52 == kt) && !names.contains c.label).head? with
  | some c => Eng.fail 4 (labelOrigin c.label)
  | none =>
    let all := locals ++ joinGhosts (both.filter fun c => c.ghost && !names.contains c.label)
    let moved := (cs.filter fun c => !c.2.ghost && c.2.part == bitsOf w 256 32)
    let gone := moved.map fun c => c.2.label
    let keepS := (cs.filter fun c => !c.2.ghost && !gone.contains c.2.label).map fun c => c.2.label
    let keepT := (ct.filter fun c => !c.2.ghost).map (fun c => c.2.label) ++ gone
    let as : Areas := ⟨dword w 40, bitsOf w 576 32, dword w 48, bitsOf w 640 32⟩
    let at_ : Areas := ⟨dword w 56, bitsOf w 608 32, dword w 64, bitsOf w 672 32⟩
    let ns := sideOf all keepS
    let nt := sideOf all keepT
    let ps ← Eng.pack ns as
    let pt ← Eng.pack nt at_
    let sides := [(ks, keepS, ps), (kt, keepT, pt)]
    let oldS := (cs.map fun c => (c.2.label, c.1))
    let oldT := (ct.map fun c => (c.2.label, c.1))
    let dst := fun (l : Nat) => (idOf pt.ids l).getD 0
    let rs := sortNats (stayRecords oldS gone ps ns)
      ++ (sortBy (fun a b => decide (a.1 ≤ b.1)) moved).map fun c => crossRec kt (dst c.2.label) c.1
    let cross := moved.map fun c => crossRec ks (dst c.2.label) c.1
    let rt := sortBy (fun a b => decide (a / 2 ^ 64 % 2 ^ 48 ≤ b / 2 ^ 64 % 2 ^ 48)) (stayRecords oldT gone pt nt ++ cross)
    Eng.require (max rs.length rt.length ≤ bitsOf w 832 32) 1 (max rs.length rt.length)
    let ends := [remapWrite (dword w 88) ((d.epoch + 1) % 2 ^ 64) rs, remapWrite (dword w 96) ((t.epoch + 1) % 2 ^ 64) rt,
      installWrite t nt pt at_, installWrite d ns ps as]
    return ⟨meshWrites nt (pt.rehomed sides) at_ ++ meshWrites ns (ps.rehomed sides) as ++ ends, 0, 0⟩

/-! ### The engine -/

/-- What a command of the topology engine writes. -/
def runTopology (k : Command) : Eng EngPlan :=
  match k.op with
  | 1 => runMshgl k
  | 5 => runMshcut k
  | 6 => runMshmig k
  | _ => runRewrite k

/-- TOPOLOGY_COMMAND_RUN: the topology engine of a die performs a command and writes DONE (R280). -/
def execTopologyCommandRun (die : Nat) (s : State) : Host.Outcome State Fault Refusal :=
  .next (s.engineStep .topology die fun k => Eng.run k (runTopology k))

end Sys2Proof.Machine
end

