-- ==== Sys2Proof/Machine/Stops.lean ====
section
/-! DEFINITION. Engines that stop part-way through a command, at their stop units (03 R138; 07 R259; 08 R283, R302; 13 R382; log 69).
How far a command has come when it is stopped is a free value. -/

namespace Sys2Proof.Machine

/-- A free choice of a list. -/
def State.pick {α : Type} (s : State) (l : List α) : Option α := l[Config.freeValue 48 s.ticks % l.length]?

/-- The numbers of elements after which a copy may stop: each ends a 64-byte segment of the destination (07 R259). -/
def copyStops (xs : List Elem) : List Nat :=
  (List.range (xs.length + 1)).filter fun n =>
    match xs[n - 1]?, xs[n]? with
    | some x, some y => decide ((x.1 + x.2.1.length - 1) / 64 ≠ y.1 / 64)
    | _, _ => true

/-- A copy that has come to a stop unit: its source has been read, and part of it is written (07 R255, R259). -/
def State.partCopy (s : State) (k : Command) : State :=
  let (t, xs) := s.copyElems k
  match s.pick ((copyStops xs).filter fun n => k.at_ < n) with
  | none => s
  | some n => { t.copyTo k xs n with ticks := s.ticks + 1 }.setCmd { k with rest := xs, at_ := n }

/-- What a command of the topology engine or the colouring unit writes. -/
def enginePlan (k : Command) : Eng EngPlan := if k.kind = .topology then runTopology k else runClrgen k

/-- A command with its inputs read and its writes known, those of a stop before among them; none where it ends without its writes or
must wait (08 R283). -/
def State.planned (s : State) (k : Command) : Option (State × Command) :=
  if k.rest.isEmpty then
    if s.fencedParts (k.src ++ k.dst.flatten) then none
    else
      match enginePlan k s with
      | (.ok p, t) => some (t, { k with rest := p.writes, ends := (p.status, p.detail) })
      | (.error _, _) => none
  else some (s, k)

/-- The numbers of writes after which a command may stop: each ends a brick, or 64 faces (08 R283). -/
def unitStops (ws : List EngWrite) : List Nat :=
  (List.range (ws.length + 1)).filter fun n => (ws[n - 1]?).any fun x => decide (0 < n) && x.2.2

/-- A topology or colouring command that has come to a stop unit: a part of its writes is made, in their order (08 R283, R284). -/
def State.partRun (s : State) (k : Command) : State :=
  match s.planned k with
  | none => s
  | some (t, k) =>
    match t.pick ((unitStops k.rest).filter fun n => k.at_ < n) with
    | none => s
    | some n =>
      match Eng.writeAll k ((k.rest.take n).drop k.at_) t with
      | (.ok _, u) => { u with ticks := u.ticks + 1 }.setCmd { k with at_ := n }
      | (.error _, _) => s

/-- A BINPLAY that has come to a stop unit: some chunks are applied, and the region is written back (08 R302). -/
def State.partPlay (s : State) (k : Command) : State :=
  match s.pick ((List.range (k.extra.length + 1)).filter fun n => k.at_ < n) with
  | none => s
  | some n =>
    match Eng.play k (n - k.at_) s with
    | (.ok _, t) => { t with ticks := s.ticks + 1 }.setCmd { k with at_ := n }
    | (.error _, _) => s

/-- A command that may run has come to a stop unit (13 R382). A hod makes its tiles one by one (07 R270), and an append is one
instruction's (08 R283). -/
def State.partCommand (s : State) (k : Command) : State :=
  if k.status.isSome ∨ s.mayRun k = false then s
  else
    match k.kind with
    | .copy => s.partCopy k
    | .binning => if k.op = 2 then s.partPlay k else s
    | .hod => s
    | _ => s.partRun k

/-- The commands that an engine works on: the first of a die's engine, every one of a copy engine that may run. -/
def State.underWay (s : State) (sel : Command → Bool) : List Command :=
  s.cmds.filter fun k => sel k && (k.kind == .copy || ((s.queueOf k.kind k.unit).head?.map Command.id) == some k.id)

/-- The engines that work on some commands come to their stop units. -/
def State.partCommands (s : State) (sel : Command → Bool) : State :=
  (s.underWay sel).foldl (fun s k => match s.cmds.find? fun m => m.id == k.id with | some k => s.partCommand k | none => s) s

end Sys2Proof.Machine
end

