-- ==== Sys2Proof/Machine/Launches.lean ====
section
/-! DEFINITION. Launch packets at the die dispatchers: tiles and readiness, the hand-out of blocks, the start of a block, and the
abort of a replay (01 R14; 10 R328 to R338, R342; 04 R170). -/

namespace Sys2Proof.Machine

/-! ### Tiles of declarations and mortar tags -/

/-- The grains of a launch's node (R329). -/
def Launch.grains (l : Launch) : Nat := if l.lo < l.hi then ((l.hi - l.lo).toNat + l.grain - 1) / l.grain else 0

/-- Grain g names tile t (04 R170). -/
def Decl.names (d : Decl) (t g : Nat) : Bool :=
  let x : Int := t - d.base - d.stride * g
  decide (0 ≤ x ∧ x < d.count)

/-- Tile t is one of a declaration's tiles for its node. -/
def Launch.hasTile (l : Launch) (d : Decl) (t : Nat) : Bool := (List.range l.grains).any (d.names t)

/-- A declaration of a launch, by kind and index within its kind. -/
def Launch.decl (l : Launch) (write : Bool) (idx : Nat) : Option Decl := l.decls.find? fun d => d.write == write && d.idx == idx

/-- The entry of a tag is this one (13 R374). -/
def Mortar.isFor (m : Mortar) (slot node decl tile gen : Nat) : Bool :=
  m.slot == slot && m.node == node && m.decl == decl && m.tile == tile && m.gen == gen

/-- The replay of a slot in a generation. -/
def State.replayOf (s : State) (slot gen : Nat) : Option Replay :=
  s.fe.replays.find? fun r => r.slot == slot && r.gen == gen && r.st != 0

/-- A node of a replay has completed or was skipped. -/
def Replay.done (r : Replay) (node : Nat) : Bool := Table.get r.nodes node 0 == 3

/-- The tile of a bound read declaration is ready: its entry is set, or, where no entry was reserved for it, the producer has
completed (R334). -/
def State.tileReady (s : State) (slot gen : Nat) (d : Decl) (t : Nat) : Bool :=
  match s.fe.mortar.find? fun m => m.isFor slot d.pnode d.pdecl t gen with
  | some m => m.isSet
  | none => ((s.replayOf slot gen).map fun r => r.done d.pnode).getD false

/-- A tag becomes set. -/
def State.setTagEntry (s : State) (slot node decl tile gen : Nat) : State :=
  { s with fe := { s.fe with
      mortar := s.fe.mortar.map fun m => if m.isFor slot node decl tile gen then { m with isSet := true } else m } }

/-! ### Blocks -/

/-- A block of grains [g0, g1) is ready: every tile that its bound read declarations name is, and the topology commands that the
launch waits for have completed (R330, R334; 08 R285). -/
def State.blockReady (s : State) (l : Launch) (g0 g1 : Nat) : Bool :=
  (l.meshWait.all fun id => !(s.cmds.any fun k => k.id == id))
    && (l.decls.all fun d => d.write || d.edge == 0
          || ((List.range (g1 - g0)).all fun i => (d.tilesOf (g0 + i)).all fun t => s.tileReady l.slot l.gen d t.toNat))

/-- The end of an interval's front block (R330). -/
def Launch.front (l : Launch) (v : Interval) : Nat := min v.g1 (v.g0 + l.blkgr)

/-- A launch without the grains of a block that starts; what an interval keeps of its lower and upper part stays its owner's. -/
def Launch.without (l : Launch) (b : Interval) : Launch :=
  { l with
    running := l.running + 1
    pool := l.pool.flatMap fun v =>
      if v.g0 ≤ b.g0 ∧ b.g1 ≤ v.g1 then
        ([{ v with g1 := b.g0 }, { v with g0 := b.g1 }]).filter fun u => u.g0 < u.g1
      else [v] }

/-- A block can be given: it is ready, and the pool then holds at most 192 intervals (R330). -/
def State.canGive (s : State) (l : Launch) (b : Interval) : Bool :=
  s.blockReady l b.g0 b.g1 && decide ((l.without b).pool.length ≤ 192)

/-- The blocks of a launch in shadow slots, of one hart or of all. -/
def State.shadowBlocks (s : State) (l : Launch) (who : Option Nat) : List Interval :=
  (s.fe.shadows.filter fun d => l.holds d && who.all (· == d.hart)).map fun d => ⟨d.g0, d.g1, some d.hart⟩

/-- Step 1 of R330: a ready block of the hart's shadow slots. -/
def State.fromShadow (s : State) (l : Launch) (n : Nat) : Option (Interval × Launch) :=
  ((s.shadowBlocks l (some n)).find? (s.canGive l)).map fun b => (b, l.without b)

/-- Step 2: the ready front block of an interval that the hart owns, or of one without an owner, which becomes its. -/
def State.fromOwn (s : State) (l : Launch) (n : Nat) : Option (Interval × Launch) :=
  let ready := fun (v : Interval) => s.blockReady l v.g0 (l.front v)
  let vs := byGrain l.pool
  match vs.find? fun v => v.owner == some n && ready v with
  | some v => some (v, l.without { v with g1 := l.front v })
  | none =>
    (vs.find? fun v => v.owner == none && ready v).map fun v =>
      let l' := { l with pool := l.pool.map fun u => if u = v then { u with owner := some n } else u }
      (v, l'.without { v with g1 := l.front v })

/-- Step 3: the largest interval whose upper half starts with a ready block is split. -/
def State.fromSplit (s : State) (l : Launch) (n : Nat) : Option (Interval × Launch) :=
  let upper := fun (v : Interval) => { v with g0 := v.g0 + (v.g1 - v.g0 + 1) / 2, owner := some n }
  let big := sortBy (fun a b => decide (b.g1 - b.g0 < a.g1 - a.g0 ∨ (b.g1 - b.g0 = a.g1 - a.g0 ∧ a.g0 ≤ b.g0)))
    (l.pool.filter fun v => decide (2 * l.blkgr ≤ v.g1 - v.g0))
  if 192 ≤ l.pool.length then none
  else
    (big.find? fun v => s.blockReady l (upper v).g0 (l.front (upper v))).map fun v =>
      let u := upper v
      let l' := { l with pool := (l.pool.map fun w => if w = v then { w with g1 := u.g0 } else w) ++ [u] }
      (u, l'.without { u with g1 := l.front u })

/-- Step 4: any other ready block, lowest grain first. -/
def State.fromAny (s : State) (l : Launch) : Option (Interval × Launch) :=
  ((byGrain ((l.pool.map fun v => { v with g1 := l.front v }) ++ s.shadowBlocks l none)).find? (s.canGive l)).map
    fun b => (b, l.without b)

/-- The block that a launch gives a hart (R330). -/
def State.giveBlock (s : State) (l : Launch) (n : Nat) : Option (Interval × Launch) :=
  (s.fromShadow l n).orElse fun _ => (s.fromOwn l n).orElse fun _ => (s.fromSplit l n).orElse fun _ => s.fromAny l

/-! ### Service of a request (R330) -/

/-- The context that holds a core, if it is active. -/
def State.activeOn (s : State) (core : Nat) : Option (Nat × Ctx) := s.cx.ctxs.find? fun (_, c) => c.st == 1 && c.live.cores.contains core

/-- Two packets are of one launch (13 R373). -/
def Launch.same (a b : Launch) : Bool := a.die == b.die && a.slot == b.slot && a.node == b.node && a.gen == b.gen

/-- The launch of the die that serves the request of an IDLE hart: the launch before it gave the block, the block, and the launch after it.
A core in test takes no new block (15 R416), and an aborted replay dispatches none (R338). -/
def State.serve (s : State) (n : Nat) : Option (Interval × Launch × Nat × CtxRec) :=
  match s.activeOn (n / 4) with
  | none => none
  | some (c, x) =>
    if (Table.find? s.rel.tests (n / 4)).isSome ∨ (s.hartAt n).st ≠ .idle then none
    else
      (s.fe.launches.filter fun l => l.die == n / 96 && l.ctx == c && l.reported == false).findSome? fun l =>
        if ((s.replayOf l.slot l.gen).map fun r => r.fault.isSome).getD true then none
        else
          (s.giveBlock l n).map fun (b, l') => ({ b with g1 := l.front b }, l', c, x.live)

/-- A block's start on a hart (01 R14; R329). Bits [1:0] of the entry are cleared (DESIGN CHOICE, log 72: 04 R141 does not say what
becomes of a TEXTA + ENTRY that is no multiple of 4). -/
def Hart.startBlock (h : Hart) (l : Launch) (g0 g1 c : Nat) (r : CtxRec) : Hart :=
  { Hart.reset h.num with
    st := .running
    regs := (Vector.replicate 32 0).set 1 l.param
    pc := align4 l.entry
    mode := if r.ctxcfg.getLsbD 0 then 0x1000 else 0
    heapbase := r.heapbase, heaplim := r.heaplim, heapoff := r.heapoff, ptroot := r.ptroot, ctxcfg := r.ctxcfg
    atmem := r.atmem, atscr := r.atscr, atiod := r.atiod, atport := r.atport, xvec := align4 r.xvec
    ctxid := BitVec.ofNat 6 c
    blklo := BitVec.ofInt 64 (l.lo + g0 * l.grain)
    blkhi := BitVec.ofInt 64 (min l.hi (l.lo + g1 * l.grain))
    slot := BitVec.ofNat 10 l.slot, node := BitVec.ofNat 16 l.node, gen := BitVec.ofNat 16 l.gen
    block := some ⟨l.slot, l.node, l.gen, g0, g1⟩ }

/-- A launch of the dispatchers changed. -/
def State.setLaunch (s : State) (l : Launch) : State :=
  { s with fe := { s.fe with launches := s.fe.launches.map fun k => if k.same l then l else k } }

/-- BLOCK_DISPATCH's effect: an IDLE hart requests work and is served, unless a hart that waits already could be; a request that
yields nothing joins the die's queue of waiting harts (R330, R342). -/
def State.dispatch (s : State) (n : Nat) : State :=
  if 1152 ≤ n ∨ (s.hartAt n).st ≠ .idle ∨ s.powered = false then s
  else if ((s.fe.waiting.filter fun m => m / 96 == n / 96).takeWhile (· != n)).any fun m => (s.serve m).isSome then s
  else
    match s.serve n with
    | none => { s with fe := { s.fe with waiting := if s.fe.waiting.contains n then s.fe.waiting else s.fe.waiting ++ [n] } }
    | some (b, l, c, r) =>
      let s := (s.setLaunch l).count (0x2000 + 64 * (n / 4))
      { s.putHart ((s.hartAt n).startBlock l b.g0 b.g1 c r) with
        fe := { s.fe with waiting := s.fe.waiting.filter (· != n) }
        pow := { s.pow with st := .run, idleDies := s.pow.idleDies.filter (· != n / 96) } }.fillShadows (n / 96)

/-! ### The end of a block and the abort of a replay -/

/-- A hart's block has ended, and the hart waits for work (R330; 07 R260). -/
def State.endBlock (s : State) : State :=
  let h := s.hart
  let s :=
    match s.launchOf h with
    | some l => s.setLaunch { l with running := l.running - 1 }
    | none => s
  { s with
    hart := { h with st := .idle, block := none, arming := none, relMark := none, streams := Vector.replicate 4 Stream.unbound }
    fe := { s.fe with waiting := s.fe.waiting ++ [h.num] } }

/-- Engine commands that are dropped: their claims are released, and the tiles they read are no longer drained by them (R338). -/
def State.dropCommands (s : State) (sel : Command → Bool) : State :=
  (s.cmds.filter sel).foldl (fun s k => { s.release k with cmds := s.cmds.filter fun m => m.id != k.id }) s

/-- A hart leaves the block that it runs of a replay. -/
def Hart.leave (h : Hart) (slot gen : Nat) : Hart :=
  match h.block with
  | some b => if b.slot = slot ∧ b.gen = gen then h.drop else h
  | none => h

/-- The harts of a state that meet a test, in ascending number. -/
def State.hartsThat (s : State) (p : Hart → Bool) : List Nat :=
  sortNats (((s.hart :: s.parked.map Prod.snd).filter p).map Hart.num)

/-- A command belongs to a replay. -/
def Command.isOf (k : Command) (slot gen : Nat) : Bool :=
  match k.launch with
  | some (a, _, g) => a == slot && g == gen
  | none => false

/-- A hart runs, or was stopped in, a block of a replay. -/
def Hart.inReplay (h : Hart) (slot gen : Nat) : Bool :=
  match h.block with
  | some b => b.slot == slot && b.gen == gen
  | none => false

/-- What pre-emption saved of a replay is discarded (R338, step 2). -/
def Saved.drop (v : Saved) (slot gen : Nat) : Saved :=
  let gone := (v.harts.filter fun (_, _, h) => h.inReplay slot gen).map Prod.fst
  { v with
    harts := v.harts.filter fun (_, _, h) => !h.inReplay slot gen
    slices := v.slices.filter fun (n, _) => !gone.contains n
    cmds := v.cmds.filter fun k => !k.isOf slot gen
    launches := v.launches.filter fun l => !(l.slot == slot && l.gen == gen) }

/-- The abort of a replay (R338, steps 1 to 3): its fault is kept for its end, its launches are dropped, its commands stop at their
stop units and are dropped with what was saved of them, and its harts enter IDLE and wait for work (R330). -/
def State.abort (s : State) (slot gen : Nat) (f : FaultRec) : State :=
  let s := (s.partCommands (Command.isOf · slot gen)).dropCommands (Command.isOf · slot gen)
  State.refill { s with
    hart := s.hart.leave slot gen
    parked := s.parked.map fun (n, h) => (n, h.leave slot gen)
    cx := { s.cx with saved := s.cx.saved.map fun v => v.drop slot gen }
    fe := { s.fe with
      replays := s.fe.replays.map fun r => if r.slot = slot ∧ r.gen = gen then r.failWith f else r
      launches := s.fe.launches.filter fun l => !(l.slot == slot && l.gen == gen)
      sent := s.fe.sent.filter fun l => !(l.slot == slot && l.gen == gen)
      shadows := s.fe.shadows.filter fun d => !(d.slot == slot && d.gen == gen)
      waiting := s.fe.waiting ++ s.hartsThat fun h => h.st != .halted && h.inReplay slot gen } }

end Sys2Proof.Machine
end

