-- ==== Sys2Proof/Machine/ScalarMem.lean ====
section
/-! DEFINITION. Scalar loads and stores, ordered accesses, fences and atomics, majors 0x06, 0x07, 0x0D and 0x0E (04 R148,
R150, R151; 05 R184 to R192). -/

namespace Sys2Proof.Machine

/-- An access's end as the end of an instruction. -/
def Got.effect (g : Got) (s : State) (f : Nat → State → State) : Eff :=
  match g with
  | .ok v t => .done (f v t)
  | .trap c t => .trap c t
  | .wait on => .wait (s.awaits on)

/-- The address s_a + sext(imm[12:0]) (05 R184). -/
def Hart.offset (h : Hart) (a : SReg) (i : BitVec 13) : Word := h.readS a + i.signExtend 64

/-- The access crosses an 8-byte boundary (05 R185). -/
def crosses8 (va : Word) (n : Nat) : Bool := decide (8 < va.toNat % 8 + n)

/-- A scalar load of `n` bytes (05 R184 to R186). -/
def effLoad (d a : SReg) (i : BitVec 13) (n : Nat) (ext : Nat → Word) (s : State) : Eff :=
  if crosses8 (s.hart.offset a i) n then .trap (.misalign (s.hart.offset a i)) s
  else (s.loadN (s.hart.offset a i) n).effect s fun v t => t.setS d (ext v)

/-- A scalar store of `n` bytes (05 R184 to R186). -/
def effStore (a b : SReg) (i : BitVec 13) (n : Nat) (s : State) : Eff :=
  if crosses8 (s.hart.offset a i) n then .trap (.misalign (s.hart.offset a i)) s
  else (s.storeN (s.hart.offset a i) n (s.hart.readS b).toNat).effect s fun _ t => t

/-- Sign extension from `w` bits. -/
def sextN (w v : Nat) : Word := BitVec.ofInt 64 (toS w v)

/-- LDB: s_d takes a byte, sign-extended (05 R184). -/
def execLdb (d a : SReg) (i : BitVec 13) (s : State) : Host.Outcome State Fault Refusal :=
  runScalar (wordOf (.ldb d a i)) (effLoad d a i 1 (sextN 8)) s

/-- LDBU: s_d takes a byte, zero-extended (05 R184). -/
def execLdbu (d a : SReg) (i : BitVec 13) (s : State) : Host.Outcome State Fault Refusal :=
  runScalar (wordOf (.ldbu d a i)) (effLoad d a i 1 (BitVec.ofNat 64)) s

/-- LDH: s_d takes a halfword, sign-extended (05 R184). -/
def execLdh (d a : SReg) (i : BitVec 13) (s : State) : Host.Outcome State Fault Refusal :=
  runScalar (wordOf (.ldh d a i)) (effLoad d a i 2 (sextN 16)) s

/-- LDHU: s_d takes a halfword, zero-extended (05 R184). -/
def execLdhu (d a : SReg) (i : BitVec 13) (s : State) : Host.Outcome State Fault Refusal :=
  runScalar (wordOf (.ldhu d a i)) (effLoad d a i 2 (BitVec.ofNat 64)) s

/-- LDW: s_d takes a word, sign-extended (05 R184). -/
def execLdw (d a : SReg) (i : BitVec 13) (s : State) : Host.Outcome State Fault Refusal :=
  runScalar (wordOf (.ldw d a i)) (effLoad d a i 4 (sextN 32)) s

/-- LDWU: s_d takes a word, zero-extended (05 R184). -/
def execLdwu (d a : SReg) (i : BitVec 13) (s : State) : Host.Outcome State Fault Refusal :=
  runScalar (wordOf (.ldwu d a i)) (effLoad d a i 4 (BitVec.ofNat 64)) s

/-- LDD: s_d takes a doubleword (05 R184). -/
def execLdd (d a : SReg) (i : BitVec 13) (s : State) : Host.Outcome State Fault Refusal :=
  runScalar (wordOf (.ldd d a i)) (effLoad d a i 8 (BitVec.ofNat 64)) s

/-- STB: stores the low byte of s_b (05 R184). -/
def execStb (a b : SReg) (i : BitVec 13) (s : State) : Host.Outcome State Fault Refusal :=
  runScalar (wordOf (.stb a b i)) (effStore a b i 1) s

/-- STH: stores the low halfword of s_b (05 R184). -/
def execSth (a b : SReg) (i : BitVec 13) (s : State) : Host.Outcome State Fault Refusal :=
  runScalar (wordOf (.sth a b i)) (effStore a b i 2) s

/-- STW: stores the low word of s_b (05 R184). -/
def execStw (a b : SReg) (i : BitVec 13) (s : State) : Host.Outcome State Fault Refusal :=
  runScalar (wordOf (.stw a b i)) (effStore a b i 4) s

/-- STD: stores all of s_b (05 R184). -/
def execStd (a b : SReg) (i : BitVec 13) (s : State) : Host.Outcome State Fault Refusal :=
  runScalar (wordOf (.std a b i)) (effStore a b i 8) s

/-- A scope code that is assigned (04 R155). -/
def scopeOk (c : BitVec 3) : Bool := c.toNat < 6

/-- The bytes of a width code of LDACQ and STREL (04 R150). -/
def widthBytes (w : BitVec 2) : Nat := 2 ^ w.toNat

/-- LDACQ: s_d takes the zero-extended value at s_a, naturally aligned (05 R187). -/
def execLdacq (d a : SReg) (w : BitVec 2) (c : BitVec 3) (s : State) : Host.Outcome State Fault Refusal :=
  runScalar (wordOf (.ldacq d a w c)) (fun s =>
    let va := s.hart.readS a
    if scopeOk c = false then .trap .illegal s
    else if va.toNat % widthBytes w ≠ 0 then .trap (.misalign va) s
    else (s.loadN va (widthBytes w)).effect s fun v t => t.setS d (BitVec.ofNat 64 v)) s

/-- STREL: stores s_b at s_a, naturally aligned (05 R187). -/
def execStrel (a b : SReg) (w : BitVec 2) (c : BitVec 3) (s : State) : Host.Outcome State Fault Refusal :=
  runScalar (wordOf (.strel a b w c)) (fun s =>
    let va := s.hart.readS a
    if scopeOk c = false then .trap .illegal s
    else if va.toNat % widthBytes w ≠ 0 then .trap (.misalign va) s
    else if s.releaseReady c.toNat = false then .wait s.beginRelease
    else (s.storeN va (widthBytes w) (s.hart.readS b).toNat).effect s fun _ t => t) s

/-- FENCE: every older access has performed in a model that runs instructions in order; the kind EC waits until earlier engine
commands have registered their claims (05 R188; log 1). -/
def execFence (k : BitVec 5) (c : BitVec 3) (s : State) : Host.Outcome State Fault Refusal :=
  runScalar (wordOf (.fence k c)) (fun s =>
    if scopeOk c = false then .trap .illegal s
    else if k.getLsbD 0 ∧ s.unregistered then .wait s
    else .done s) s

/-! ### Atomics (05 R189 to R192) -/

/-- The kinds of value an atomic works on: an integer, FP32 or FP64, or two BF16 halves. -/
inductive AmoKind where
  | int | fp | bf2
  deriving DecidableEq, Repr

/-- An atomic with release among its suffixes may perform (03 R127, R129). -/
def State.amoReady (s : State) (o : BitVec 2) (c : BitVec 3) : Bool := o.toNat < 2 || s.releaseReady c.toNat

/-- One atomic: bytes, kind of the returned value, and the value written, if any. -/
def effAmo (d a : SReg) (o : BitVec 2) (c : BitVec 3) (n : Nat) (kind : AmoKind) (new : Nat → Option Nat) (s : State) : Eff :=
  let va := s.hart.readS a
  if va.toNat % n ≠ 0 then .trap (.misalign va) s
  else if s.amoReady o c = false then .wait s.beginRelease
  else (s.atomicN va n new).effect s fun old t =>
    t.setS d (if n = 8 then BitVec.ofNat 64 old
      else match kind with
        | .int => sextN 32 old
        | _ => BitVec.ofNat 64 (old + 0xFFFFFFFF00000000))

/-- An integer atomic of width code `w`: Op on the widths 32 and 64 (04 R151). -/
def effAmoInt (d a b : SReg) (w o : BitVec 2) (c : BitVec 3) (op : Nat → Nat → Nat → Nat) (s : State) : Eff :=
  if 2 ≤ w.toNat ∨ scopeOk c = false then .trap .illegal s
  else
    let n := if w = 0 then 4 else 8
    effAmo d a o c n .int (fun old => some (op (8 * n) old ((s.hart.readS b).toNat % 2 ^ (8 * n)))) s

/-- A floating atomic of width code `w` (04 R151, 05 R190): NaN results are canonical and no flag is raised. -/
def effAmoFp (rounds : Bool) (d a b : SReg) (w o : BitVec 2) (c : BitVec 3) (op : FFmt → FEnv → Nat → Nat → Nat)
    (s : State) : Eff :=
  let e := s.hart.fenv false
  let y := (s.hart.readS b).toNat
  if w = 3 ∨ scopeOk c = false then .trap .illegal s
  else if rounds ∧ s.hart.rm?.isNone then .trap .illegalRm s
  else if w = 0 then effAmo d a o c 4 .fp (fun old => some (op .fp32 e old (y % 2 ^ 32))) s
  else if w = 1 then effAmo d a o c 8 .fp (fun old => some (op .fp64 e old y)) s
  else effAmo d a o c 4 .bf2 (fun old => some
    (op .bf16 e (old % 65536) (y % 65536) + op .bf16 e (old / 65536) (y / 65536 % 65536) * 65536)) s

/-- AMOADD: atomic, adds s_b, wrapping; s_d takes the old value (05 R189). -/
def execAmoadd (d a b : SReg) (w o : BitVec 2) (c : BitVec 3) (s : State) : Host.Outcome State Fault Refusal :=
  runScalar (wordOf (.amoadd d a b w o c)) (effAmoInt d a b w o c fun w x y => (x + y) % 2 ^ w) s

/-- AMOAND: atomic, bitwise AND; s_d takes the old value (05 R189). -/
def execAmoand (d a b : SReg) (w o : BitVec 2) (c : BitVec 3) (s : State) : Host.Outcome State Fault Refusal :=
  runScalar (wordOf (.amoand d a b w o c)) (effAmoInt d a b w o c fun _ x y => x &&& y) s

/-- AMOOR: atomic, bitwise OR; s_d takes the old value (05 R189). -/
def execAmoor (d a b : SReg) (w o : BitVec 2) (c : BitVec 3) (s : State) : Host.Outcome State Fault Refusal :=
  runScalar (wordOf (.amoor d a b w o c)) (effAmoInt d a b w o c fun _ x y => x ||| y) s

/-- AMOXOR: atomic, bitwise XOR; s_d takes the old value (05 R189). -/
def execAmoxor (d a b : SReg) (w o : BitVec 2) (c : BitVec 3) (s : State) : Host.Outcome State Fault Refusal :=
  runScalar (wordOf (.amoxor d a b w o c)) (effAmoInt d a b w o c fun _ x y => x ^^^ y) s

/-- AMOMIN: atomic, signed minimum; s_d takes the old value (05 R189). -/
def execAmomin (d a b : SReg) (w o : BitVec 2) (c : BitVec 3) (s : State) : Host.Outcome State Fault Refusal :=
  runScalar (wordOf (.amomin d a b w o c)) (effAmoInt d a b w o c fun w x y => if toS w y < toS w x then y else x) s

/-- AMOMAX: atomic, signed maximum; s_d takes the old value (05 R189). -/
def execAmomax (d a b : SReg) (w o : BitVec 2) (c : BitVec 3) (s : State) : Host.Outcome State Fault Refusal :=
  runScalar (wordOf (.amomax d a b w o c)) (effAmoInt d a b w o c fun w x y => if toS w x < toS w y then y else x) s

/-- AMOMINU: atomic, unsigned minimum; s_d takes the old value (05 R189). -/
def execAmominu (d a b : SReg) (w o : BitVec 2) (c : BitVec 3) (s : State) : Host.Outcome State Fault Refusal :=
  runScalar (wordOf (.amominu d a b w o c)) (effAmoInt d a b w o c fun _ x y => if y < x then y else x) s

/-- AMOMAXU: atomic, unsigned maximum; s_d takes the old value (05 R189). -/
def execAmomaxu (d a b : SReg) (w o : BitVec 2) (c : BitVec 3) (s : State) : Host.Outcome State Fault Refusal :=
  runScalar (wordOf (.amomaxu d a b w o c)) (effAmoInt d a b w o c fun _ x y => if x < y then y else x) s

/-- AMOSWAP: atomic, writes s_b; s_d takes the old value (05 R189). -/
def execAmoswap (d a b : SReg) (w o : BitVec 2) (c : BitVec 3) (s : State) : Host.Outcome State Fault Refusal :=
  runScalar (wordOf (.amoswap d a b w o c)) (effAmoInt d a b w o c fun _ _ y => y) s

/-- AMOCAS: writes s_b when memory equals s_d; s_d takes the old value (05 R189, R191). -/
def execAmocas (d a b : SReg) (w o : BitVec 2) (c : BitVec 3) (s : State) : Host.Outcome State Fault Refusal :=
  runScalar (wordOf (.amocas d a b w o c)) (fun s =>
    if 2 ≤ w.toNat ∨ scopeOk c = false then .trap .illegal s
    else
      let n := if w = 0 then 4 else 8
      let cmp := (s.hart.readS d).toNat % 2 ^ (8 * n)
      effAmo d a o c n .int (fun old => if old = cmp then some ((s.hart.readS b).toNat % 2 ^ (8 * n)) else none) s) s

/-- AMOFADD: floating add at the home (05 R189, R190). -/
def execAmofadd (d a b : SReg) (w o : BitVec 2) (c : BitVec 3) (s : State) : Host.Outcome State Fault Refusal :=
  runScalar (wordOf (.amofadd d a b w o c)) (effAmoFp true d a b w o c fun f e x y => (f.add e x y).1) s

/-- AMOFMIN: floating minimum at the home (02 R75, 05 R190). -/
def execAmofmin (d a b : SReg) (w o : BitVec 2) (c : BitVec 3) (s : State) : Host.Outcome State Fault Refusal :=
  runScalar (wordOf (.amofmin d a b w o c)) (effAmoFp false d a b w o c fun f e x y => (f.minmax e.ftz false x y).1) s

/-- AMOFMAX: floating maximum at the home (02 R75, 05 R190). -/
def execAmofmax (d a b : SReg) (w o : BitVec 2) (c : BitVec 3) (s : State) : Host.Outcome State Fault Refusal :=
  runScalar (wordOf (.amofmax d a b w o c)) (effAmoFp false d a b w o c fun f e x y => (f.minmax e.ftz true x y).1) s

end Sys2Proof.Machine
end

