-- ==== Sys2Proof/Machine/Remote.lean ====
section
/-! DEFINITION. Remote operations and collectives, major 0x35, and what this device answers as the home (03 R111, R137;
07 R263 to R270; log 9). -/

namespace Sys2Proof.Machine

/-- CTXCFG.REMOTEEN (01 R51). -/
def Hart.remoteEn (h : Hart) : Bool := h.ctxcfg.getLsbD 1

/-- The frame of RGET and RPUT: lane-governed, and denied without REMOTEEN even where no lane is active (04 R160 to R162). -/
def remoteGoverned (a : SReg) (body : Act Unit) (s : State) : Eff :=
  if s.hart.ill then .trap .vcfgIll s
  else if s.hart.anyActive = false then
    (if s.hart.remoteEn then .done { s with hart := s.hart.restart } else .trap (.access (s.hart.readS a)) s)
  else Act.effect (do body; Act.modifyHart Hart.restart) s

/-! ### RGET (R263) -/

/-- The device and the element number of an index at EW2 32 or 64 (R263). -/
def remoteIndex (w2 x : Nat) : Nat × Nat := (x / 2 ^ (w2 - 8) % 256, x % 2 ^ (w2 - 8))

/-- The answer of a peer to a hart that waits: what the way there refuses, or the reply that has come (R264). -/
def State.answerOf (s : State) (dev : Nat) : Option Nat :=
  let st := s.peerStatus s.hart.ctxid.toNat dev
  if st ≠ 0 then some st else s.hart.replies.lookup dev

/-- The answers of peers, or a wait for those that have not come. -/
def Act.askAll (devs : List Nat) : Act (Nat → Nat) := do
  let s ← get
  let missing := devs.filter fun d => (s.answerOf d).isNone
  if missing.isEmpty then return fun d => (s.answerOf d).getD 0 else throw (.ask missing)

/-- The value at an address of a context on a peer that answered with status 0 (log 9). -/
def State.peerValue (s : State) (dev : Nat) (va : Word) (len : Nat) : Nat :=
  match Config.peerTranslate dev s.hart.ctxid.toNat va with
  | some spa => Memory.readLE s.mem (peerKey spa) len
  | none => Config.freeValue (1024 + dev) (s.ticks * 2 ^ 64 + va.toNat) % 2 ^ (8 * len)

/-- The element of a device's list whose read failed: the first that the peer cannot translate, or the first of all. -/
def failingElem (ctx dev : Nat) (es : List (Nat × Word)) : Nat :=
  ((es.find? fun (_, va) => (Config.peerTranslate dev ctx va).isNone).orElse fun _ => es.head?).elim 0 Prod.fst

/-- The lower of two elements that fault. -/
def lowerStop (a b : Option (Nat × Cause)) : Option (Nat × Cause) :=
  match a, b with
  | some x, some y => if x.1 ≤ y.1 then some x else some y
  | some x, none => some x
  | none, y => y

/-- The waiting state of remote operations cleared. -/
def Hart.clearReplies (h : Hart) : Hart := { h with asked := [], replies := [] }

/-- RGET's effect (R263). -/
def effRget (d : VReg) (a : SReg) (b : VReg) (s : State) : Eff :=
  remoteGoverned a (do
    let h := (← get).hart
    let w := h.ew1
    let ob := h.opnd b h.ew2 []
    let od := h.opnd d w []
    Act.legal ((h.ew2 == 32 || h.ew2 == 64) && w != 4 && h.groupOk d w && h.groupOk b h.ew2) false
    Act.unless (Act.require h.remoteEn (.access (h.readS a))) (Act.openStreams [ob] [od])
    Act.require h.remoteEn (.access (h.readS a))
    let h := (← get).hart
    let own := (← get).fab.device.toNat
    let x := h.elems ob
    let at_ := fun (i : Nat) => remoteIndex h.ew2 (x i)
    let va := fun (i : Nat) => h.readS a + BitVec.ofNat 64 ((at_ i).2 * (w / 8))
    let scratch := (h.activeList.find? fun i => inScratchSpace (va i)).map fun i => (i, Cause.access (va i))
    let before := h.activeList.takeWhile fun i => !inScratchSpace (va i)
    let here := before.filter fun i => (at_ i).1 == own
    let (vs, stop) ← Act.readPlan (w / 8) (here.map fun i => (i, [va i]))
    let stop := lowerStop stop scratch
    let far := before.filter fun i => (at_ i).1 != own && stop.all fun p => decide (i < p.1)
    let devs := (far.map fun i => (at_ i).1).eraseDups
    let answer ← Act.askAll devs
    let t ← get
    let held := fun (i : Nat) =>
      answer (at_ i).1 == 0 && ((Config.peerTranslate (at_ i).1 h.ctxid.toNat (va i)).any fun spa => t.claimed (peerKey spa) (w / 8))
    if far.any held then throw (.wait [])
    let fails := devs.filterMap fun dv =>
      if answer dv = 0 then none
      else some (failingElem h.ctxid.toNat dv ((far.filter fun i => (at_ i).1 == dv).map fun i => (i, va i)),
        Cause.remote dv (answer dv))
    let stop := fails.foldl (fun st f => lowerStop st (some f)) stop
    let t ← get
    let val := fun (i : Nat) => if (at_ i).1 = own then fieldOf vs 0 i else t.peerValue (at_ i).1 (va i) (w / 8)
    set { t with ticks := t.ticks + 1, hart := t.hart.clearReplies }
    match stop with
    | none =>
      let h := (← get).hart
      Act.writeVec od (h.loop w (h.bitsOfOpnd od) fun i => (val i, {})).1 0 h.activeList
    | some (i, c) =>
      let h := (← get).hart
      match h.writeStream? od with
      | some r =>
        Act.append r ((h.activeList.filter (· < i)).map fun j => (j, val j)) 0
        Act.trapAt s.hart.clearReplies i c
      | none =>
        let k := h.partLoad od i val
        Act.trapAt { s.hart.clearReplies with vregs := k.vregs, tags := k.tags } i c) s

/-- RGET: gathers elements from the devices that the indices name (R263). -/
def execRget (d a b : BitVec 5) (s : State) : Host.Outcome State Fault Refusal := runQueued (wordOf (.rget d a b)) (effRget d a b) s

/-! ### RPUT (R265) -/

/-- The checks of a store to local or peer memory that a peer's failure does not stop (R265). -/
def State.checkPut (s : State) (acc : Acc) (va : Word) (len : Nat) : Checked :=
  if inScratchSpace va then .trap (.access va) s
  else
    match s.access s.hart.env acc va len with
    | .error c => .trap c s
    | .ok parts =>
      let near := parts.filter fun p => match p.place with | .peer .. => false | _ => true
      match firstGate (near.map (s.partGate s.hart.env s.hart.num true)) with
      | .go => .ok parts
      | .wait on => .wait on
      | .trap c t => .trap c t

/-- The elements of an RPUT up to the first fault. -/
def State.planPut (s : State) (len : Nat) : List (Nat × Word) → Plan
  | [] => .ok []
  | (i, va) :: es =>
    match s.checkPut .store va len with
    | .trap c t => .fault [] i c t
    | .wait on => .wait on
    | .ok ps =>
      match s.planPut len es with
      | .ok xs => .ok ((i, [ps]) :: xs)
      | .fault xs j c t => .fault ((i, [ps]) :: xs) j c t
      | .wait on => .wait on

/-- A failure of a fire-and-forget operation of the current hart's context and node (R265). -/
def Hart.failure (h : Hart) (dev status : Nat) : RemoteFailure :=
  ⟨h.num, h.ctxid.toNat, h.slot.toNat, h.gen.toNat, h.node.toNat, h.pc, dev, status⟩

/-- An operation that goes to a device: recorded as a failure at once where the device cannot be reached, else outstanding
(R264, R265). -/
def State.sendOff (s : State) (dev : Nat) (q : List PeerAccess) : State :=
  let h := s.hart
  let st := s.peerStatus h.ctxid.toNat dev
  let p := s.peers
  if st ≠ 0 then { s with peers := { p with failures := p.failures ++ [h.failure dev st] } }
  else
    { s with peers := { p with
      ops := p.ops ++ [⟨p.nextOp, h.num, h.ctxid.toNat, h.slot.toNat, h.gen.toNat, h.node.toNat, h.pc, dev, q⟩], nextOp := p.nextOp + 1 } }

/-- The bytes of one element go to their places: here at once, to a peer as a fire-and-forget store. -/
def State.putParts (s : State) : List Part → List Byte → State
  | [], _ => s
  | p :: ps, bytes =>
    let s :=
      match p.place with
      | .peer dev spa => s.sendOff dev [.store spa (bytes.take p.len)]
      | _ => s.writePart s.hart.env p (bytes.take p.len)
    s.putParts ps (bytes.drop p.len)

/-- One element of an RPUT goes to its place: at EW1 = 4 half of a byte, whose other half stays what it is when the store
performs (R265; 02 R61). -/
def State.putElem (s : State) (w i v : Nat) (ps : List Part) : State :=
  if w ≠ 4 then s.putParts ps (leBytes (elemBytes w) v)
  else
    match ps with
    | [⟨_, _, .peer dev spa⟩] => s.sendOff dev [.nibble spa (i % 2 == 1) (BitVec.ofNat 4 v)]
    | _ =>
      let old := leNat ((s.readParts ps).2.1)
      s.putParts ps (leBytes 1 (setElem 4 old (i % 2) v))

/-- RPUT's effect (R265). -/
def effRput (d : VReg) (a : SReg) (s : State) : Eff :=
  remoteGoverned a (do
    let h := (← get).hart
    let w := h.ew1
    let od := h.opnd d w []
    Act.legal (h.groupOk d w) false
    Act.unless (Act.require h.remoteEn (.access (h.readS a))) (Act.openStreams [od] [])
    Act.require h.remoteEn (.access (h.readS a))
    let h := (← get).hart
    let ed := h.elems od
    let s1 ← get
    let put := fun (t : State) (xs : List (Nat × List (List Part))) => xs.foldl (fun t (i, ps) => t.putElem w i (ed i) (ps.headD [])) t
    match s1.planPut (elemBytes w) (h.activeList.map fun i => (i, h.readS a + BitVec.ofNat 64 (i * w / 8))) with
    | .wait on => throw (.wait on)
    | .ok xs => set (put s1 xs)
    | .fault xs i c t => do
      set (put t xs)
      Act.trapAt s.hart i c) s

/-- RPUT: fire-and-forget store of the active elements (R265). -/
def execRput (d a : BitVec 5) (s : State) : Host.Outcome State Fault Refusal := runQueued (wordOf (.rput d a)) (effRput d a) s

/-! ### RATOM and RFLUSH (R266, R267) -/

/-- The value that an integer atomic writes, by the codes of 04 R151; none where a comparison fails. -/
def atomOp (code w old x cmp : Nat) : Option Nat :=
  match code with
  | 0 => some ((old + x) % 2 ^ w)
  | 1 => some (old &&& x)
  | 2 => some (old ||| x)
  | 3 => some (old ^^^ x)
  | 4 => some (if toS w x < toS w old then x else old)
  | 5 => some (if toS w old < toS w x then x else old)
  | 6 => some (if x < old then x else old)
  | 7 => some (if old < x then x else old)
  | 8 => some x
  | _ => if old = cmp then some x else none

/-- The bytes of a peer that an access touches. -/
def rangeOf : PeerAccess → Nat × Nat
  | .load spa len => (spa, len)
  | .store spa data => (spa, data.length)
  | .nibble spa _ _ => (spa, 1)
  | .atom _ width spa _ _ => (spa, width)

/-- A peer performs an access of this device, at its home (R264 to R266). -/
def State.performAt (s : State) : PeerAccess → State
  | .load _ _ => s
  | .store spa data => { s with mem := Memory.writeBytes s.mem (peerKey spa) data }
  | .nibble spa high v =>
    let old := (Memory.read s.mem (peerKey spa)).toNat
    { s with mem := Memory.write s.mem (peerKey spa) (BitVec.ofNat 8 (setElem 4 old high.toNat v.toNat)) }
  | .atom op width spa x cmp =>
    let w := 8 * width
    match atomOp op.toNat w (Memory.readLE s.mem (peerKey spa) width) (x.toNat % 2 ^ w) (cmp.toNat % 2 ^ w) with
    | some v => { s with mem := Memory.writeLE s.mem (peerKey spa) width v }
    | none => s

/-- RATOM's effect (R266): a returning form waits for its peer, one with d = 0 does not. MISALIGN, WINDOW_CROSS and
the page causes of its address come before the ACCESS that a clear REMOTEEN gives (04 R162; 01 R53). -/
def effRatom (d a b : SReg) (c : BitVec 4) (w : BitVec 1) (s : State) : Eff :=
  Act.effect (do
    let h := s.hart
    let va := h.readS a
    let n := if w = 0 then 4 else 8
    let f := fun (old : Nat) => atomOp c.toNat (8 * n) old ((h.readS b).toNat % 2 ^ (8 * n)) ((h.readS d).toNat % 2 ^ (8 * n))
    let ret := fun (old : Nat) =>
      Act.modifyHart fun k => k.clearReplies.writeS d (if n = 4 then sextN 32 old else BitVec.ofNat 64 old)
    Act.require (c.toNat < 10) .illegal
    Act.require (va.toNat % n = 0) (.misalign va)
    Act.unless (match s.checkPut .atomic va n with | .trap cause _ => Act.trap cause | _ => pure ())
      (Act.require h.remoteEn (.access va))
    match s.checkPut .atomic va n with
    | .trap cause t => do set t; Act.trap cause
    | .wait on => throw (.wait on)
    | .ok [⟨_, _, .peer dev spa⟩] =>
      let q := PeerAccess.atom c n spa (h.readS b) (h.readS d)
      if d = 0 then modify fun t => t.sendOff dev [q]
      else
        let answer ← Act.askAll [dev]
        if answer dev ≠ 0 then do
          Act.modifyHart Hart.clearReplies
          throw (.keep (.remote dev (answer dev)))
        else if s.claimed (peerKey spa) n then throw (.wait [])
        else
          let old := Memory.readLE s.mem (peerKey spa) n
          modify fun t => t.performAt q
          ret old
    | .ok _ => do
      let old ← Act.got fun t => t.atomicN va n f
      ret old) s

/-- RATOM: an atomic at the home of its address (R266). -/
def execRatom (d a b : BitVec 5) (c : BitVec 4) (w : BitVec 1) (s : State) : Host.Outcome State Fault Refusal :=
  runQueued (wordOf (.ratom d a b c w)) (effRatom d a b c w) s

/-- Remote operations of the current hart in its context that have not performed (R267). -/
def State.ownOps (s : State) : List RemoteOp := s.peers.ops.filter fun o => o.hart == s.hart.num && o.ctx == s.hart.ctxid.toNat

/-- A failure is one of the current hart's in its context. -/
def Hart.owns (h : Hart) (f : RemoteFailure) : Bool := f.hart == h.num && f.ctx == h.ctxid.toNat

/-- RFLUSH's effect (R267): the oldest recorded failure traps, and the hart's record is cleared. -/
def effRflush (s : State) : Eff :=
  let h := s.hart
  let p := s.peers
  if h.remoteEn = false then .trap (.access 0) s
  else if s.ownOps.isEmpty = false then .wait s
  else
    match p.failures.find? h.owns with
    | none => .done s
    | some f => .trap (.remote f.dev f.status) { s with peers := { p with failures := p.failures.filter fun g => !h.owns g } }

/-- RFLUSH: waits for the hart's earlier remote operations (R267). -/
def execRflush (s : State) : Host.Outcome State Fault Refusal := runQueued (wordOf .rflush) effRflush s

/-- The remote operation that a peer's reply to hart `n` ends: any of those outstanding there, since they are unordered; which
is a free value (03 R137; log 9). -/
def State.repliedOp (s : State) (n dev : Nat) : Option RemoteOp :=
  let l := s.peers.ops.filter fun o => o.hart == n && o.dev == dev
  l[Config.freeValue 46 s.ticks % l.length]?

/-- A hart after a peer's reply: the answer that it waits for, or the end of an operation there (R263 to R266). An operation at
claimed granules has not performed yet (03 R132). -/
def State.reply (s : State) (n dev status : Nat) : State :=
  let h := s.hartAt n
  if h.asked.contains dev then s.putHart { h with asked := h.asked.filter (· != dev), replies := h.replies ++ [(dev, status)] }
  else
    match s.repliedOp n dev with
    | none => s
    | some o =>
      let p := s.peers
      let ops := p.ops.filter (·.num != o.num)
      if status = 0 then
        if o.q.any fun q => s.claimed (peerKey (rangeOf q).1) (rangeOf q).2 then s
        else o.q.foldl State.performAt { s with ticks := s.ticks + 1, peers := { p with ops := ops } }
      else
        { s with ticks := s.ticks + 1, peers := { p with
          ops := ops, failures := p.failures ++ [⟨n, o.ctx, o.slot, o.gen, o.node, o.pc, dev, status⟩] } }

/-- PEER_REPLY: a peer's reply to an RGET, RATOM or RPUT of hart n arrives (R263 to R266). -/
def execPeerReply (n dev status : Nat) (s : State) : Host.Outcome State Fault Refusal :=
  .next (if n < 1152 then s.reply n dev status else s)

end Sys2Proof.Machine
end

