-- ==== Sys2Proof/Machine/Collective.lean ====
section
/-! DEFINITION. Collectives, and the requests of peers that this device answers (07 R263, R268 to R270; 13 R385, R386). -/

namespace Sys2Proof.Machine

/-! ### Collective blocks (R268) -/

/-- A collective block. -/
structure CollBlock where
  srca : Nat
  dsta : Nat
  count : Nat
  done : Nat
  list : Nat
  seq : Nat
  ndev : Nat
  root : Nat
  op : Nat
  fmt : Nat
  rm : Nat
  zero : Nat
  deriving DecidableEq, Repr

/-- A block from its 64 bytes. -/
def CollBlock.ofNat (b : Nat) : CollBlock where
  srca := bitsOf b 0 64
  dsta := bitsOf b 64 64
  count := bitsOf b 128 64
  done := bitsOf b 192 64
  list := bitsOf b 256 64
  seq := bitsOf b 320 32
  ndev := bitsOf b 352 16
  root := bitsOf b 368 16
  op := bitsOf b 384 8
  fmt := bitsOf b 392 8
  rm := bitsOf b 400 8
  zero := bitsOf b 408 104

/-- The element width of a format that a collective may have; none for another code. -/
def collWidth (fmt : Nat) : Option Nat :=
  if fmt = 3 ∨ fmt = 9 then some 32 else if fmt = 4 ∨ fmt = 8 then some 64 else if fmt = 10 ∨ fmt = 11 then some 16 else none

/-- The limits of a block of operation code 4 (CRED) or 5 (CBCAST), beside its list (R268). -/
def CollBlock.ok (c : CollBlock) (op : Nat) : Bool :=
  decide (1 ≤ c.count ∧ c.count ≤ 2 ^ 32 ∧ c.done % 8 = 0 ∧ 2 ≤ c.ndev ∧ c.ndev ≤ 256 ∧ c.rm ≤ 4 ∧ c.zero = 0)
    && (collWidth c.fmt).isSome
    && (if op = 4 then decide ((c.root < c.ndev ∨ c.root = 0xFFFF) ∧ c.op ≤ 5) && (decide (c.op < 3) || c.fmt == 3 || c.fmt == 4)
        else decide (c.root < c.ndev ∧ c.op = 0))

/-- The list names each device once, this one among them. -/
def listOk (own : Nat) (l : List Nat) : Bool := l.contains own && l.eraseDups.length == l.length

/-- The bytes of the data. -/
def CollBlock.bytes (c : CollBlock) : Nat := c.count * ((collWidth c.fmt).getD 8 / 8)

/-- The member at a position of the list receives (R269). -/
def CollBlock.receives (c : CollBlock) (op pos : Nat) : Bool := op == 5 || c.root == 0xFFFF || c.root == pos

/-- The member at a position gives data. -/
def CollBlock.gives (c : CollBlock) (op pos : Nat) : Bool := op == 4 || c.root == pos

/-- The first scratchpad address of a range is denied to a remote operation, whether its bytes are used or not (03 R107). -/
def scratchDenied (lo len : Nat) : List Cause :=
  if inScratchSpace (BitVec.ofNat 64 lo) then [.access (BitVec.ofNat 64 lo)]
  else if 0xFFFFFF0000000000 < lo + len then [.access 0xFFFFFF0000000000]
  else []

/-- A range of a hod command, pinned where the member uses it (03 R107; R268). -/
def State.pinHod (s : State) (e : Env) (acc : Acc) (use : Bool) (lo len : Nat) : List Part × List Cause :=
  let (ps, cs) := if use then s.pinRange e acc lo len else ([], [])
  (ps, cs ++ scratchDenied lo len)

/-- A hart's environment as a Beydin port's hod uses it (13 R385). -/
def Hart.hodEnv (h : Hart) (port : Nat) : Env := { h.env with master := hodMaster port }

/-- The hod that takes a collective of the devices `l`: one whose port leads to another member, by a free choice, and any of the
eighteen where none does (R270; 13 R391; log 70). -/
def State.nextHod (s : State) (l : List Nat) : Nat :=
  let ps := (List.range 18).filter fun p => l.any fun d => d != s.fab.device.toNat && (s.portsTo d).contains p
  (ps[Config.freeValue 47 s.stamp % ps.length]?).getD (Config.freeValue 47 s.stamp % 18)

/-- Bytes that a collective instruction reads, none of them in scratchpad space (03 R107). -/
def Act.loadOutside (va : Word) (len : Nat) : Act Nat := do
  match scratchDenied va.toNat len with
  | c :: _ => Act.trap c
  | [] => Act.load va len

/-- The issue of a collective: block, limits, list, ranges (R268, R270). A block that is not 64-byte aligned traps MISALIGN, as the
other engines' blocks do (DESIGN CHOICE, log 67: R268 requires the alignment and gives no cause). -/
def Act.collective (op : Nat) (va : Word) : Act Unit := do
  let s ← get
  let h := s.hart
  let own := s.fab.device.toNat
  Act.require h.remoteEn (.access va)
  Act.require (va.toNat % 64 = 0) (.misalign va)
  let b ← Act.loadOutside va 64
  let c := CollBlock.ofNat b
  Act.require (c.ok op) (.remote own 8)
  let l ← (List.range c.ndev).mapM fun i => Act.loadOutside (plus (BitVec.ofNat 64 c.list) i) 1
  Act.require (listOk own l) (.remote own 8)
  let pos := l.findIdx (· == own)
  let s ← get
  let port := s.nextHod l
  let e := h.hodEnv port
  let (src, c1) := s.pinHod e .load (c.gives op pos) c.srca c.bytes
  let (dst, c2) := s.pinHod e .store (c.receives op pos) c.dsta c.bytes
  let (fin, c3) := s.pinHod e .store true c.done 8
  match firstCause (c1 ++ c2 ++ c3) with
  | some cause => Act.trap cause
  | none =>
    set (s.enqueue {
      id := s.stamp, kind := .hod, unit := port, op := op, blockVa := va, block := leBytes 64 b
      done := some (BitVec.ofNat 64 c.done), env := e, hart := h.num, launch := h.block.map fun k => (k.slot, k.node, k.gen)
      stamp := none, src := src, dst := [dst], fin := fin, claimed := false, tiles := [], status := none, extra := l })

/-- CRED: issues a collective reduction (R268, R269). -/
def execCred (a : BitVec 5) (s : State) : Host.Outcome State Fault Refusal :=
  runQueued (wordOf (.cred a)) (fun s => Act.effect (Act.collective 4 (s.hart.readS a)) s) s

/-- CBCAST: issues a collective broadcast (R268, R269). -/
def execCbcast (a : BitVec 5) (s : State) : Host.Outcome State Fault Refusal :=
  runQueued (wordOf (.cbcast a)) (fun s => Act.effect (Act.collective 5 (s.hart.readS a)) s) s

/-! ### The end of a collective (R269) -/

/-- The rounding mode of a code. -/
def rmOf (c : Nat) : RM := match c with | 1 => .rtz | 2 => .rdn | 3 => .rup | 4 => .rmm | _ => .rne

/-- The floating format of a tag code that a collective may have. -/
def fmtOfCode (c : Nat) : FFmt := if c = 8 then .fp64 else if c = 9 then .fp32 else if c = 10 then .fp16 else .bf16

/-- The reduction of one element over the members, in list order. -/
def reduceOne (c : CollBlock) (w : Nat) (xs : List Nat) : Nat :=
  let f := fmtOfCode c.fmt
  let fold := fun (g : Nat → Nat → Nat) => match xs with | [] => 0 | x :: t => t.foldl g x
  let isInt := c.fmt = 3 ∨ c.fmt = 4
  match c.op with
  | 0 => if isInt then fold fun a b => (a + b) % 2 ^ w else (treeSum f ⟨rmOf c.rm, false, false⟩ 8 xs).1
  | 1 => fold fun a b => if isInt then (if toS w b < toS w a then b else a) else (f.minmax false false a b).1
  | 2 => fold fun a b => if isInt then (if toS w a < toS w b then b else a) else (f.minmax false true a b).1
  | 3 => fold (· &&& ·)
  | 4 => fold (· ||| ·)
  | _ => fold (· ^^^ ·)

/-- The bytes of `n` elements at the receivers of a collective, from the members' bytes of them in list order. -/
def CollBlock.result (c : CollBlock) (op n : Nat) (data : List (List Byte)) : List Byte :=
  let w := (collWidth c.fmt).getD 64
  if op = 5 then (data.getD c.root []).take (n * (w / 8))
  else
    let xs := data.map leNat
    (List.range n).flatMap fun i => leBytes (w / 8) (reduceOne c w (xs.map (elem w · i)))

/-- A collective of this device that has issued, while the module runs. -/
def State.collectiveOf (s : State) (id : Nat) : Option Command :=
  s.cmds.find? fun k => s.powered && k.id == id && k.kind == .hod && k.claimed && k.status.isNone

/-- The elements of this member's source from byte `lo` on, each with whether it is poisoned. -/
def State.ownElems (s : State) (k : Command) (c : CollBlock) (e lo : Nat) : Nat → State × List (List Byte × Bool)
  | 0 => (s, [])
  | n + 1 =>
    let (s, bs, bad) := s.readParts (elemParts k.src (c.srca + lo) e)
    let (s, rest) := s.ownElems k c e (lo + e) n
    (s, (bs, bad.isSome) :: rest)

/-- The next `n` bytes of a collective are moved, with the other members' bytes of them: an element that this member gives poisoned is
poisoned at its destination (R269; 15 R413; log 9). -/
def State.moveTile (s : State) (k : Command) (parts : List (Nat × List Byte)) (n : Nat) : State × Command :=
  let c := CollBlock.ofNat (leNat k.block)
  let own := s.fab.device.toNat
  let pos := k.extra.findIdx (· == own)
  let e := (collWidth c.fmt).getD 64 / 8
  let (s, mine) := if c.gives k.op pos then s.ownElems k c e k.at_ (n / e) else (s, [])
  let given := fun (dev : Nat) =>
    let b := if dev = own then mine.flatMap Prod.fst else (parts.lookup dev).getD []
    (List.range n).map fun i => b.getD i 0
  let bytes := c.result k.op (n / e) (k.extra.map given)
  let xs : List Elem := (List.range (n / e)).map fun i =>
    (c.dsta + k.at_ + i * e, (bytes.drop (i * e)).take e, (mine.getD i ([], false)).2)
  let s := if c.receives k.op pos then (s.renew (piecesOf k xs)).writeElems k [] xs else s
  (s, { k with at_ := k.at_ + n, ends := if mine.any Prod.snd then (1, 0) else k.ends })

/-- The bytes of a collective that its hods have not yet moved. -/
def Command.left (k : Command) : Nat := (CollBlock.ofNat (leNat k.block)).bytes - k.at_

/-- A collective ends with a status; where poisoned data is the cause, its hod's bank records 0x51 (15 R408, R413). -/
def State.endHod (s : State) (k : Command) (status : Nat) : State :=
  let info : McInfo := { code := 0x51, adrk := 1, addr := k.blockVa, master := k.env.master, ctx := k.env.ctx }
  (if status = 1 ∨ status = 8 then (s.report (710 + k.unit) info).1 else s).complete k status 0

/-- What stops a collective before its hods move more of it: 4 where a member cannot be reached (07 R264; 13 R390, R391), 8 where its
ranges touch fenced memory (15 R425); 0 where nothing does. -/
def State.hodStatus (s : State) (k : Command) : Nat :=
  if k.extra.any fun d => d != s.fab.device.toNat && (s.exitPort d (CollBlock.ofNat (leNat k.block)).dsta).isNone then 4
  else if s.fencedParts (k.src ++ k.dst.flatten) then 8
  else 0

/-- A member's collective ends once all its data has moved (R269); poisoned data gives status 1 (15 R413; log 9). -/
def State.endCollective (s : State) (k : Command) (parts : List (Nat × List Byte)) : State :=
  let (s, k) := s.moveTile k parts k.left
  s.endHod k k.ends.1

/-- The hods of a collective end it where something stops them, or act by `f` where it may run (03 R132; R270). -/
def State.hodTurn (s : State) (id : Nat) (f : Command → State) : State :=
  match s.collectiveOf id with
  | none => s
  | some k => if s.hodStatus k ≠ 0 then s.endHod k (s.hodStatus k) else if s.mayRun k then f k else s

/-- COLLECTIVE_COMPLETE: the members' parameters agree, or not, and the data of the other members that has not yet moved has come
(R269). They have agreed once data has moved. A member whose data the event leaves out gives zeros (log 9). -/
def execCollectiveComplete (id : Nat) (agree : Bool) (parts : List (Nat × List Byte)) (s : State) :
    Host.Outcome State Fault Refusal :=
  .next (if agree then s.hodTurn id fun k => s.endCollective k parts
    else match s.collectiveOf id with
      | none => s
      | some k => if k.at_ = 0 then s.complete k 6 0 else s)

/-- COLLECTIVE_TIMEOUT: the partners have not joined within 2^31 clocks, counted while the context runs (R269). -/
def execCollectiveTimeout (id : Nat) (s : State) : Host.Outcome State Fault Refusal :=
  .next (match s.collectiveOf id with
    | none => s
    | some k => if s.cx.state k.env.ctx = 1 ∧ k.at_ = 0 then s.complete k 7 0 else s)

/-- HOD_TILE_TRANSFER: a hod moves one 4 KiB tile of a collective whose members agree (R270; 03 R132). -/
def execHodTileTransfer (d : TileData) (s : State) : Host.Outcome State Fault Refusal :=
  .next (s.hodTurn d.id fun k => let (t, k) := s.moveTile k d.parts (min 4096 k.left); t.setCmd k)

/-! ### Requests of peers -/

/-- The environment in which this device serves a peer for a context: its tables, as a user-mode access of the peer's master
identity (13 R379, R385). -/
def CtxRec.peerEnv (r : CtxRec) (ctx src : Nat) : Env where
  heapbase := r.heapbase
  heaplim := r.heaplim
  heapoff := r.heapoff
  ptroot := r.ptroot
  ctxcfg := r.ctxcfg
  atmem := r.atmem
  atscr := r.atscr
  atiod := r.atiod
  core := 0
  ctx := ctx
  master := 3072 + src
  user := true
  ctl := none

/-- The status of a peer's access of a context to this device by address, or its bytes' parts (R264; 13 R385, R386). -/
def State.serveVa (s : State) (r : CtxRec) (e : Env) (acc : Acc) (va : Word) (len : Nat) : Except Nat (List Part) :=
  if s.tablePermits r.atport e.master acc = false ∨ inScratchSpace va then .error 2
  else
    match s.access e acc va len with
    | .error (.page ..) => .error 1
    | .error (.discardedWrite _) => .error 3
    | .error _ => .error 2
    | .ok ps => if ps.all fun p => match p.place with | .mem .. => true | .zeros => true | _ => false then .ok ps else .error 2

/-- The same by system physical address (03 R111). -/
def State.serveSpa (s : State) (r : CtxRec) (e : Env) (acc : Acc) (spa len : Nat) : Except Nat (List Part) :=
  if s.tablePermits r.atport e.master acc = false then .error 2
  else
    match s.target e acc spa false true, s.target e acc (spa + (len - 1)) false true with
    | .ok (.mem k h p), .ok (.mem k' _ _) => if k' = k + (len - 1) then .ok [⟨BitVec.ofNat 64 spa, len, .mem k h p⟩] else .error 2
    | _, _ => .error 2

/-- An answer to a peer. -/
def State.answer (s : State) (status : Nat) (bytes : List Byte) : State :=
  { s with peers := { s.peers with answers := s.peers.answers ++ [(status, bytes)] } }

/-- A claimed granule holds an access to parts back (03 R132). -/
def State.held (s : State) (ps : List Part) : Bool :=
  ps.any fun p => match p.place with | .mem k _ _ => s.claimed k p.len | _ => false

/-- An atomic at home: the old bytes are answered (R266). -/
def State.serveAtom (s : State) (e : Env) (ps : List Part) (op : BitVec 4) (n : Nat) (x cmp : Word) : State :=
  let (s, bs, _) := s.readParts ps
  let w := 8 * n
  match atomOp op.toNat w (leNat bs) (x.toNat % 2 ^ w) (cmp.toNat % 2 ^ w) with
  | some v => (s.writeParts e ps (leBytes n v)).answer 0 bs
  | none => s.answer 0 bs

/-- The elements of a packed index list, in order; the first that fails gives the status (R263, R264). -/
def State.serveList (s : State) (r : CtxRec) (e : Env) (base : Word) (n : Nat) : List Nat → Except Nat (List Part)
  | [] => .ok []
  | x :: xs =>
    match s.serveVa r e .load (base + BitVec.ofNat 64 (x * n)) n with
    | .error st => .error st
    | .ok ps =>
      match s.serveList r e base n xs with
      | .error st => .error st
      | .ok qs => .ok (ps ++ qs)

/-- What follows the translation of a peer's access: its status, which is 4 in fenced memory (15 R425), nothing yet while a claim
holds it, or its effect. -/
def State.serveParts (s : State) (r : Except Nat (List Part)) (f : List Part → State) : State :=
  match r with
  | .error st => s.answer st []
  | .ok ps => if s.fencedParts ps then s.answer 4 [] else if s.held ps then s else f ps

/-- A peer's request comes in where a port carries peer traffic (13 R390); its context has tables here, or the status is 5 (R264). -/
def State.forPeer (s : State) (src ctx : Nat) (f : CtxRec → Env → State) : State :=
  let c := s.ctxOf ctx
  if ((List.range 18).any s.carries) = false then s
  else if c.st = 0 ∨ c.st = 4 then s.answer 5 []
  else f c.live (c.live.peerEnv ctx src)

/-- REMOTE_REQUEST_AT_PEER: a packed index list or a remote operation arrives, is translated for the context and answered
(R263 to R266). -/
def execRemoteRequestAtPeer (src : BitVec 8) (ctx : Nat) (q : PeerRequest) (s : State) : Host.Outcome State Fault Refusal :=
  .next (s.forPeer src.toNat ctx fun r e =>
    match q with
    | .gather base n xs =>
      s.serveParts (s.serveList r e base n xs) fun ps => let (t, bs, _) := s.readParts ps; t.answer 0 bs
    | .put va data => s.serveParts (s.serveVa r e .store va data.length) fun ps => (s.writeParts e ps data).answer 0 []
    | .atom op wide va x cmp =>
      let n := if wide then 8 else 4
      s.serveParts (s.serveVa r e .atomic va n) fun ps => s.serveAtom e ps op n x cmp)

/-- PEER_ACCESS_ARRIVAL: a load, store or atomic of a peer arrives by system physical address (03 R111; 13 R385). -/
def execPeerAccessArrival (src : BitVec 8) (ctx : Nat) (q : PeerAccess) (s : State) : Host.Outcome State Fault Refusal :=
  .next (s.forPeer src.toNat ctx fun r e =>
    match q with
    | .load spa n => s.serveParts (s.serveSpa r e .load spa n) fun ps => let (t, bs, _) := s.readParts ps; t.answer 0 bs
    | .store spa data => s.serveParts (s.serveSpa r e .store spa data.length) fun ps => (s.writeParts e ps data).answer 0 []
    | .nibble spa high v =>
      s.serveParts (s.serveSpa r e .store spa 1) fun ps =>
        (s.writeParts e ps (leBytes 1 (setElem 4 (leNat (s.readParts ps).2.1) high.toNat v.toNat))).answer 0 []
    | .atom op n spa x cmp => s.serveParts (s.serveSpa r e .atomic spa n) fun ps => s.serveAtom e ps op n x cmp)

end Sys2Proof.Machine
end

