-- ==== Sys2Proof/Machine/Fetch.lean ====
section
/-! DEFINITION. The fetch of an instruction word and the faults of a fetch (01 R45, R54; 05 R183; 14 R394). -/

namespace Sys2Proof.Machine

/-- What a fetch gives: the word, a fault at an address, consumed poison, or a wait. -/
inductive Fetched where
  | word (w : IWord) (s : State)
  | fault (denied : Bool) (va : Word)
  | mcheck (c : Cause) (s : State)
  | wait
  deriving DecidableEq, Repr

/-- The fetch of the word at an address. Memory of a peer that cannot be reached is denied (log 9); poisoned bytes trap
MCHECK_CONTAINED with FETCH set (log 21). -/
def State.fetch (s : State) (pc : Word) : Fetched :=
  match s.check s.hart.env s.hart.num .fetch pc 4 with
  | .ok parts =>
    match s.readNat parts with
    | .ok v t => .word (BitVec.ofNat 32 v) t
    | .trap c t => .mcheck c t
    | .wait _ => .wait
  | .wait _ => .wait
  | .trap (.page _ va) _ => .fault false va
  | .trap (.access va) _ => .fault true va
  | .trap _ _ => .fault true pc

/-- The cause of a fetch fault. -/
def fetchCause (denied : Bool) (va : Word) : Cause := if denied then .access va else .page false va

/-- The trap of a fetch of a word that stands alone: FETCH set, VEC clear (01 R50, R54). -/
def State.fetchTrap (s : State) (c : Cause) : State := s.takeTrap { word := 0, fetch := true } c

/-- INSTRUCTION_FETCH_FAULT: the hart's fetch faults at an address (01 R54, 05 R183). -/
def execInstructionFetchFault (denied : Bool) (va : Word) (s : State) : Host.Outcome State Fault Refusal :=
  .next (s.fetchTrap (fetchCause denied va))

end Sys2Proof.Machine
end

