-- ==== Sys2Proof/Machine/Grout.lean ====
section
/-! DEFINITION. Grout lists, narrow codes, their scales and exact values, and side registers (02 R66, R70 to R73, R81 to R85;
09 R307, R326). -/

namespace Sys2Proof.Machine

/-! ### Formats by code -/

/-- The bits of an element of a format code (01 R40); 24 is INT3G (09 R311). A code of no element format has none. -/
def codeBits (c : Nat) : Nat :=
  if c = 24 then 3 else [0, 8, 16, 32, 64, 4, 0, 0, 64, 32, 16, 16, 8, 8, 4, 4, 8].getD c 0

/-- The floating format of a code. -/
def fpOfCode : Nat → Option FFmt
  | 8 => some .fp64
  | 9 => some .fp32
  | 10 => some .fp16
  | 11 => some .bf16
  | 12 => some .e4m3
  | 13 => some .e5m2
  | 14 => some .e2m1
  | _ => none

/-- The value of an element of a format code, without scale (02 R66, R72, R73, R77). -/
def codeVal (ftz : Bool) (f c : Nat) : FVal :=
  match fpOfCode f with
  | some g => g.unpack ftz c
  | none => FVal.ofInt (toS (codeBits f) (c % 2 ^ codeBits f))

/-- The escape code of a narrow format (02 R82). -/
def escapeOf : Nat → Nat
  | 12 => 0xFF
  | 13 => 0x80
  | 24 => 4
  | _ => 8

/-- A value under an E8M0 scale; a scale of 0xFF reads as a NaN that raises NV (02 R70, R71, R81). -/
def FVal.scaleBy (c : Nat) (v : FVal) : FVal :=
  if c = 255 then .nan true
  else
    match v with
    | .fin s m e => .fin s m (e + (c : Int) - 127)
    | v => v

/-! ### Grout lists -/

/-- A grout list as read: its address, TELEM, CAP, COUNT, CLAMPED, and its entries below COUNT as INDEX and VALUE (02 R83). -/
structure Grout where
  addr : Word
  telem : Nat
  cap : Nat
  count : Nat
  clamped : Bool
  entries : List (Nat × Nat)
  deriving DecidableEq, Repr

/-- The header of a list, where it is well formed (02 R83, R85). -/
def Grout.ofHeader (a : Word) (w : Nat) : Option Grout :=
  let g : Grout := ⟨a, bitsOf w 16 32, bitsOf w 8 8, bitsOf w 0 8, w.testBit 48, []⟩
  if bitsOf w 49 15 = 0 ∧ g.cap ≠ 0 ∧ g.count ≤ g.cap ∧ 1 ≤ g.telem ∧ g.telem ≤ 65536 then some g else none

/-- The header's word. -/
def Grout.header (g : Grout) : Nat := g.count + g.cap * 2 ^ 8 + g.telem * 2 ^ 16 + g.clamped.toNat * 2 ^ 48

/-- Numbers that strictly ascend. -/
def ascending : List Nat → Bool
  | [] => true
  | [_] => true
  | a :: b :: t => decide (a < b) && ascending (b :: t)

/-- The list with `COUNT` entries from their bytes, where they are in ascending INDEX order (02 R84, R85). -/
def Grout.withEntries (g : Grout) (w : Nat) : Option Grout :=
  let es := (List.range g.count).map fun k => (bitsOf w (64 * k) 16, bitsOf w (64 * k + 32) 32)
  if ascending (es.map Prod.fst) then some { g with entries := es } else none

/-- The value of an escaped element by its tile index (02 R84, R85). -/
def Grout.value (g : Grout) (idx : Nat) : Option FVal :=
  if g.telem ≤ idx then none else (g.entries.lookup idx).map (FFmt.fp32.unpack false)

/-- The header of a list read from memory and checked. -/
def Act.groutHeader (a : Word) : Act Grout := do
  if a.toNat % 8 ≠ 0 then Act.trap (.groutOverflow a)
  else
    match Grout.ofHeader a (← Act.load a 8) with
    | none => Act.trap (.groutOverflow a)
    | some g => return g

/-- A list read from memory and checked (02 R85). -/
def Act.groutList (a : Word) : Act Grout := do
  let g ← Act.groutHeader a
  let w ← if g.count = 0 then pure 0 else Act.load (plus a 8) (8 * g.count)
  match g.withEntries w with
  | none => Act.trap (.groutOverflow a)
  | some g => return g

/-- The exact value of an element: its grout value where it is escaped in a grout-bound operand, else its scaled value
(02 R84, R96); none where the list has no entry for it. -/
def exactElem (ftz : Bool) (f : Nat) (g : Option Grout) (sc : Option Nat) (idx c : Nat) : Option FVal :=
  let plain := match sc with
    | some k => (codeVal ftz f c).scaleBy k
    | none => codeVal ftz f c
  match g with
  | none => some plain
  | some g => if c = escapeOf f then g.value idx else some plain

/-! ### Side registers (09 R307, R326) -/

/-- The fields of a side register. -/
structure Side where
  glist : Word
  tbase : Nat
  g128 : Bool
  scales : Nat
  deriving DecidableEq, Repr

/-- The side register `n`; in protected mode its fields lie in the lower half. -/
def Hart.side (h : Hart) (n : Nat) : Side :=
  let v := (h.readV n).toNat
  if h.prot then ⟨BitVec.ofNat 64 (bitsOf v 4032 64), bitsOf v 4000 32, v.testBit 3999, v % 2 ^ 2048⟩
  else ⟨BitVec.ofNat 64 (bitsOf v 8128 64), bitsOf v 8096 32, v.testBit 8095, v % 2 ^ 4096⟩

/-- The bits of a register below its half or its whole for a side register's fields. -/
def Side.bits (x : Side) (prot : Bool) : Nat :=
  if prot then x.glist.toNat * 2 ^ 4032 + x.tbase * 2 ^ 4000 + x.g128.toNat * 2 ^ 3999 + x.scales % 2 ^ 2048
  else x.glist.toNat * 2 ^ 8128 + x.tbase * 2 ^ 8096 + x.g128.toNat * 2 ^ 8095 + x.scales % 2 ^ 4096

/-- An operand's side register. -/
def Opnd.side (o : Opnd) : Nat := o.reg + o.regs

/-- A format with a side register (09 R307). -/
def hasSide (f : Nat) : Bool := 12 ≤ f && f ≤ 15

/-- How an operand's elements take scales and grout values: the scale bytes and the elements that share one, the grout list's
address, and the tile index of element 0. -/
structure Scaling where
  scales : Option Nat
  bl : Nat
  list : Option Word
  tbase : Nat
  deriving DecidableEq, Repr

/-- The scale byte of element e. -/
def Scaling.at (x : Scaling) (e : Nat) : Option Nat := x.scales.map fun v => bitsOf v (8 * (e / x.bl)) 8

/-- The FORMAT checks of an operand of format `f` that may have a side register, and what that register gives it (09 R307;
02 R90); `want` is the tag that R43 of 01 reports, `given` a list that replaces the register's (09 R324). A grout-bound operand whose
side register is tagged E8M0 but has GLIST 0 is reported as that register with E8M0 found and expected (DESIGN CHOICE, log 72: R43
reports tags, and no tag is wrong there). -/
def Act.sideUse (o : Opnd) (f : Nat) (int : Bool) (want : BitVec 6) (given : Option (Word × Nat)) : Act Scaling := do
  let h := (← get).hart
  let t := h.srcTag o.reg
  let gb := t.getLsbD 5
  if gb ∧ (int ∨ hasSide f = false) then Act.trap (.format t want o.reg)
  else if hasSide f = false then return ⟨none, 32, none, 0⟩
  else
    let x := h.side o.side
    let e8 := h.tag o.side == tagE8M0
    if ((gb ∨ f = 15) ∧ e8 = false) ∨ (gb ∧ given = none ∧ x.glist = 0) then
      Act.trap (.format (h.tag o.side) tagE8M0 o.side)
    else
      return {
        scales := if e8 then some x.scales else none
        bl := if f = 15 && x.g128 then 128 else 32
        list := match given with
          | some (a, _) => some a
          | none => if gb then some x.glist else none
        tbase := match given with
          | some (_, t) => t
          | none => x.tbase }

end Sys2Proof.Machine
end

