-- ==== Sys2Proof/Machine/Matrix.lean ====
section
/-! DEFINITION. The matrix instructions, majors 0x28 to 0x2B: MZERO, MMA, MMAM, MDRAIN, MPERT (09 R304 to R319, R326;
02 R89, R90; 15 R412). -/

namespace Sys2Proof.Machine

/-! ### Configurations and tiles -/

/-- A row of the table of configurations: K, the accumulator format's code, and the formats of A (09 R304). -/
structure MatRow where
  k : Nat
  acc : Nat
  a : List Nat
  deriving DecidableEq, Repr

/-- The configuration of EW1 and B's format; `mem` says that the operands lie in memory. -/
def matRow (ew1 b : Nat) (mem : Bool) : Option MatRow :=
  if ew1 = 64 then (if b = 8 then some ⟨4, 8, [8]⟩ else none)
  else if ew1 = 32 then
    if b = 9 then some ⟨8, 9, [9]⟩
    else if b = 10 ∨ b = 11 then some ⟨16, 9, [10, 11]⟩
    else if b = 12 ∨ b = 13 then some ⟨32, 9, if mem then [12, 13, 14] else [12, 13]⟩
    else if b = 1 then some ⟨32, 3, if mem then [1, 5] else [1]⟩
    else if b = 14 ∨ b = 15 ∨ (b = 24 ∧ mem) then some ⟨64, 9, [12, 13, 14]⟩
    else if b = 5 then some ⟨64, 3, [1, 5]⟩
    else none
  else none

/-- The bits that a group of grouping G8 / 8 holds (01 R25, R59). -/
def Hart.groupBits (h : Hart) (g8 : Nat) : Nat := g8 * h.regBits / 8

/-- ROWS of the accumulator tile, where VL and the row count are legal (09 R305, R326). -/
def Hart.tileRows (h : Hart) : Option Nat :=
  let row := h.vl.toNat * h.ew1
  let bits := h.groupBits h.g8
  if h.vl.toNat % 16 = 0 ∧ h.vl.toNat ≤ 256 ∧ row ≠ 0 ∧ bits % row = 0 ∧ 1 ≤ bits / row then some (bits / row) else none

/-- The checks of the accumulator tile: it is legal, aligned, and VSTART is 0 (09 R305). -/
def Act.tile (d : VReg) : Act Nat := do
  let h := (← get).hart
  match h.tileRows with
  | none => Act.trap .illegal
  | some rows => if h.groupOk d h.ew1 ∧ h.vstart = 0 then return rows else Act.trap .illegal

/-- The accumulator operand (09 R305). -/
def Hart.accOpnd (h : Hart) (d : VReg) (want : List (BitVec 6)) : Opnd := h.opnd d h.ew1 want

/-- The tile with rows `lo` to `hi` − 1 performed in the active columns; every other element keeps its value (09 R305). -/
def Hart.tileLoop (h : Hart) (w old rows lo hi : Nat) (op : Nat → Nat → Nat → Nat × Flags) : Nat × Flags :=
  let vl := h.vl.toNat
  let rs := (List.range (rows * vl)).map fun e =>
    if lo ≤ e / vl ∧ e / vl < hi ∧ h.guard (e % vl) then op (e / vl) (e % vl) (elem w old e) else (elem w old e, {})
  (assemble w (rs.map Prod.fst) + old / 2 ^ (w * (rows * vl)) * 2 ^ (w * (rows * vl)), allFlags rs)

/-- The first row that a matrix word does not perform: `last` where pre-emption stops it there, else the row after the tile's last
(09 R310, R314). -/
def stopRow (rows : Nat) (last : Option Nat) : Nat := min rows (last.getD rows)

/-- The rows that a matrix word of the current hart has left, before each of which pre-emption may stop it (09 R310, R314). -/
def Hart.stopRows (h : Hart) : List Nat := (List.range (h.tileRows.getD 0)).drop h.mstart.toNat

/-- MZERO: zero in every active element of the rows from MSTART on (09 R308). -/
def Act.mzero (d : VReg) (last : Option Nat) : Act Unit := do
  let rows ← Act.tile d
  let od := (← get).hart.accOpnd d []
  Act.openStreams [] [od]
  let h := (← get).hart
  let lo := h.mstart.toNat
  let hi := stopRow rows last
  if lo < hi then
    Act.writeVec od (h.tileLoop od.w (h.bitsOfOpnd od) rows lo hi fun _ _ _ => (0, {})).1 0
      (if lo = 0 then h.activeList else [])
  else pure ()

/-- MZERO's effect (09 R308). -/
def effMzero (d : VReg) : State → Eff := laneGoverned Hart.anyGuarded (Act.mzero d none)

/-- MZERO on a hart (09 R308). -/
def execMzero (d : BitVec 5) (s : State) : Host.Outcome State Fault Refusal := runQueued (wordOf (.mzero d)) (effMzero d) s

/-! ### Steps (02 R89, R90) -/

/-- All flags of a list. -/
def joinFlags (fs : List Flags) : Flags := fs.foldl Flags.or {}

/-- The exact sum of an accumulator and the products of a step, with the sign of a zero sum (02 R89, R90). -/
def exactSum (rm : RM) (ts : List FVal) : FVal × Flags :=
  let p := ts.any (· == .inf false)
  let n := ts.any (· == .inf true)
  if (p && n) || ts.any FVal.isNan then (.nan false, { nv := p && n })
  else if p then (.inf false, {})
  else if n then (.inf true, {})
  else
    let (v, e) := ts.foldl (fun (x : Int × Int) t =>
      match t with
      | .fin s m f => if m = 0 then x else sumDyadic x.1 x.2 (signed s m) f
      | _ => x) (0, 0)
    if v = 0 then (.fin (if ts.all FVal.neg then true else if ts.any FVal.neg then rm = .rdn else false) 0 0, {})
    else (.fin (v < 0) v.natAbs e, {})

/-- The sum of integer values. -/
def intSum (ts : List FVal) : Int :=
  ts.foldl (fun a t =>
    match t with
    | .fin s m _ => a + signed s m
    | _ => a) 0

/-- One step of one accumulator element; `extra` is an armed perturbation (02 R89, R90; 09 R319). -/
def accStep (h : Hart) (acc c : Nat) (as bs extra : List FVal) : Nat × Flags :=
  let ps := List.zipWith FVal.mul as bs
  let ts := ps.map Prod.fst ++ extra
  match fpOfCode acc with
  | none =>
    let v := toS 32 c + intSum ts
    if h.sat then saturate true 32 v else (ofS 32 v, {})
  | some f =>
    let x := f.unpack h.ftz c
    let (v, g) := exactSum h.rm (x :: ts)
    let (w, k) := f.round (h.fenv false) v
    (w, joinFlags ({ nv := x.isSig } :: g :: k :: ps.map Prod.snd))

/-- The steps of one accumulator element in ascending order, one rounding each (09 R309, R313). -/
def accSteps (h : Hart) (acc k : Nat) : Nat → Nat → List FVal → List FVal → List FVal → Nat × Flags
  | 0, c, _, _, _ => (c, {})
  | n + 1, c, as, bs, extra =>
    let (c, f) := accStep h acc c (as.take k) (bs.take k) extra
    let (c, g) := accSteps h acc k n c (as.drop k) (bs.drop k) []
    (c, f.or g)

/-- The value of an arming in the accumulator format (09 R319). -/
def Arming.term (a : Arming) (h : Hart) (acc : Nat) : FVal :=
  codeVal h.ftz acc (a.value.toNat % 2 ^ codeBits acc)

/-- The arming that an element performed by rows `lo` to `hi` − 1 consumes with effect (09 R319). -/
def Hart.armed (h : Hart) (lo hi : Nat) : Option Arming :=
  h.arming.filter fun a => decide (lo ≤ a.row ∧ a.row < hi ∧ a.col < h.vl.toNat) && h.guard a.col

/-- The record of a perturbation that a check catches, whose retry runs without it (15 R412). The number of the matrix unit is
a free value (log 30). -/
def State.caught (s : State) (reg : Nat) (a : Arming) : State :=
  let h := s.hart
  let info : McInfo := { code := 0x01, unit := h.num % 4, master := h.master, ctx := h.ctxid.toNat, inj := true }
  if a.matches_ = false then
    ((s.report h.bank { info with synd := BitVec.ofNat 64 (Config.freeValue 1 s.ticks % 16) }).1).count
      (0x2000 + 64 * h.core + 8)
  else if h.prot then
    ((s.report h.bank { info with code := 0x03, synd := BitVec.ofNat 64 reg }).1).count (0x2000 + 64 * h.core + 16)
  else s

/-- Rows MSTART to `hi` − 1 of a product: `as` are the rows of A from MSTART on, `bs` the columns of B (09 R309, R313, R319;
15 R412). -/
def Act.product (d : Opnd) (acc k steps rows hi : Nat) (as bs : List (List FVal)) : Act Unit := do
  let h := (← get).hart
  let lo := h.mstart.toNat
  let hit := h.armed lo hi
  let extra := fun (i j : Nat) =>
    match hit with
    | some a => if a.matches_ && !h.prot && a.row == i && a.col == j then [a.term h acc] else []
    | none => []
  if lo < hi then
    let (v, f) := h.tileLoop d.w (h.bitsOfOpnd d) rows lo hi fun i j c =>
      accSteps h acc k steps c (as.getD (i - lo) []) (bs.getD j []) (extra i j)
    Act.modifyHart fun h => ((h.writeRegs d.reg v d.regs).setTags d.reg (BitVec.ofNat 6 acc) d.regs).raise f
  match hit with
  | some a => modify fun s => s.caught (d.reg + (a.row * h.vl.toNat + a.col) * d.w / h.regBits) a
  | none => pure ()
  Act.modifyHart fun h => { h with arming := none }

/-! ### MMA -/

/-- The smallest grouping, in eighths, that holds an operand (09 R306). -/
def Hart.holding (h : Hart) (bits : Nat) : Option Nat := [1, 2, 4, 8, 16, 32, 64].find? fun g => bits ≤ h.groupBits g

/-- The operand of a matrix product at register `r`, if its grouping is legal and it is aligned, with its side register within
v31 (01 R25; 09 R306, R307). -/
def Hart.matOpnd (h : Hart) (r : VReg) (w bits f : Nat) : Option Opnd :=
  match h.holding bits with
  | none => none
  | some g =>
    let o : Opnd := ⟨r.toNat, max 1 (g / 8), w, []⟩
    if (g ≤ 8 ∨ r.toNat % (g / 8) = 0) ∧ (hasSide f = false ∨ o.side ≤ 31) then some o else none

/-- Two operands share a register; `n` registers more belong to the second. -/
def Opnd.meets (o x : Opnd) (n : Nat) : Bool := decide (o.reg < x.reg + x.regs + n ∧ x.reg < o.reg + o.regs)

/-- The exact values of elements of a register operand, in lists of K: list i has the elements `idx i k` (09 R306, R309); none
where a list has no entry for one. -/
def valuesOf (h : Hart) (f : Nat) (x : Scaling) (g : Option Grout) (ex : Nat → Nat) (k : Nat) (idx : Nat → Nat → Nat)
    (is : List Nat) : Option (List (List FVal)) :=
  is.mapM fun i => (List.range k).mapM fun m =>
    let e := idx i m
    exactElem h.ftz f g (x.at e) (x.tbase + e) (ex e)

/-- The list of an operand, if it is grout-bound. -/
def Act.listOf (x : Scaling) : Act (Option Grout) := do
  match x.list with
  | none => return none
  | some a => return some (← Act.groutList a)

/-- Values found, or GROUT_OVERFLOW of the operand's list (02 R85). -/
def Act.found {α : Type} (x : Scaling) : Option α → Act α
  | some v => pure v
  | none => Act.trap (.groutOverflow (x.list.getD 0))

/-- B's group of an MMA whose tag is not of width EW2: 256 × VL bits, as every row has it. Its FORMAT follows what its group and the
accumulator's make ILLEGAL or STREAM (09 R304, R306; 01 R53). Its side register and A are not checked, since no row is selected
(DESIGN CHOICE, log 72). -/
def Act.badWidth (od : Opnd) (b : VReg) (tb : BitVec 6) : Act Unit := do
  let h := (← get).hart
  match h.matOpnd b h.ew2 (256 * h.vl.toNat) 0 with
  | none => Act.trap .illegal
  | some ob =>
    let cause := Act.trap (.format tb (h.fpTag h.ew2) b.toNat)
    Act.legal (!od.meets ob 0) false
    Act.unless cause (Act.openStreams [ob, od] [od])
    cause

/-- MMA: one step of the tile with A and B in registers (09 R304 to R309). Where several operands are of a wrong format, B's width comes
first, then A's format, the accumulator, A's side register and B's; and RAW with GB set is the RAW of R304 whose elements may be
escaped, at the narrow widths (DESIGN CHOICE, log 72: R40, R43 and R53 settle neither). -/
def Act.mma (d a b : VReg) (last : Option Nat) : Act Unit := do
  let rows ← Act.tile d
  let h := (← get).hart
  let ta := h.srcTag a.toNat
  let tb := h.srcTag b.toNat
  let ca := (fmtOnly ta).toNat
  let cb := (fmtOnly tb).toNat
  let fb := if cb = 0 then (h.fpTag h.ew2).toNat else cb
  if cb ≠ 0 ∧ codeBits cb ≠ h.ew2 then Act.badWidth (h.accOpnd d []) b tb
  else
    match matRow h.ew1 fb false with
    | none => Act.trap .illegal
    | some row =>
      let int := row.acc = 3
      let wa := if h.ew2 = 4 ∧ (ca = 1 ∨ ca = 12 ∨ ca = 13) then 8 else h.ew2
      let wantA := if int then intTag wa else h.fpTag wa
      let fa := if ca = 0 then wantA.toNat else ca
      let od := h.accOpnd d [BitVec.ofNat 6 row.acc]
      match h.matOpnd a wa (rows * row.k * wa) fa, h.matOpnd b h.ew2 (row.k * h.ew2 * h.vl.toNat) fb with
      | some oa, some ob =>
        let sa := (hasSide fa).toNat
        let sb := (hasSide fb).toNat
        Act.legal (!od.meets oa sa && !od.meets ob sb) (!int)
        let formats := do
          Act.require (row.a.contains fa) (.format ta wantA oa.reg)
          Act.checkSrcTags [od]
          let xa ← Act.sideUse oa fa int wantA none
          return (xa, ← Act.sideUse ob fb int (h.fpTag h.ew2) none)
        Act.unless (do let _ ← formats) (Act.openStreams [oa, ob, od] [od])
        let (xa, xb) ← formats
        let ga ← Act.listOf xa
        let gb ← Act.listOf xb
        let h := (← get).hart
        let lo := h.mstart.toNat
        let vl := h.vl.toNat
        let as ← Act.found xa (valuesOf h fa xa ga (h.elems oa) row.k (fun i k => i * row.k + k)
          ((List.range rows).drop lo))
        let bs ← Act.found xb (((List.range vl).mapM fun j =>
          if h.guard j then (valuesOf h fb xb gb (h.elems ob) row.k (fun j k => k * vl + j) [j]).map List.flatten
          else some []))
        Act.product od row.acc row.k 1 rows (stopRow rows last) as bs
      | _, _ => Act.trap .illegal

/-- MMA's effect (09 R309). -/
def effMma (d a b : VReg) : State → Eff := laneGoverned Hart.anyGuarded (Act.mma d a b none)

/-- MMA on a hart (09 R309). -/
def execMma (d a b : BitVec 5) (s : State) : Host.Outcome State Fault Refusal := runQueued (wordOf (.mma d a b)) (effMma d a b) s

/-! ### MMAM -/

/-- A matrix operand descriptor (09 R311). -/
structure MatDesc where
  base : Word
  rstride : Word
  scalea : Word
  sstride : Word
  grouta : Word
  ktot : Nat
  tbase : Nat
  fmt : Nat
  scaled : Bool
  g128 : Bool
  zero : Bool
  deriving DecidableEq, Repr

/-- A descriptor from its 64 bytes. -/
def MatDesc.ofNat (w : Nat) : MatDesc where
  base := BitVec.ofNat 64 (bitsOf w 0 64)
  rstride := BitVec.ofNat 64 (bitsOf w 64 64)
  scalea := BitVec.ofNat 64 (bitsOf w 128 64)
  sstride := BitVec.ofNat 64 (bitsOf w 192 64)
  grouta := BitVec.ofNat 64 (bitsOf w 256 64)
  ktot := bitsOf w 320 32
  tbase := bitsOf w 352 32
  fmt := bitsOf w 384 8
  scaled := w.testBit 392
  g128 := w.testBit 393
  zero := bitsOf w 394 118 == 0

/-- The checks of one descriptor (09 R311). -/
def MatDesc.ok (x : MatDesc) : Bool :=
  x.zero && [1, 5, 8, 9, 10, 11, 12, 13, 14, 15, 24].contains x.fmt
    && decide (1 ≤ x.ktot ∧ x.ktot ≤ 65536 ∧ x.tbase ≤ 65535)
    && (if [14, 15, 24].contains x.fmt then x.scaled else [12, 13].contains x.fmt || !x.scaled)
    && (!x.g128 || [15, 24].contains x.fmt)
    && (x.grouta == 0 || [12, 13, 14, 15, 24].contains x.fmt)
    && (x.fmt != 24 || (x.base.toNat % 8 == 0 && x.rstride.toNat % 8 == 0))

/-- Elements that share a scale byte. -/
def MatDesc.bl (x : MatDesc) : Nat := if x.g128 then 128 else 32

/-- The accesses of row r: its elements, and its scale bytes (09 R312). -/
def MatDesc.reads (x : MatDesc) (r : Nat) : List (Word × Nat) :=
  let n := if x.fmt = 24 then (x.ktot + 20) / 21 * 8 else (x.ktot * codeBits x.fmt + 7) / 8
  (x.base + BitVec.ofNat 64 r * x.rstride, n)
    :: (if x.scaled then [(x.scalea + BitVec.ofNat 64 r * x.sstride, (x.ktot + x.bl - 1) / x.bl)] else [])

/-- Element k of a row's bytes (02 R61, R73). -/
def MatDesc.code (x : MatDesc) (row k : Nat) : Nat :=
  if x.fmt = 24 then bitsOf row (64 * (k / 21) + 3 * (k % 21)) 3 else bitsOf row (codeBits x.fmt * k) (codeBits x.fmt)

/-- The exact values of row r from the bytes of its accesses (09 R312); none where the list has no entry for one. -/
def MatDesc.values (x : MatDesc) (ftz : Bool) (g : Option Grout) (r : Nat) (bytes : List Nat) : Option (List FVal) :=
  (List.range x.ktot).mapM fun k =>
    exactElem ftz x.fmt g (if x.scaled then some (bitsOf (bytes.getD 1 0) (8 * (k / x.bl)) 8) else none)
      (x.tbase + r * x.ktot + k) (x.code (bytes.getD 0 0) k)

/-- The fault of a row that is taken, of two: the one whose cause ranks first (01 R53), and of one rank the lower by XTVAL
(09 R314; log 59). -/
def lowerFault (a b : Option (Cause × State)) : Option (Cause × State) :=
  match a, b with
  | some x, some y =>
    some (if y.1.rank < x.1.rank ∨ (y.1.rank = x.1.rank ∧ y.1.xtval 0 0 0 < x.1.xtval 0 0 0) then y else x)
  | some x, none => some x
  | none, y => y

/-- How the checks of the bytes that a row needs end: the lowest fault, a wait, or the parts of each access. -/
def State.rowChecks (s : State) : List (Word × Nat) → Option (Cause × State) × Option (List Nat) × List (List Part)
  | [] => (none, none, [])
  | (va, n) :: rs =>
    let (f, w, ps) := s.rowChecks rs
    match s.check s.hart.env s.hart.num .load va n with
    | .ok p => (f, w, p :: ps)
    | .wait on => (f, some on, [])
    | .trap c t => (lowerFault (some (c, t)) f, w, [])

/-- The checks of rows in ascending order (09 R314). -/
def State.planRows (s : State) : List (Nat × List (Word × Nat)) → Plan
  | [] => .ok []
  | (i, rs) :: es =>
    match s.rowChecks rs with
    | (some (c, t), _, _) => .fault [] i c t
    | (none, some on, _) => .wait on
    | (none, none, ps) =>
      match s.planRows es with
      | .ok xs => .ok ((i, ps) :: xs)
      | .fault xs j c t => .fault ((i, ps) :: xs) j c t
      | .wait on => .wait on

/-- The lowest poisoned byte of accesses that can be read (01 R53). -/
def State.poisonIn (s : State) : List (Word × Nat) → State × Option Word
  | [] => (s, none)
  | (va, n) :: rs =>
    let (s, bad) :=
      match s.check s.hart.env s.hart.num .load va n with
      | .ok ps => let (s, _, bad) := s.readParts ps; (s, bad)
      | _ => (s, none)
    let (s, bad') := s.poisonIn rs
    (s, lowest bad bad')

/-- The bytes of rows: of all of them, or of those before a faulting one with its cause. Poison in a row that is reached
squashes the whole instruction (09 R314, 01 R53). -/
def Act.readRows (es : List (Nat × List (Word × Nat))) : Act (List (Nat × List Nat) × Option (Nat × Cause)) := do
  let s ← get
  let take := fun (t : State) (xs : List (Nat × List (List Part))) (last : List (Word × Nat))
      (stop : Option (Nat × Cause)) => do
    let (t, vs, bad) := t.readElems xs
    let (t, bad') := t.poisonIn last
    match lowest bad bad' with
    | some va => let (c, t) := t.consume va t.convoy; set t; Act.trap c
    | none => set t; return (vs, stop)
  match s.planRows es with
  | .ok xs => take s xs [] none
  | .wait on => throw (.wait on)
  | .fault xs i c t => take t xs ((es.lookup i).getD []) (some (i, c))

/-- The accesses of a grout list: its header, and its entries where the header can be read and is well formed. -/
def State.listReads (s : State) (a : Word) : List (Word × Nat) :=
  if a = 0 ∨ a.toNat % 8 ≠ 0 then []
  else
    let n :=
      match s.check s.hart.env s.hart.num .load a 8 with
      | .ok ps =>
        match Grout.ofHeader a (leNat (s.readParts ps).2.1) with
        | some g => g.count
        | none => 0
      | _ => 0
    (a, 8) :: (if n = 0 then [] else [(plus a 8, 8 * n)])

/-- The list of a descriptor from the bytes of `listReads` (02 R85). -/
def Act.listFrom (a : Word) (bytes : List Nat) : Act (Option Grout) := do
  if a = 0 then return none
  else if a.toNat % 8 ≠ 0 then Act.trap (.groutOverflow a)
  else
    match (Grout.ofHeader a (bytes.getD 0 0)).bind fun g => g.withEntries (bytes.getD 1 0) with
    | none => Act.trap (.groutOverflow a)
    | some g => return some g

/-- Lists from the front of a list while each is present, and the number of the first that is not. -/
def whilePresent {α : Type} : List (Option α) → List α
  | some x :: xs => x :: whilePresent xs
  | _ => []

/-- The active columns in ascending order. -/
def Hart.columns (h : Hart) : List Nat := (List.range h.vl.toNat).filter h.guard

/-- The accesses of row `lo`, which are also those that every row needs: the active columns of B and the lists. -/
def State.firstReads (s : State) (x y : MatDesc) (lo : Nat) : List (Word × Nat) :=
  x.reads lo ++ s.hart.columns.flatMap y.reads ++ s.listReads x.grouta ++ s.listReads y.grouta

/-- The product of memory operands, rows from MSTART on, to `last` where pre-emption stops it there (09 R313, R314). -/
def Act.productMem (od : Opnd) (row : MatRow) (rows : Nat) (x y : MatDesc) (last : Option Nat) : Act Unit := do
  let s ← get
  let h := s.hart
  let lo := h.mstart.toNat
  let (vs, stop) ← Act.readRows ((lo, s.firstReads x y lo)
    :: ((List.range rows).drop (lo + 1)).map fun i => (i, x.reads i))
  match vs with
  | [] => Act.trap ((stop.map Prod.snd).getD .illegal)
  | (_, first) :: rest =>
    let na := (x.reads 0).length
    let nb := (y.reads 0).length
    let cols := h.columns
    let lists := first.drop (na + nb * cols.length)
    let ga ← Act.listFrom x.grouta lists
    let gb ← Act.listFrom y.grouta (lists.drop (s.listReads x.grouta).length)
    let bs ← Act.found ⟨none, 0, some y.grouta, 0⟩ ((List.range h.vl.toNat).mapM fun j =>
      if h.guard j then y.values h.ftz gb j ((first.drop (na + nb * cols.idxOf j)).take nb) else some [])
    let as := whilePresent (((lo, first.take na) :: rest).map fun (i, bytes) => x.values h.ftz ga i bytes)
    let hi := lo + as.length
    Act.product od row.acc row.k (x.ktot / row.k) rows (min hi (stopRow rows last)) as bs
    if hi < stopRow rows last then
      let c := match stop with
        | some (i, c) => if i = hi then c else .groutOverflow x.grouta
        | none => .groutOverflow x.grouta
      Act.modifyHart fun h => { h with mstart := BitVec.ofNat 9 hi }
      throw (.keep c)
    else pure ()

/-- A matrix operand descriptor at a 64-byte-aligned address (09 R311). -/
def Act.matDesc (va : Word) : Act MatDesc := do
  return MatDesc.ofNat (← Act.load va 64)

/-- The descriptor at an address, if it is aligned and can be read. -/
def Act.peekDesc (va : Word) : Act (Option MatDesc) :=
  if va.toNat % 64 = 0 then Act.peek (Act.matDesc va) else pure none

/-- The alignment of both descriptors, A's first, before either is read (01 R53; 09 R311; log 59). -/
def Act.descAligned (va vb : Word) : Act Unit := do
  Act.require (va.toNat % 64 = 0) (.misalign va)
  Act.require (vb.toNat % 64 = 0) (.misalign vb)

/-- Both descriptors; of two that cannot be read, the fault that ranks first (01 R53). -/
def Act.descs (va vb : Word) : Act (MatDesc × MatDesc) := do
  let x ← Act.unless (do let _ ← Act.matDesc vb) (Act.matDesc va)
  return (x, ← Act.matDesc vb)

/-- What comes before a fault of a descriptor (01 R53): what the other descriptor and MODE make ILLEGAL, then STREAM and FORMAT of
the accumulator, which any row of EW1 may accept while none is selected (01 R43). -/
def Act.beforeDescs (d : VReg) (va vb : Word) : Act Unit := do
  let h := (← get).hart
  let x ← Act.peekDesc va
  let y ← Act.peekDesc vb
  let row := y.map fun y => matRow h.ew1 y.fmt true
  Act.legal (x.all MatDesc.ok && y.all MatDesc.ok && row.all Option.isSome)
    (match row with | some (some r) => r.acc ≠ 3 | _ => h.ew1 = 64)
  let any := BitVec.ofNat 6 (h.fpTag h.ew1).toNat :: (if h.ew1 = 32 then [3] else [])
  let od := h.accOpnd d (match row with | some (some r) => [BitVec.ofNat 6 r.acc] | _ => any)
  Act.ready [od] [od] [od]

/-- MMAM: every step of the tile with A and B in memory (09 R311 to R314). -/
def Act.mmam (d : VReg) (a b : SReg) (last : Option Nat) : Act Unit := do
  let rows ← Act.tile d
  let h := (← get).hart
  Act.require (h.ew1 = 32 ∨ h.ew1 = 64) .illegal
  let early := Act.beforeDescs d (h.readS a) (h.readS b)
  Act.unless early (Act.descAligned (h.readS a) (h.readS b))
  let (x, y) ← Act.unless early (Act.descs (h.readS a) (h.readS b))
  match matRow h.ew1 y.fmt true with
  | none => Act.trap .illegal
  | some row =>
    Act.legal (x.ok && y.ok && x.ktot == y.ktot && x.ktot % row.k == 0 && row.a.contains x.fmt) (row.acc ≠ 3)
    let od := h.accOpnd d [BitVec.ofNat 6 row.acc]
    Act.ready [od] [od] [od]
    if h.mstart.toNat < rows then Act.productMem od row rows x y last
    else Act.modifyHart fun h => { h with arming := none }

/-- MMAM's effect (09 R313). -/
def effMmam (d : VReg) (a b : SReg) : State → Eff := laneGoverned Hart.anyGuarded (Act.mmam d a b none)

/-- MMAM on a hart (09 R313). -/
def execMmam (d a b : BitVec 5) (s : State) : Host.Outcome State Fault Refusal := runQueued (wordOf (.mmam d a b)) (effMmam d a b) s

/-! ### MDRAIN -/

/-- The output formats of an accumulator format (09 R316). -/
def drainFormats (acc : Nat) : List Nat :=
  if acc = 9 then [0, 9, 10, 11, 12, 13] else if acc = 8 then [0, 8, 9] else if acc = 3 then [0, 3, 2, 1] else []

/-- The drained value of an accumulator element (09 R316). -/
def drainElem (h : Hart) (acc f c : Nat) : Nat × Flags :=
  if f = 0 then (c, {})
  else
    match fpOfCode acc, fpOfCode f with
    | some g, some k =>
      let v := g.unpack h.ftz c
      k.deliver h h.sat (v, { nv := v.isSig })
    | _, _ => if h.sat then saturate true (codeBits f) (toS 32 c) else (ofS (codeBits f) (toS 32 c), {})

/-- The magnitude of a drained element, if it takes part in the maximum word (09 R317). -/
def magnitude (acc c : Nat) : Option Nat :=
  match fpOfCode acc with
  | none => some (toS 32 c).natAbs
  | some g => if (g.unpack false c).isNan then none else some (c % 2 ^ (g.bits - 1))

/-- The largest of the magnitudes. -/
def largestOf (xs : List (Option Nat)) : Option Nat :=
  xs.foldl (fun b x =>
    match b, x with
    | some m, some n => some (max m n)
    | none, x => x
    | b, none => b) none

/-- The merge into the maximum word (09 R317). -/
def mergeMax (h : Hart) (acc best old : Nat) : Nat :=
  match fpOfCode acc with
  | none => max old best
  | some g => (g.minmax h.ftz true old best).1

/-- The rows of an MDRAIN to memory, then the merge into the word at `m`, which is a release at device scope; a fault of row i, or
a stop by pre-emption before it, leaves the rows below it stored and merged (09 R316 to R318). The word's access is checked before
any row is stored (log 31). -/
def Act.drain (od : Opnd) (acc f rows : Nat) (base stride : Word) (m : Option Word) (last : Option Nat) : Act Unit := do
  let s ← get
  let h := s.hart
  let lo := h.mstart.toNat
  let vl := h.vl.toNat
  let ex := h.elems od
  let n := (if f = 0 then od.w else codeBits f) / 8
  let addr := fun (i j : Nat) => base + BitVec.ofNat 64 i * stride + BitVec.ofNat 64 (j * n)
  let wide := od.w / 8
  let plan := s.plan .store n (((List.range (stopRow rows last)).drop lo).map fun i => (i, h.columns.map (addr i)))
  let (xs, stop) ← match plan with
    | .ok xs => pure (xs, none)
    | .wait on => throw (.wait on)
    | .fault xs i c t => do set t; pure (xs, some (i, c))
  let elems := xs.flatMap fun (i, _) => h.columns.map fun j => ex (i * vl + j)
  let merge := match m with
    | none => none
    | some a => (largestOf (elems.map (magnitude acc))).map fun b => (a, b)
  match merge with
  | none => pure ()
  | some (a, _) =>
    let t ← get
    if t.releaseReady 4 = false then throw .release
    match t.check h.env h.num .atomic a wide with
    | .trap c t => do set t; Act.trap c
    | .wait on => throw (.wait on)
    | .ok ps =>
      match t.readNat ps t.convoy with
      | .trap c t => do set t; Act.trap c
      | _ => pure ()
  modify fun t => t.storeAll (8 * n) xs fun i => h.columns.map fun j => (drainElem h acc f (ex (i * vl + j))).1
  match merge with
  | none => pure ()
  | some (a, b) => let _ ← Act.got fun t => t.atomicN a wide (fun old => some (mergeMax h acc b old)) t.convoy
  Act.modifyHart fun k => k.raise (joinFlags (elems.map fun c => (drainElem h acc f c).2))
  match stop with
  | none => pure ()
  | some (i, c) =>
    Act.modifyHart fun k => { k with mstart := BitVec.ofNat 9 i }
    throw (.keep c)

/-- MDRAIN: the rows of the tile to memory with conversion (09 R316 to R318). -/
def Act.mdrain (d : VReg) (a b : SReg) (f : BitVec 6) (m : SReg) (last : Option Nat) : Act Unit := do
  let rows ← Act.tile d
  let h := (← get).hart
  let t := h.srcTag d.toNat
  let fp := (h.fpTag h.ew1).toNat
  let acc := if t = 3 ∧ h.ew1 = 32 then 3 else fp
  Act.legal ((drainFormats acc).contains f.toNat) (acc ≠ 3 ∧ f ≠ 0)
  let od := h.accOpnd d [BitVec.ofNat 6 acc]
  Act.ready [od] [] [od]
  let word := if m = 0 then none else some (h.readS m)
  match word with
  | none => pure ()
  | some w => Act.require (w.toNat % (h.ew1 / 8) = 0) (.misalign w)
  Act.drain od acc f.toNat rows (h.readS a) (h.readS b) word last

/-- MDRAIN's effect (09 R316). -/
def effMdrain (d : VReg) (a b : SReg) (f : BitVec 6) (m : SReg) : State → Eff :=
  laneGoverned Hart.anyGuarded (Act.mdrain d a b f m none)

/-- MDRAIN on a hart (09 R316). -/
def execMdrain (d a b : BitVec 5) (f : BitVec 6) (m : BitVec 5) (s : State) : Host.Outcome State Fault Refusal :=
  runQueued (wordOf (.mdrain d a b f m)) (effMdrain d a b f m) s

/-! ### MPERT -/

/-- MPERT: arms a perturbation of the hart's next product (09 R319, 04 R162). -/
def effMpert (a b : SReg) : State → Eff := Act.effect do
  let h := (← get).hart
  let w := h.readS a
  if w &&& 0xFFFFFFFF7F00FE00 ≠ 0 then Act.trap .illegal
  else if h.inX = false ∨ h.ctxcfg.getLsbD 2 = false then Act.trap .priv
  else Act.modifyHart fun h =>
    { h with arming := some ⟨(w.extractLsb' 0 9).toNat, (w.extractLsb' 16 8).toNat, w.getLsbD 31, h.readS b⟩ }

/-- MPERT on a hart (09 R319). -/
def execMpert (a b : BitVec 5) (s : State) : Host.Outcome State Fault Refusal := runQueued (wordOf (.mpert a b)) (effMpert a b) s

end Sys2Proof.Machine
end

