-- ==== Sys2Proof/Machine/Narrow.lean ====
section
/-! DEFINITION. The narrow-format vector instructions, major 0x19: VQUANT, VDEQ, VSCALE (02 R86 to R88; 09 R320 to R326). -/

namespace Sys2Proof.Machine

/-! ### Descriptors (09 R320) -/

/-- A narrow-format descriptor. -/
structure NarrowDesc where
  grouta : Word
  thresh : Nat
  tbase : Nat
  dfmt : Nat
  g128 : Bool
  neg : Bool
  zero : Bool
  deriving DecidableEq, Repr

/-- A descriptor from its 32 bytes. -/
def NarrowDesc.ofNat (w : Nat) : NarrowDesc where
  grouta := BitVec.ofNat 64 (bitsOf w 0 64)
  thresh := bitsOf w 64 64
  tbase := bitsOf w 128 32
  dfmt := bitsOf w 160 8
  g128 := w.testBit 168
  neg := w.testBit 169
  zero := bitsOf w 170 86 == 0

/-- Elements that share a scale byte. -/
def NarrowDesc.bl (x : NarrowDesc) : Nat := if x.g128 then 128 else 32

/-- The checks of VQUANT's descriptor (09 R320, R321). -/
def NarrowDesc.quantOk (x : NarrowDesc) (ew1 vstart : Nat) : Bool :=
  x.zero && !x.neg && decide (x.thresh < 2 ^ 32 ∧ x.tbase ≤ 65535 ∧ 12 ≤ x.dfmt ∧ x.dfmt ≤ 15)
    && (!x.g128 || x.dfmt == 15) && x.tbase % x.bl == 0 && codeBits x.dfmt == ew1 && vstart % x.bl == 0

/-- The checks of VDEQ's descriptor (09 R320). -/
def NarrowDesc.deqOk (x : NarrowDesc) : Bool :=
  x.zero && !x.neg && !x.g128 && x.thresh == 0 && x.dfmt == 0 && decide (x.tbase ≤ 65535)

/-- The checks of VSCALE's descriptor (09 R320). -/
def NarrowDesc.scaleOk (x : NarrowDesc) : Bool :=
  x.zero && x.grouta == 0 && x.thresh == 0 && x.tbase == 0 && x.dfmt == 0

/-- The descriptor at s_b: 32-byte aligned, read as a scalar load, and legal (09 R320). -/
def Act.narrowDesc (b : SReg) (ok : NarrowDesc → Bool) : Act NarrowDesc := do
  let va := (← get).hart.readS b
  Act.require (va.toNat % 32 = 0) (.misalign va)
  let x := NarrowDesc.ofNat (← Act.load va 32)
  Act.require (ok x) .illegal
  return x

/-! ### Quantising a unit (02 R86 to R88) -/

/-- The magnitude of a value. -/
def FVal.abs : FVal → FVal
  | .fin _ m e => .fin false m e
  | .inf _ => .inf false
  | v => v

/-- A value is finite. -/
def FVal.isFin : FVal → Bool
  | .fin .. => true
  | _ => false

/-- The candidates of a block, largest magnitude first, lower index first among equal ones, up to ELECT (02 R86). -/
def electBlock (x : Nat → FVal) (thr : FVal) (n : Nat) (is : List Nat) : List Nat :=
  if thr.isNan then []
  else
    (rank (fun i j => decide ((x j).abs.cmp (x i).abs < 0))
      (is.filter fun i => !(x i).isNan && decide (0 ≤ (x i).abs.cmp thr))).take n

/-- The largest `n` of elected elements, in ascending index (02 R87). -/
def keepLargest (x : Nat → FVal) (n : Nat) (is : List Nat) : List Nat :=
  let best := (rank (fun i j => decide ((x j).abs.cmp (x i).abs < 0)) is).take n
  is.filter best.contains

/-- ⌊log2 of a positive m × 2^e⌋. -/
def floorLog2 (m : Nat) (e : Int) : Int := e + (bitLen m : Int) - 1

/-- The scale exponent of a largest magnitude m × 2^e for a target format (02 R88). -/
def scaleExp (dfmt m : Nat) (e : Int) : Int :=
  let l := floorLog2 m e
  let x :=
    if dfmt = 14 then l - 2 else if dfmt = 12 then l - 8 else if dfmt = 13 then l - 15
    else if 4 * m ≤ 7 * 2 ^ (bitLen m - 1) then l - 2 else l - 1
  (clamp (-127) 127 x).1

/-- The largest of magnitudes that are finite. -/
def largestMag (vs : List FVal) : FVal := vs.foldl (fun b v => if b.cmp v.abs < 0 then v.abs else b) (.fin false 0 0)

/-- The scale code of a unit from its active elements that are not elected (02 R88). -/
def scaleCode (dfmt : Nat) (vs : List FVal) : Nat :=
  if vs.all FVal.isFin = false then 0xFF
  else
    match largestMag vs with
    | .fin _ m e => if m = 0 then 0x7F else (scaleExp dfmt m e + 127).toNat
    | _ => 0x7F

/-- An element that is not elected, under a scale code: its code, and whether the written value differs (02 R88). -/
def quantElem (h : Hart) (dfmt : Nat) (named : Bool) (code : Nat) (v : FVal) : Nat × Flags :=
  if code = 0xFF then (0, { nv := true })
  else
    match v with
    | .fin s m e =>
      let q := e + 127 - (code : Int)
      match fpOfCode dfmt with
      | some f =>
        let c := (f.round ⟨h.rm, h.ftz, true⟩ (.fin s m q)).1
        (if named && c == f.signBit true then 0 else c,
          { nx := (f.unpack false c).cmp (.fin s m q) != 0 })
      | none =>
        let (n, nx) := roundAt h.rm s m q 0
        let (r, cut) := clamp (-7) 7 (signed s n)
        (ofS 4 r, { nx := nx || cut })
    | _ => (0, { nv := true })

/-- What a unit writes: the code of each of its elements, its scale code, its flags and whether it wrote an escape code. -/
structure QUnit where
  codes : List Nat
  scale : Nat
  flags : Flags
  escaped : Bool
  deriving DecidableEq, Repr

/-- The list while VQUANT appends to it: COUNT, the last entry's INDEX where it is known, and CLAMPED (02 R86). -/
structure QList where
  count : Nat
  last : Option Nat
  clamped : Bool
  deriving DecidableEq, Repr

/-- What stays the same through a VQUANT. -/
structure Quant where
  x : Nat → FVal
  dfmt : Nat
  bl : Nat
  tbase : Nat
  thr : FVal
  elect : Nat
  clampPol : Bool
  list : Option Grout

/-- A unit with the elected elements `es` (02 R86, R88). -/
def Quant.unit (q : Quant) (h : Hart) (u : Nat) (es : List Nat) : QUnit :=
  let is := (List.range q.bl).map (· + u * q.bl)
  let plain := is.filter fun i => h.active i && !es.contains i
  let code := scaleCode q.dfmt (plain.map q.x)
  let rs := is.map fun i =>
    if es.contains i then (escapeOf q.dfmt, Flags.none)
    else if h.active i then quantElem h q.dfmt q.list.isSome code (q.x i)
    else (0, Flags.none)
  ⟨rs.map Prod.fst, code, allFlags rs, !es.isEmpty⟩

/-- The checks of stores that are all made or none; of several faults the one that R53 of 01 ranks first, and of one rank the first in
the list: a unit's entries in order, then the header (DESIGN CHOICE, log 72: R323 and R54 say which address of one fault, not of
several). -/
def Act.canStore (xs : List (Word × Nat)) : Act Unit := do
  let s ← get
  let checks := xs.map fun (va, n) => s.check s.hart.env s.hart.num .store va n
  let worst := checks.foldl (fun b c =>
    match b, c with
    | none, .trap c t => some (c, t)
    | some (d, t), .trap c t' => if c.rank < d.rank then some (c, t') else some (d, t)
    | b, _ => b) (none : Option (Cause × State))
  match worst with
  | some (c, t) => do set t; Act.trap c
  | none =>
    match checks.find? Checked.waits with
    | some (.wait on) => throw (.wait on)
    | _ => pure ()

/-- The entries of elected elements in ascending index, with their flags (02 R86). -/
def Quant.entries (q : Quant) (h : Hart) (es : List Nat) : List (Nat × Flags) :=
  es.map fun i =>
    let v := q.x i
    let (w, f) := FFmt.fp32.round (h.fenv false) v
    (q.tbase + i + w * 2 ^ 32, f)

/-- One unit: elections, list entries and codes (02 R86, R87; 09 R322). -/
def Quant.step (q : Quant) (l : QList) (u : Nat) : Act (QList × QUnit) := do
  let h := (← get).hart
  let vl := h.vl.toNat
  match q.list with
  | none => return (l, q.unit h u [])
  | some g =>
    let blocks := (List.range (q.bl / 32)).map fun k => (List.range 32).map (· + u * q.bl + 32 * k)
    let all := blocks.flatMap fun is =>
      let best := electBlock q.x q.thr q.elect (is.filter fun i => decide (i < vl) && h.active i)
      is.filter best.contains
    let full := Act.trap (.groutOverflow g.addr)
    let free := g.cap - l.count
    let clamps := decide (free < all.length)
    if clamps && !q.clampPol then full
    else
      let es := if clamps then keepLargest q.x free all else all
      let l := { l with clamped := l.clamped || clamps }
      let fl : Flags := { grt := clamps }
      match es with
      | [] =>
        let w := { g with count := l.count, clamped := l.clamped }.header
        if clamps then
          Act.canStore [(g.addr, 8)]
          Act.store g.addr 8 w
        let r := q.unit h u []
        return (l, { r with flags := r.flags.or fl })
      | e :: _ =>
        let last ← if l.count = 0 then pure none
          else match l.last with
            | some x => pure (some x)
            | none => pure (some ((← Act.load (plus g.addr (8 * l.count)) 8) % 65536))
        if last.any (fun x => decide (q.tbase + e ≤ x)) || es.any (fun i => decide (g.telem ≤ q.tbase + i)) then full
        else
          let ent := q.entries h es
          let at_ := fun k => plus g.addr (8 + 8 * (l.count + k))
          let count := l.count + es.length
          Act.canStore ((List.range ent.length).map (fun k => (at_ k, 8)) ++ [(g.addr, 8)])
          ent.zipIdx.forM fun ((v, _), k) => Act.store (at_ k) 8 v
          Act.store g.addr 8 { g with count := count, clamped := l.clamped }.header
          let r := q.unit h u es
          return ({ l with count := count, last := (es.getLast?).map (q.tbase + ·) },
            { r with flags := r.flags.or (fl.or (joinFlags (ent.map Prod.snd))) })

/-- Units from `u` on: what they write, and the cause that stops unit `u + length` (09 R323). -/
def Quant.run (q : Quant) : Nat → QList → Nat → Act (List QUnit × Option Cause)
  | 0, _, _ => return ([], none)
  | n + 1, l, u => do
    let r ← tryCatch (do let x ← q.step l u; pure (Except.ok x)) fun e =>
      match e with
      | .trap c => if c.code = 0x17 then throw e else pure (.error c)
      | e => throw e
    match r with
    | .error c => return ([], some c)
    | .ok (l, x) =>
      let (xs, c) ← q.run n l (u + 1)
      return (x :: xs, c)

/-- SCALES with bytes from `u` on replaced; above them old bytes, or zero (09 R322). -/
def spliceScales (old u : Nat) (codes : List Nat) (zeroAbove : Bool) : Nat :=
  let n := u + codes.length
  old % 256 ^ u + assemble 8 codes * 256 ^ u + (if zeroAbove then 0 else old / 256 ^ n * 256 ^ n)

/-- The hart after units `u` on of a VQUANT have been written; `n` is the number of elements below which the destination is
complete, if the instruction stopped there (09 R322, R323). -/
def Hart.quantised (h : Hart) (d : Opnd) (keep : Bool) (x : NarrowDesc) (u : Nat) (rs : List QUnit) (n : Option Nat) : Hart :=
  let op := fun i => (((rs.map QUnit.codes).getD (i / x.bl - u) []).getD (i % x.bl) 0, Flags.none)
  let old := h.bitsOfOpnd d
  let v := match n with
    | none => (h.loop d.w old op).1
    | some n => (h.loopTo d.w old n op).1
  let gb := keep || rs.any QUnit.escaped
  let side := h.side d.side
  let scales := spliceScales side.scales u (rs.map QUnit.scale) (n.isNone && h.tailZero)
  let k := ((h.writeRegs d.reg v d.regs).setTags d.reg (BitVec.ofNat 6 (x.dfmt + 32 * gb.toNat)) d.regs)
  ((k.writeRegs d.side (Side.bits ⟨x.grouta, x.tbase, x.g128, scales⟩ h.prot) 1).setTag d.side tagE8M0).raise
    (joinFlags (rs.map QUnit.flags))

/-- VQUANT: a wide group to a narrow one with scales and elected outliers (09 R321 to R323). -/
def effVquant (d a : VReg) (b : SReg) (s : State) : Eff :=
  laneGoverned Hart.anyActive (do
    let h := (← get).hart
    let oa := h.opnd a h.ew2 [h.fpTag h.ew2]
    let od := h.opnd d h.ew1 []
    Act.legal ((h.ew1 == 8 || h.ew1 == 4) && [16, 32, 64].contains h.ew2 && h.groupOk d h.ew1 && h.groupOk a h.ew2
      && decide (od.side ≤ 31) && !oa.meets od 1 && h.vstart.toNat % 32 == 0) true
    let x ← Act.unless (Act.ready [oa] [od] [oa]) (Act.narrowDesc b fun x => x.quantOk h.ew1 h.vstart.toNat)
    Act.ready [oa] [od] [oa]
    let h := (← get).hart
    match h.writeStream? od with
    | some r => Act.checkAppend r h.activeList
    | none => pure ()
    let g ← if x.grouta = 0 then pure none else do pure (some (← Act.groutHeader x.grouta))
    let ea := h.elems oa
    let q : Quant := {
      x := fun i => (h.fmt h.ew2).unpack h.ftz (ea i), dfmt := x.dfmt, bl := x.bl, tbase := x.tbase
      thr := FFmt.fp32.unpack false x.thresh, elect := h.mode.toNat / 2 ^ 16 % 16, clampPol := h.mode.getLsbD 14, list := g }
    let u := h.vstart.toNat / x.bl
    let n := (h.vl.toNat + x.bl - 1) / x.bl
    let (rs, stop) ← q.run (n - u) ⟨(g.map Grout.count).getD 0, none, (g.map Grout.clamped).getD false⟩ u
    let keep := h.vstart ≠ 0 ∧ h.tag od.reg = BitVec.ofNat 6 (x.dfmt + 32)
    let done := u + rs.length
    let part := stop.map fun _ => done * x.bl
    let k := h.quantised od keep x u rs part
    match h.writeStream? od with
    | some r =>
      let idx := h.activeList.filter fun i => decide (i < done * x.bl)
      Act.append r (idx.map fun i => (i, ((rs.map QUnit.codes).getD (i / x.bl - u) []).getD (i % x.bl) 0))
        (if stop.isSome then 0 else h.vl.toNat)
      Act.modifyHart fun m => { k with streams := m.streams, vregs := k.vregs.setIfInBounds od.reg (h.readV od.reg)
                                       tags := k.tags.setIfInBounds od.reg (h.tag od.reg) }
    | none => Act.modifyHart fun _ => k
    match stop with
    | none => pure ()
    | some c =>
      if rs.isEmpty then Act.trap c
      else
        Act.modifyHart fun m => { m with vstart := BitVec.ofNat 15 (done * x.bl), streams :=
          (match h.writeStream? od with | some _ => m.streams | none => s.hart.streams) }
        throw (.keep c)) s

/-- VQUANT on a hart (09 R321). -/
def execVquant (d a b : BitVec 5) (s : State) : Host.Outcome State Fault Refusal := runQueued (wordOf (.vquant d a b)) (effVquant d a b) s

/-! ### VDEQ and VSCALE -/

/-- VDEQ: a narrow group to a wide one (09 R324). -/
def effVdeq (d a : VReg) (b : SReg) : State → Eff :=
  laneGoverned Hart.anyActive do
    let h := (← get).hart
    let oa := h.opnd a h.ew2 []
    let od := h.opnd d h.ew1 []
    Act.legal ([16, 32, 64].contains h.ew1 && (h.ew2 == 8 || h.ew2 == 4) && h.groupOk d h.ew1 && h.groupOk a h.ew2
      && decide (oa.side ≤ 31)) true
    let want := h.fpTag h.ew2
    let t := h.srcTag oa.reg
    let c := (fmtOnly t).toNat
    let f := if c = 0 then want.toNat else c
    let scaling := fun (given : Option (Word × Nat)) => do
      Act.require (t = 0 ∨ (hasSide c ∧ codeBits c = h.ew2)) (.format t want oa.reg)
      Act.sideUse oa f false want given
    let tags := fun (given : Option (Word × Nat)) => do
      Act.unless (do let _ ← scaling given) (Act.openStreams [oa] [od])
      scaling given
    let x ← Act.unless (do let _ ← tags (some (0, 0))) (Act.narrowDesc b NarrowDesc.deqOk)
    let y ← tags (if x.grouta = 0 then none else some (x.grouta, x.tbase))
    let h := (← get).hart
    let g ← Act.listOf y
    let ea := h.elems oa
    let value := fun i => exactElem h.ftz f g (y.at i) (y.tbase + i) (ea i)
    Act.require (h.activeList.all fun i => (value i).isSome) (.groutOverflow (y.list.getD 0))
    let (v, fl) := h.loop od.w (h.bitsOfOpnd od) fun i =>
      let e := (value i).getD (.nan false)
      (h.fmt h.ew1).deliver h h.sat (e, { nv := e.isSig })
    Act.writeVec od v (h.fpTag h.ew1) h.activeList
    Act.modifyHart fun h => h.raise fl

/-- VDEQ on a hart (09 R324). -/
def execVdeq (d a b : BitVec 5) (s : State) : Host.Outcome State Fault Refusal := runQueued (wordOf (.vdeq d a b)) (effVdeq d a b) s

/-- VSCALE: a wide group times powers of two (09 R325). -/
def effVscale (d a : VReg) (b : SReg) : State → Eff :=
  laneGoverned Hart.anyActive do
    let h := (← get).hart
    let oa := h.opnd a h.ew1 [h.fpTag h.ew1]
    let od := h.opnd d h.ew1 []
    Act.legal ([16, 32, 64].contains h.ew1 && h.groupOk d h.ew1 && h.groupOk a h.ew1 && decide (oa.side ≤ 31)) true
    let side : Act Unit := do
      Act.checkSrcTags [oa]
      let h := (← get).hart
      Act.require (h.tag oa.side = tagE8M0) (.format (h.tag oa.side) tagE8M0 oa.side)
    let tags : Act Unit := do
      Act.unless side (Act.openStreams [oa] [od])
      side
    let x ← Act.unless tags (Act.narrowDesc b NarrowDesc.scaleOk)
    tags
    let h := (← get).hart
    let ea := h.elems oa
    let scales := (h.side oa.side).scales
    let (v, fl) := h.loop od.w (h.bitsOfOpnd od) fun i =>
      let c := bitsOf scales (8 * (i / x.bl)) 8
      let e := (h.fmt h.ew1).unpack h.ftz (ea i)
      let y := e.scaleBy (if c = 255 then 255 else if x.neg then 254 - c else c)
      (h.fmt h.ew1).deliver h false (y, { nv := e.isSig || y.isSig })
    Act.writeVec od v (h.fpTag h.ew1) h.activeList
    Act.modifyHart fun h => h.raise fl

/-- VSCALE on a hart (09 R325). -/
def execVscale (d a b : BitVec 5) (s : State) : Host.Outcome State Fault Refusal := runQueued (wordOf (.vscale d a b)) (effVscale d a b) s

end Sys2Proof.Machine
end

