-- ==== Sys2Proof/Machine/System.lean ====
section
/-! DEFINITION. CSRs, traps, waiting and the vector configuration: majors 0x0F and 0x39 (01 R27 to R39, R48 to R51; 04 R152,
R157; 05 R193 to R202; 14 R394). -/

namespace Sys2Proof.Machine

/-! ### Configuration -/

/-- A configuration request is supported (01 R33). -/
def configOk (g e2 e1 : Nat) : Bool :=
  e1 < 5 && e2 < 5 && g < 7
    && decide (2 ^ g * ewBits e2 % ewBits e1 = 0 ∧ 1 ≤ 2 ^ g * ewBits e2 / ewBits e1 ∧ 2 ^ g * ewBits e2 / ewBits e1 ≤ 64)

/-- VLMAX of a supported configuration (01 R33). -/
def Hart.vlmaxOf (h : Hart) (g e1 : Nat) : Nat := 8192 * 2 ^ g / 8 / ewBits e1 / (if h.prot then 2 else 1)

/-- VCFG with ILL set, VL and VLMAX 0 (01 R33, R35). -/
def Hart.unconfigure (h : Hart) : Hart := { h with vcfg := 0x8000000000000000, vl := 0, vlmax := 0 }

/-- The request of AVL and the three fields (01 R33). -/
def Hart.configure (h : Hart) (avl g e2 e1 : Nat) : Hart :=
  if configOk g e2 e1 then
    let m := h.vlmaxOf g e1
    { h with vcfg := BitVec.ofNat 64 (e1 + e2 * 8 + g * 64), vlmax := BitVec.ofNat 15 m, vl := BitVec.ofNat 15 (min avl m) }
  else h.unconfigure

/-- A register whose lower half overwrites its upper half (01 R60). -/
def mirrored (v : VWord) : VWord := BitVec.ofNat 8192 (v.toNat % 2 ^ 4096 + v.toNat % 2 ^ 4096 * 2 ^ 4096)

/-- A write to MODE (01 R35): PROT stays set under CTXCFG.PROTREQ; a change of PROT unconfigures, and setting it copies the
lower half of every vector register into its upper half. -/
def Hart.writeMode (h : Hart) (v : Word) : Hart :=
  let new := v &&& modeMask
  let new := if h.prot ∧ h.ctxcfg.getLsbD 0 then new ||| 0x1000 else new
  let h' := { h with mode := new }
  if new.getLsbD 12 = h.prot then h'
  else
    let h' := h'.unconfigure
    if h.prot then h' else { h' with vregs := h'.vregs.map mirrored }

/-- VSETL: the request with AVL from s_a (01 R33, 05 R200). -/
def execVsetl (d a : SReg) (g e f : BitVec 3) (s : State) : Host.Outcome State Fault Refusal :=
  runQueued (wordOf (.vsetl d a g e f)) (fun s =>
    let h := s.hart.configure (s.hart.readS a).toNat g.toNat e.toNat f.toNat
    .done { s with hart := h.writeS d (h.vl.setWidth 64) }) s

/-- VSETLI: the request with an immediate AVL (01 R33, 05 R200). -/
def execVsetli (d : SReg) (v : BitVec 10) (g e f : BitVec 3) (s : State) : Host.Outcome State Fault Refusal :=
  runQueued (wordOf (.vsetli d v g e f)) (fun s =>
    let h := s.hart.configure v.toNat g.toNat e.toNat f.toNat
    .done { s with hart := h.writeS d (h.vl.setWidth 64) }) s

/-- SETMODE: MODE takes the immediate, s_d the old MODE (05 R201). -/
def execSetmode (d : SReg) (l : BitVec 4) (m : BitVec 15) (s : State) : Host.Outcome State Fault Refusal :=
  runQueued (wordOf (.setmode d l m)) (fun s =>
    .done { s with hart := (s.hart.writeMode (l.setWidth 64 <<< 16 ||| m.setWidth 64)).writeS d s.hart.mode }) s

/-- SETMODEV: MODE takes s_a, read before s_d takes the old MODE (04 R157, 05 R201). -/
def execSetmodev (d a : SReg) (s : State) : Host.Outcome State Fault Refusal :=
  runQueued (wordOf (.setmodev d a)) (fun s =>
    .done { s with hart := (s.hart.writeMode (s.hart.readS a)).writeS d s.hart.mode }) s

/-! ### CSRs -/

/-- The eight tags set from VTAGSn. -/
def Hart.writeVtags (h : Hart) (n : Nat) (v : Word) : Hart :=
  (List.range 8).foldl (fun h k => h.setTag (8 * n + k) (v.extractLsb' (8 * k) 6)) h

/-- A CSR number that is implemented (01 R27, R28, R48). -/
def csrExists (n : Nat) : Bool :=
  n ≤ 0x008 || (0x00C ≤ n && n ≤ 0x019) || (0x100 ≤ n && n ≤ 0x105) || (0x110 ≤ n && n ≤ 0x114) || (0x118 ≤ n && n ≤ 0x11B)

/-- The value of an implemented CSR other than CLOCK (01 R27, R39, R48; 14 R394). -/
def State.csr (s : State) (n : Nat) : Word :=
  let h := s.hart
  match n with
  | 0x000 => h.vl.setWidth 64
  | 0x001 => h.vlmax.setWidth 64
  | 0x002 => h.vstart.setWidth 64
  | 0x003 => h.vcfg
  | 0x004 => h.mode
  | 0x005 => h.fflags.setWidth 64
  | 0x006 => h.vcommit
  | 0x007 => h.mstart.setWidth 64
  | 0x008 => h.repidx.setWidth 64
  | 0x00C => BitVec.ofNat 64 (h.vtags 0)
  | 0x00D => BitVec.ofNat 64 (h.vtags 1)
  | 0x00E => BitVec.ofNat 64 (h.vtags 2)
  | 0x00F => BitVec.ofNat 64 (h.vtags 3)
  | 0x010 => BitVec.ofNat 64 (if h.isCtl then h.num - 1152 else h.num % 4)
  | 0x011 => BitVec.ofNat 64 (if h.isCtl then 0 else h.core % 24 + h.core % 24 / 4 * 32)
  | 0x012 => BitVec.ofNat 64 (s.fab.device.toNat * 256 + if h.isCtl then 12 else h.die)
  | 0x013 => h.ctxid.setWidth 64
  | 0x014 => h.blklo
  | 0x015 => h.blkhi
  | 0x016 => BitVec.ofNat 64 h.nodeid
  | 0x017 => h.gen.setWidth 64
  | 0x018 => s.clock
  | 0x019 => h.retired
  | 0x100 => h.xstatus.setWidth 64
  | 0x101 => h.xcause.setWidth 64
  | 0x102 => h.xepc
  | 0x103 => h.xtval
  | 0x104 => h.xvec
  | 0x105 => h.xscratch
  | 0x110 => h.heapbase
  | 0x111 => h.heaplim
  | 0x112 => h.heapoff
  | 0x113 => h.ptroot
  | 0x114 => h.ctxcfg
  | 0x118 => h.atmem
  | 0x119 => h.atscr
  | 0x11A => h.atiod
  | 0x11B => h.atport
  | _ => 0

/-- The hart after a write to a CSR: each field by its access code (00 R6; 01 R27, R30, R34 to R38, R48 to R50). -/
def Hart.writeCsr (h : Hart) (n : Nat) (v : Word) : Hart :=
  match n with
  | 0x002 => { h with vstart := v.setWidth 15 }
  | 0x004 => h.writeMode v
  | 0x005 => { h with fflags := v.setWidth 7 }
  | 0x007 => { h with mstart := v.setWidth 9 }
  | 0x008 => { h with repidx := v.setWidth 6 }
  | 0x00C => h.writeVtags 0 v
  | 0x00D => h.writeVtags 1 v
  | 0x00E => h.writeVtags 2 v
  | 0x00F => h.writeVtags 3 v
  | 0x100 => { h with xstatus := v.extractLsb' 1 2 ++ h.xstatus.extractLsb' 0 1 }
  | 0x101 => { h with xcause := v.setWidth 12 }
  | 0x102 => { h with xepc := v &&& ~~~(3 : Word) }
  | 0x103 => { h with xtval := v }
  | 0x104 => { h with xvec := v &&& ~~~(3 : Word) }
  | 0x105 => { h with xscratch := v }
  | _ => h

/-- Why a CSR instruction cannot name a number: PRIV for 0x100 to 0x1FF in user mode, ILLEGAL where none is implemented
(01 R28, R48; 05 R194). -/
def Hart.csrDenied (h : Hart) (n : Nat) : Option Cause :=
  if 0x100 ≤ n ∧ n ≤ 0x1FF ∧ h.inX = false then some (.privCsr n) else if csrExists n then none else some .illegal

/-- Reading CLOCK samples it; no other CSR read changes anything (01 R29). -/
def State.sampleFor (s : State) (n : Nat) : State := if n = 0x018 then s.tick else s

/-- CSRR: s_d takes the CSR (05 R194). -/
def execCsrr (d : SReg) (n : BitVec 12) (s : State) : Host.Outcome State Fault Refusal :=
  runScalar (wordOf (.csrr d n)) (fun s =>
    match s.hart.csrDenied n.toNat with
    | some c => .trap c s
    | none => let s := s.sampleFor n.toNat; .done (s.setS d (s.csr n.toNat))) s

/-- CSRW: the CSR takes s_a (05 R194). -/
def execCsrw (a : SReg) (n : BitVec 12) (s : State) : Host.Outcome State Fault Refusal :=
  runScalar (wordOf (.csrw a n)) (fun s =>
    match s.hart.csrDenied n.toNat with
    | some c => .trap c s
    | none => .done { s with hart := s.hart.writeCsr n.toNat (s.hart.readS a) }) s

/-- CSRX: s_d takes the CSR, and the CSR the value that s_a held before (05 R194; log 29). -/
def execCsrx (d a : SReg) (n : BitVec 12) (s : State) : Host.Outcome State Fault Refusal :=
  runScalar (wordOf (.csrx d a n)) (fun s =>
    match s.hart.csrDenied n.toNat with
    | some c => .trap c s
    | none =>
      let s := s.sampleFor n.toNat
      .done { s with hart := (s.hart.writeCsr n.toNat (s.hart.readS a)).writeS d (s.csr n.toNat) }) s

/-! ### Traps, waits and the rest of major 0x0F -/

/-- TRAP: takes the trap TRAP with its immediate (05 R195). -/
def execTrap (n : BitVec 12) (s : State) : Host.Outcome State Fault Refusal :=
  runScalar (wordOf (.trap n)) (fun s => .trap (.trap n) s) s

/-- BRK: takes the trap BREAKPOINT with its immediate (05 R195). -/
def execBrk (n : BitVec 12) (s : State) : Host.Outcome State Fault Refusal :=
  runScalar (wordOf (.brk n)) (fun s => .trap (.breakpoint n) s) s

/-- ERET: the return of 01 R57 in supervisor mode, PRIV in user mode (05 R196). -/
def execEret (s : State) : Host.Outcome State Fault Refusal :=
  runScalar (wordOf .eret) (fun s => if s.hart.inX then .jump s.returnFromTrap else .trap .priv s) s

/-- WAITW: waits until the doubleword at s_a differs from s_d, then s_d takes it (05 R197). -/
def execWaitw (d a : SReg) (s : State) : Host.Outcome State Fault Refusal :=
  runScalar (wordOf (.waitw d a)) (fun s =>
    let va := s.hart.readS a
    if va.toNat % 8 ≠ 0 then .trap (.misalign va) s
    else
      match s.loadN va 8 with
      | .ok v t => if BitVec.ofNat 64 v = s.hart.readS d then .wait t else .done (t.setS d (BitVec.ofNat 64 v))
      | .trap c t => .trap c t
      | .wait on => .wait (s.awaits on)) s

/-- YIELD: the hart's next turn goes to another hart of the core; no architectural state changes (05 R198; log 68). -/
def execYield (s : State) : Host.Outcome State Fault Refusal := runScalar (wordOf .yield) (fun s => .done s.yield) s

/-- VSYNC: every older vector instruction has committed in a model that runs instructions in order (05 R199; log 1). In the handler of a
vector word's trap, where VCOMMIT.EMPTY reads 0 until ERET (01 R52; log 65) though no instruction of the queue waits, VSYNC completes
at once (DESIGN CHOICE, log 72: R199's two wordings differ there). -/
def execVsync (s : State) : Host.Outcome State Fault Refusal := runScalar (wordOf .vsync) (fun s => .done s) s

end Sys2Proof.Machine
end

