-- ==== Sys2Proof/Machine/Illegal.lean ====
section
/-! DEFINITION. The fate of a word that no row of the opcode table matches (04 R157 to R162; 01 R33). -/

namespace Sys2Proof.Machine

/-- A lane-governed word that is no instruction: VCFG_ILL, no operation, or ILLEGAL (04 R160, R161). -/
def strayLane (lanes : Hart → Bool) : State → Eff := laneGoverned lanes (Act.trap .illegal)

/-- RGET or RPUT with a field that is not zero: without an active lane ACCESS while REMOTEEN is clear (04 R162). -/
def strayRemote (w : Nat) (s : State) : Eff :=
  if s.hart.ill then .trap .vcfgIll s
  else if s.hart.anyActive then .trap .illegal s
  else if s.hart.ctxcfg.getLsbD 1 then .done { s with hart := s.hart.restart }
  else .trap (.access (s.hart.readS (fA w))) s

/-- The lanes of a lane-governed word by its major and operation code; the elements where the code is not assigned (04 R160; 01 R31; 06 R209, R227; 07 R246). -/
def strayLanes (w : Nat) (h : Hart) : Bool :=
  let op := bitsOf w 5 6
  match w / 67108864 with
  | 0x12 => if op = 4 ∨ op = 5 then indexLanes (fld 3 2 w) (fB w) h else h.anyActive
  | 0x16 => if op < 11 then anyLength h else h.anyActive
  | 0x17 => if 3 ≤ op ∧ op < 7 then h.anyGuarded else h.anyActive
  | 0x24 => if op = 0 then predLanes h else h.anyActive
  | 0x25 => if op = 0 then predLanes h else h.anyActive
  | 0x28 => h.anyGuarded
  | 0x29 => h.anyGuarded
  | 0x2A => h.anyGuarded
  | 0x31 => h.anyGuarded
  | _ => h.anyActive

/-- VWIDEN with a shape that R153 of 04 permits beside the table row's (06 R211). -/
def isWiden (w : Nat) : Bool :=
  decide (w / 67108864 = 0x12 ∧ bitsOf w 5 6 = 6 ∧ bitsOf w 16 5 = 0 ∧ (bitsOf w 3 2 = 1 ∨ bitsOf w 3 2 = 2))

/-- VSETL with bits [13:9] set: an unsupported request (04 R157, 01 R33). -/
def effUnsupported (w : Nat) (s : State) : Eff := .done { s with hart := s.hart.unconfigure.writeS (fD w) 0 }

/-- The effect of a word that decodes to no row of the table, by its class (04 R158 to R162). -/
def effWord (w : IWord) : State → Eff :=
  let n := w.toNat
  let m := majorOf w
  if isWiden n then effVwidenOf (fld 3 2 n) (fD n) (fB n) (fld 0 3 n)
  else if (0x10 ≤ m ∧ m ≤ 0x19) ∨ (0x20 ≤ m ∧ m ≤ 0x25) ∨ (0x28 ≤ m ∧ m ≤ 0x2A) ∨ (m = 0x31 ∧ bitsOf n 5 6 = 1) then
    strayLane (strayLanes n)
  else if m = 0x35 ∧ bitsOf n 5 6 < 2 then strayRemote n
  else if m = 0x39 ∧ bitsOf n 19 2 = 0 then effUnsupported n
  else fun s => .trap .illegal s

end Sys2Proof.Machine
end

