-- ==== Sys2Proof/Machine/Rep.lean ====
section
/-! DEFINITION. The repeat prefix, major 0x38 (01 R44 to R46): the effects of the words it may repeat, and the repetitions. -/

namespace Sys2Proof.Machine

/-- The effect of an instruction of majors 0x10 to 0x2B; any other cannot be repeated (01 R45). -/
def vecEff : Instr → State → Eff
  | .vadd d a b h => effVadd d a b h
  | .vsub d a b h => effVsub d a b h
  | .vrsub d a b h => effVrsub d a b h
  | .vmul d a b h => effVmul d a b h
  | .vmulh d a b h => effVmulh d a b h
  | .vmulhu d a b h => effVmulhu d a b h
  | .vmadd d a b h => effVmadd d a b h
  | .vdiv d a b h => effVdiv d a b h
  | .vdivu d a b h => effVdivu d a b h
  | .vrem d a b h => effVrem d a b h
  | .vmin d a b h => effVmin d a b h
  | .vmax d a b h => effVmax d a b h
  | .vminu d a b h => effVminu d a b h
  | .vmaxu d a b h => effVmaxu d a b h
  | .vand d a b h => effVand d a b h
  | .vor d a b h => effVor d a b h
  | .vxor d a b h => effVxor d a b h
  | .vshl d a b h => effVshl d a b h
  | .vshr d a b h => effVshr d a b h
  | .vsar d a b h => effVsar d a b h
  | .vsadd d a b h => effVsadd d a b h
  | .vsaddu d a b h => effVsaddu d a b h
  | .vssub d a b h => effVssub d a b h
  | .vssubu d a b h => effVssubu d a b h
  | .vabs d a => effVabs d a
  | .vclz d a => effVclz d a
  | .vpopc d a => effVpopc d a
  | .vcmp d a b h c => effVcmp d a b h c
  | .vsel d a b h p => effVsel d a b h p
  | .vmv d b h => effVmv d b h
  | .vid d => effVid d
  | .vext d a b h => effVext d a b h
  | .vins d a b h => effVins d a b h
  | .vwiden d b k => effVwiden d b k
  | .vnshr d a b h k => effVnshr d a b h k
  | .vfadd d a b h => effVfadd d a b h
  | .vfsub d a b h => effVfsub d a b h
  | .vfmul d a b h => effVfmul d a b h
  | .vfma d a b h => effVfma d a b h
  | .vfnma d a b h => effVfnma d a b h
  | .vfms d a b h => effVfms d a b h
  | .vfdiv d a b h => effVfdiv d a b h
  | .vfsqrt d a => effVfsqrt d a
  | .vfmin d a b h => effVfmin d a b h
  | .vfmax d a b h => effVfmax d a b h
  | .vfsgn d a b h k => effVfsgn d a b h k
  | .vfrcp d a => effVfrcp d a
  | .vfrsq d a => effVfrsq d a
  | .vfexp2 d a => effVfexp2 d a
  | .vflog2 d a => effVflog2 d a
  | .vfcvt d a k => effVfcvt d a k
  | .vfclass d a => effVfclass d a
  | .vfcmp d a b h c => effVfcmp d a b h c
  | .vmulm d a b h k => effVmulm d a b h k
  | .vfmam d a b h => effVfmam d a b h
  | .vredsum d a b h => effVredsum d a b h
  | .vredmin d a b h => effVredmin d a b h
  | .vredmax d a b h => effVredmax d a b h
  | .vredminu d a b h => effVredminu d a b h
  | .vredmaxu d a b h => effVredmaxu d a b h
  | .vredand d a b h => effVredand d a b h
  | .vredor d a b h => effVredor d a b h
  | .vredxor d a b h => effVredxor d a b h
  | .vfredsum d a b h => effVfredsum d a b h
  | .vfredmin d a b h => effVfredmin d a b h
  | .vfredmax d a b h => effVfredmax d a b h
  | .vslideup d a b h => effVslideup d a b h
  | .vslidedn d a b h => effVslidedn d a b h
  | .vperm d a b => effVperm d a b
  | .vcompress d a => effVcompress d a
  | .vexpand d a => effVexpand d a
  | .vscan d a k => effVscan d a k
  | .vtopk d a b k => effVtopk d a b k
  | .pand d a b => effPand d a b
  | .por d a b => effPor d a b
  | .pxor d a b => effPxor d a b
  | .pandn d a b => effPandn d a b
  | .pcnt d a => effPcnt d a
  | .pfirst d a => effPfirst d a
  | .psetn d a => effPsetn d a
  | .pmovPp d a => effPmovPp d a
  | .pmovPv d a => effPmovPv d a
  | .pmovVp d a => effPmovVp d a
  | .vquant d a b => effVquant d a b
  | .vdeq d a b => effVdeq d a b
  | .vscale d a b => effVscale d a b
  | .vld d a o r c => effVld d a o r c
  | .vlds d a b r c => effVlds d a b r c
  | .vldg d a o f r c => effVldg d a o f r c
  | .vldx d a b r c => effVldx d a b r c
  | .vldff d a o r c => effVldff d a o r c
  | .vst d a o r c => effVst d a o r c
  | .vsts d a b r c => effVsts d a b r c
  | .vstg d a o f r c => effVstg d a o f r c
  | .vstx d a b r c => effVstx d a b r c
  | .vstxa d a b r c => effVstxa d a b r c
  | .vstxc d a b r c => effVstxc d a b r c
  | .pld d a o r c => effPld d a o r c
  | .pst d a o r c => effPst d a o r c
  | .sbind d a => effSbind d a
  | .sunbind d => effSunbind d
  | .spos d a => effSpos d a
  | .mzero d => effMzero d
  | .mma d a b => effMma d a b
  | .mmam d a b => effMmam d a b
  | .mdrain d a b f m => effMdrain d a b f m
  | .mpert a b => effMpert a b
  | _ => fun s => .trap .illegal s

/-- The effect of a word of majors 0x10 to 0x2B. -/
def wordEff (w : IWord) : State → Eff :=
  match decodeMost w.toNat with
  | .instr i => vecEff i
  | .reject _ => effWord w

/-- What a register field of a word names: the number of the last register of its kind, or none for an immediate (01 R45,
04 R153, R155). -/
abbrev FieldLimit := Option Nat

/-- The limits of fields d, a and b of a word of majors 0x10 to 0x2B. -/
def fieldLimits (w : Nat) : FieldLimit × FieldLimit × FieldLimit :=
  let op := bitsOf w 5 6
  match w / 67108864 with
  | 0x12 => (some (if op = 0 then 7 else 31), some 31, if bitsOf w 3 2 = 2 then none else some 31)
  | 0x14 => (some (if op = 6 then 7 else 31), some 31, if bitsOf w 3 2 = 2 then none else some 31)
  | 0x18 =>
    if op < 4 then (some 7, some 7, some 7)
    else if op < 6 then (some 31, some 7, some 31)
    else if op = 6 then (some 7, some 31, some 31)
    else if w % 8 = 0 then (some 7, some 7, some 31)
    else if w % 8 = 1 then (some 31, some 7, some 31)
    else (some 7, some 31, some 31)
  | 0x24 => (some 7, some 31, if bitsOf w 8 3 = 0 then none else some 31)
  | 0x25 => (some 7, some 31, if bitsOf w 8 3 = 0 then none else some 31)
  | m =>
    if m < 0x1A then (some 31, some 31, if bitsOf w 3 2 = 2 then none else some 31)
    else if m = 0x20 ∨ m = 0x21 then (some 31, some 31, if [0, 2, 4].contains (bitsOf w 8 3) then none else some 31)
    else (some 31, some 31, some 31)

/-- A selected field stays a register through the last repetition (01 R45). -/
def fieldOk (selected : Bool) (l : FieldLimit) (f last : Nat) : Bool :=
  !selected ||
    match l with
    | none => false
    | some m => decide (f + last ≤ m)

/-- COUNT of a prefix. -/
def repCount (p : IWord) : Nat := bitsOf p.toNat 20 6 + 1

/-- The step of a prefix. -/
def repStep (p : IWord) : Nat := 2 ^ bitsOf p.toNat 15 2

/-- The checks of a prefix and the word that follows it (01 R45). -/
def repOk (p x : IWord) : Bool :=
  let n := x.toNat
  let last := (repCount p - 1) * repStep p
  let (ld, la, lb) := fieldLimits n
  bitsOf p.toNat 0 15 == 0 && decide (0x10 ≤ majorOf x ∧ majorOf x ≤ 0x2B)
    && fieldOk (p.getLsbD 19) ld (bitsOf n 21 5) last && fieldOk (p.getLsbD 18) la (bitsOf n 16 5) last
    && fieldOk (p.getLsbD 17) lb (bitsOf n 11 5) last

/-- The word of repetition j (01 R44). -/
def repWord (p x : IWord) (j : Nat) : IWord :=
  let k := fun (b : Nat) (unit : Nat) => if p.getLsbD b then j * repStep p * unit else 0
  BitVec.ofNat 32 (x.toNat + k 19 2097152 + k 18 65536 + k 17 2048)

/-- Prefix and word as XTVAL reports them (01 R54). -/
def repVal (p w : IWord) : Word := w.setWidth 64 <<< 32 ||| p.setWidth 64

/-- The state with REPIDX set. -/
def State.setRepidx (s : State) (j : Nat) : State := { s with hart := { s.hart with repidx := BitVec.ofNat 6 j } }

/-- A trap of repetition j, whose word is `w` (01 R46, R50, R54). -/
def State.trapInRep (s : State) (p w : IWord) (j : Nat) (c : Cause) : State :=
  (s.setRepidx j).takeTrap
    { word := if c = .illegal then repVal p w else w.setWidth 64, rep := true, mat := (wordInfo false w).mat, vec := true } c

/-- `n` repetitions from j on (01 R44, R46). A repetition that must wait leaves REPIDX naming it. -/
def State.repeats (p x : IWord) : Nat → Nat → State → State
  | 0, _, s => (s.setRepidx 0).setPc (s.hart.pc + 8)
  | n + 1, j, s =>
    let w := repWord p x j
    match wordEff w s with
    | .done t => State.repeats p x n (j + 1) (t.retire 1)
    | .jump t => State.repeats p x n (j + 1) (t.retire 1)
    | .trap c t => t.trapInRep p w j c
    | .wait t => { t with hart := { t.hart with st := .waiting, repidx := BitVec.ofNat 6 j } }

/-- A prefix word on a hart: the fetch of the word it repeats, the checks, and the repetitions from REPIDX on (01 R45, R46). The
fetch comes before the prefix's own check, so a fault of the next word hides a bit [14:0] that is not zero; a prefix that begins
with REPIDX at or above COUNT performs no repetition, completes and clears REPIDX (DESIGN CHOICE, log 67: R53 and R46 settle
neither). -/
def State.runRep (p : IWord) (s : State) : State :=
  if s.hart.isCtl then s.takeTrap (wordInfo true p) .illegal
  else
    match s.fetch (s.hart.pc + 4) with
    | .wait => { s with hart := { s.hart with st := .waiting } }
    | .fault denied va => (s.setRepidx 0).takeTrap { word := 0, fetch := true, vec := true } (fetchCause denied va)
    | .mcheck c t => (t.setRepidx 0).takeTrap { word := 0, fetch := true, vec := true } c
    | .word x t =>
      if repOk p x then State.repeats p x (repCount p - t.hart.repidx.toNat) t.hart.repidx.toNat t
      else t.takeTrap { word := repVal p x, vec := true } .illegal

/-- The word of a REP prefix. -/
def repPrefix (count : BitVec 6) (sel : BitVec 3) (step : BitVec 2) : IWord :=
  jFmt 0x38 (count.toNat * 1048576 + sel.toNat * 131072 + step.toNat * 32768)

/-- REP on a hart (01 R44 to R46). -/
def execRep (c : BitVec 6) (f : BitVec 3) (k : BitVec 2) (s : State) : Host.Outcome State Fault Refusal :=
  .next (s.runRep (repPrefix c f k))

/-- WORD_NOT_AN_INSTRUCTION: a fetched word that no row of the opcode table matches takes its class's fate (04 R158 to R162);
one of major 0x38 is a prefix that fails its checks (01 R45). -/
def execWordNotAnInstruction (w : BitVec 32) (s : State) : Host.Outcome State Fault Refusal :=
  if majorOf w = 0x38 then .next (s.runRep w) else runQueued w (effWord w) s

end Sys2Proof.Machine
end

