-- ==== Sys2Proof/Machine/Datapath.lean ====
section
/-! DEFINITION. The checks of the datapath on the instruction that a hart executes, and the steps of a hart that the in-order
model leaves nothing of (01 R16 to R20, R59; 15 R408, R410, R411). -/

namespace Sys2Proof.Machine

/-- A step of one hart that runs, whatever hart has the turn. -/
def State.onHart (s : State) (n : Nat) (f : State → State) : State :=
  let h := s.hartAt n
  if 1155 ≤ n ∨ !(h.st == .running || h.st == .waiting) then s else (f (s.switchTo n)).switchTo s.hart.num

/-- `n` repetitions of a prefix from `j` on, where none of them stops (01 R44, R46). -/
def State.repsTo (p x : IWord) : Nat → Nat → State → Option State
  | 0, _, s => some s
  | n + 1, j, s =>
    match wordEff (repWord p x j) s with
    | .done t => State.repsTo p x n (j + 1) (t.retire 1)
    | .jump t => State.repsTo p x n (j + 1) (t.retire 1)
    | _ => none

/-- The word that the current hart executes, in the state in which it does: the word at its pc, or repetition `j` of the prefix
there, after those before it. The prefix comes with it. -/
def State.executing (s : State) (j : Nat) : Option (State × IWord × Option IWord) :=
  match s.fetch s.hart.pc with
  | .word p t =>
    if majorOf p ≠ 0x38 then some (t, p, none)
    else
      match t.fetch (t.hart.pc + 4) with
      | .word x u =>
        let k := u.hart.repidx.toNat
        if !u.hart.isCtl && repOk p x && decide (k ≤ j ∧ j < repCount p) then
          (State.repsTo p x (j - k) k u).map fun v => (v, repWord p x j, some p)
        else none
      | _ => none
  | _ => none

/-- The word traps with a machine check: nothing of it has changed the hart (01 R19, R46, R50; 15 R410). -/
def State.squash (s : State) (j : Nat) (c : Cause) : State :=
  match s.executing j with
  | some (t, w, some p) => t.trapInRep p w j c
  | some (t, w, none) => t.takeTrap (wordInfo false w) c
  | none => s

/-- A check of the current hart's execution: the record of its bank, and the trap where the error is not corrected
(15 R404, R408). -/
def State.checkFails (s : State) (j : Nat) (i : McInfo) (trap : Option (Nat → Nat → Cause)) : State :=
  let h := s.hart
  let (s, k) := s.report h.bank { i with master := h.master, ctx := h.ctxid.toNat }
  match trap with
  | some c => s.squash j (c h.bank k)
  | none => s

/-- The record of a residue mismatch. In a control hart ADRK is 5 and ADDR the address of the instruction in the hart's memory
(R407, R408; DESIGN CHOICE, log 67: no rule says which address). -/
def residueInfo (h : Hart) (code unit : Nat) : McInfo :=
  if h.isCtl then { code := code, unit := unit, synd := BitVec.ofNat 64 (unit % 256), adrk := 5, addr := h.pc &&& 0x7FFFFFFFFFFFFFFF }
  else { code := code, unit := unit, synd := BitVec.ofNat 64 (unit % 256) }

/-- A retry of a core is counted (15 R427). -/
def State.retried (s : State) (off : Nat) : State := if s.hart.isCtl then s else s.count (off + 64 * s.hart.core)

/-- The residue check of a result: a retry whose residue matches is recorded 0x01, one that mismatches again 0x02, with a trap
(R410). -/
def State.residue (s : State) (j unit mismatches : Nat) : State :=
  match mismatches with
  | 0 => s
  | 1 => (s.retried 0x2008).checkFails j (residueInfo s.hart 0x01 unit) none
  | _ => (s.retried 0x2008).checkFails j (residueInfo s.hart 0x02 unit) (some .mcheckContained)

/-- A mirror mismatch in protected mode: 0x03 where the retry matches, else 0x04 with MCHECK_SDC (R411; 01 R59). -/
def State.mirror (s : State) (j : Nat) (r : VReg) (mismatches : Nat) : State :=
  match mismatches with
  | 0 => s
  | 1 => (s.retried 0x2010).checkFails j { code := 0x03, unit := s.hart.num % 4, synd := r.setWidth 64 } none
  | _ => (s.retried 0x2010).checkFails j { code := 0x04, unit := s.hart.num % 4, synd := r.setWidth 64 } (some .mcheckSdc)

/-- The code of a register's cell: 0x07 where it corrects the error, else 0x08 with the convoy squashed (R408). -/
def State.registerError (s : State) (j : Nat) (r : Fin 32) (corrected : Bool) : State :=
  s.checkFails j { code := if corrected then 0x07 else 0x08, unit := s.hart.num % 4, synd := BitVec.ofNat 64 r.val }
    (if corrected then none else some .mcheckContained)

/-- What a check finds in the word that the current hart executes. -/
def State.dataError (s : State) (j : Nat) (e : DataError) : State :=
  if (s.executing j).isNone then s
  else
    match e with
    | .residue unit mismatches => s.residue j unit mismatches
    | .register r corrected => if s.hart.isCtl then s else s.registerError j r corrected

/-- MICRO_OPERATION_ISSUE: a micro-operation of the word at hart `n`'s pc, or of repetition `j` of a prefix there, issues; the
word's effect is that of its own step, and what shows here is what the checks find (01 R17; R408, R410; log 1). -/
def execMicroOperationIssue (n j : Nat) (e : DataError) (s : State) : Host.Outcome State Fault Refusal :=
  .next (s.onHart n fun s => s.dataError j e)

/-- The vector registers that an instruction with vector destination `d` writes when it completes; none where it has no active lane
or no row to perform (04 R160; 06 R207, R227, R232, R236; 09 R321). -/
def Hart.destsOf (h : Hart) (d : VReg) (i : Instr) : List Opnd :=
  let on := fun (lanes : Bool) (os : List Opnd) => if lanes then os else []
  let group := fun (w : Nat) => h.opnd d w []
  let one := fun (n : Nat) => (⟨n, 1, h.ew1, []⟩ : Opnd)
  match i with
  | .vcmp .. | .vfcmp .. | .vext .. | .pand .. | .por .. | .pxor .. | .pandn .. | .pcnt .. | .pfirst .. | .psetn .. | .pmovPp ..
  | .pmovVp .. | .vst .. | .vsts .. | .vstg .. | .vstx .. | .vstxa .. | .vstxc .. | .pld .. | .pst .. | .sbind .. | .sunbind ..
  | .spos .. | .mdrain .. | .mpert .. => []
  | .vredsum .. | .vredmin .. | .vredmax .. | .vredminu .. | .vredmaxu .. | .vredand .. | .vredor .. | .vredxor .. | .vfredsum ..
  | .vfredmin .. | .vfredmax .. => on (anyLength h) [one d.toNat]
  | .vins _ _ b k => on (indexLanes k b h) [group h.ew1]
  | .vmulm .. => on h.anyActive [group (2 * max h.ew1 h.ew2)]
  | .vfmam .. => on h.anyActive [group (if max h.ew1 h.ew2 ≤ 16 then 32 else 64)]
  | .vcompress .. | .vexpand .. | .vscan .. => on h.anyGuarded [group h.ew1]
  | .vtopk .. => on h.anyGuarded [group h.ew1, h.opnd (d + 8) 32 []]
  | .vldg _ _ _ f _ _ => on h.anyActive (h.segOpnds d (f.toNat + 1))
  | .vquant .. => on h.anyActive [group h.ew1, one (group h.ew1).side]
  | .pmovPv .. => on h.anyActive [h.predPair d]
  | .mzero .. | .mma .. | .mmam .. => on (h.anyGuarded && !h.stopRows.isEmpty) [group h.ew1]
  | _ => on h.anyActive [group h.ew1]

/-- A word of majors 0x10 to 0x2B completes and writes a vector register, which no stream that takes its elements is bound to
(01 R59; 07 R249). -/
def State.writesBack (s : State) (w : IWord) (r : VReg) : Bool :=
  match decodeMost w.toNat, wordEff w s with
  | .instr i, .done _ =>
    (s.hart.destsOf (BitVec.ofNat 5 (bitsOf w.toNat 21 5)) i).any fun o =>
      (s.hart.writeStream? o).isNone && decide (o.reg ≤ r.toNat ∧ r.toNat < o.reg + o.regs)
  | _, _ => false

/-- The write-back of a vector word: the residue rule acts first, and where its result stands protected mode compares what a
register that the word writes received with its mirror (01 R59; R411). -/
def State.writeBack (s : State) (j : Nat) (b : WriteBack) : State :=
  match s.executing j with
  | none => s
  | some (t, w, _) =>
    if s.hart.isCtl ∨ majorOf w < 0x10 ∨ 0x2B < majorOf w then s
    else if b.residue < 2 ∧ s.hart.prot ∧ t.writesBack w b.reg then (s.residue j b.unit b.residue).mirror j b.reg b.mismatches
    else s.residue j b.unit b.residue

/-- VECTOR_COMMIT: a vector instruction commits; its effect is that of its own step, and what shows here are the checks of its
write-back (01 R19; R410, R411; log 1). -/
def execVectorCommit (n j : Nat) (w : WriteBack) (s : State) : Host.Outcome State Fault Refusal :=
  .next (s.onHart n fun s => s.writeBack j w)

/-- HELD_INSTRUCTION_RETIRE: a held scalar instruction retires. Every instruction of this model retires in its own step
(01 R16; log 1), so nothing is left to do. -/
def execHeldInstructionRetire (_n : Nat) (s : State) : Host.Outcome State Fault Refusal := .next s

/-- A waiting hart is RUNNING, and looks again whether it must wait (01 R20). -/
def State.wake (s : State) (n : Nat) : State :=
  let h := s.hartAt n
  if h.st = .waiting then s.putHart { h with st := .running } else s

/-- HART_WAKE: a waiting hart returns to RUNNING; its instruction waits again if its condition does not hold (01 R20). -/
def execHartWake (n : Nat) (s : State) : Host.Outcome State Fault Refusal := .next (s.wake n)

/-- WAITW_RECHECK: a waiting instruction reads its word again (05 R197). -/
def execWaitwRecheck (n : Nat) (s : State) : Host.Outcome State Fault Refusal := .next (s.wake n)

/-- STREAM_READ_AHEAD: elements are fetched ahead of use. A consumer of this model reads the elements in its own step
(07 R249, R250; log 1), so nothing changes. -/
def execStreamReadAhead (_n : Nat) (_r : BitVec 2) (s : State) : Host.Outcome State Fault Refusal := .next s

end Sys2Proof.Machine
end

