-- ==== Sys2Proof/Machine/Firmware.lean ====
section
/-! DEFINITION. Control-hart firmware images: their header and checks, and what loading one leaves in the control harts' memories
(13 R392; 16 R435, R436). -/

namespace Sys2Proof.Machine

/-- Bytes [off, off + n) of an image. -/
def slice (image : List Byte) (off n : Nat) : List Byte := (image.drop off).take n

/-- The SVN of an image's header. -/
def imageSvn (image : List Byte) : Nat := leNat (slice image 6 2)

/-- The payload of an image. -/
def payload (image : List Byte) : List Byte := slice image 176 (leNat (slice image 8 4))

/-- An image is accepted: its header, a fused key that is not revoked, its signature, its digest and its SVN (13 R392). -/
def Firmware.accepts (f : Firmware) (image : List Byte) : Bool :=
  leNat (slice image 0 4) == 0x57465644 && leNat (slice image 4 2) == 1 && leNat (slice image 12 4) == 0
    && decide (176 + leNat (slice image 8 4) ≤ image.length)
    && (List.range 4).any (fun i => !f.revoked.contains i && Config.keyHash i == Config.sha256 (slice image 48 64))
    && Config.ecdsaVerify (slice image 48 64) (slice image 112 64) (slice image 0 112)
    && leNat (slice image 16 32) == Config.sha256 (payload image)
    && decide (f.minSvn ≤ imageSvn image)

/-- The image of a bank: B if true. -/
def Firmware.image (f : Firmware) (b : Bool) : List Byte := if b then f.bankB else f.bankA

/-- The memories of control hart `n` after a load of a payload, the rest zero: the spec does not lay the payload out, so what it
holds for a hart is a free value, and an empty payload holds nothing (16 R435, step 4; log 14). -/
def State.loadCtl (s : State) (image : List Byte) (n : Nat) : State :=
  let p := payload image
  let m := s.mem.filter fun (k, _) => k / 2 ^ 20 != ctlKey n 0 / 2 ^ 20
  { s with mem := if p = [] then m else Memory.writeBytes m (ctlKey n 0) ((Config.loaded p n).take (2 ^ 20)) }

end Sys2Proof.Machine
end

