-- ==== Sys2Proof/Machine/Graph.lean ====
section
/-! DEFINITION. Graph images: header, node records, bindings and tile sets as the snapshot holds them, the checks of a snapshot,
and which nodes are skipped, entered and eligible (13 R365 to R371). -/

namespace Sys2Proof.Machine

/-- A graph image in memory: its first key, and its header (R367). -/
structure Graph where
  mem : List Host.Cell
  key : Nat
  nnode : Nat
  nbind : Nat
  ntset : Nat
  nprede : Nat
  size : Nat
  nodeoff : Nat
  predoff : Nat
  bindoff : Nat
  tsetoff : Nat

/-- The graph image at a key. -/
def Graph.ofMem (m : List Host.Cell) (k : Nat) : Graph :=
  let r := fun (off n : Nat) => Memory.readLE m (k + off) n
  { mem := m, key := k, nnode := r 6 2, nbind := r 8 2, ntset := r 10 2, nprede := r 12 4, size := r 16 4
    nodeoff := r 24 8, predoff := r 32 8, bindoff := r 40 8, tsetoff := r 48 8 }

/-- `n` bytes of the image, as a number. -/
def Graph.at (g : Graph) (off n : Nat) : Nat := Memory.readLE g.mem (g.key + off) n

/-- `n` bytes of node `i`'s record (R368). -/
def Graph.node (g : Graph) (i off n : Nat) : Nat := g.at (g.nodeoff + 256 * i + off) n

/-- A node's KIND: 1 kernel, 2 copy, 3 conditional, 4 loop, 5 switch, 6 event, 7 self-test, 8 end (R368). -/
def Graph.kind (g : Graph) (i : Nat) : Nat := g.node i 0 1

/-- Node numbers. -/
def Graph.nodes (g : Graph) : List Nat := List.range g.nnode

/-- The predecessor entries of a node. -/
def Graph.preds (g : Graph) (i : Nat) : List Nat :=
  (List.range (g.node i 2 2)).map fun k => g.at (g.predoff + 4 * (g.node i 4 4 + k)) 4

/-- The ranges that a node owns: THEN and ELSE, a loop's body, or a switch's cases (R368). -/
def Graph.ranges (g : Graph) (i : Nat) : List (Nat × Nat) :=
  match g.kind i with
  | 3 => [(g.node i 40 2, g.node i 42 2), (g.node i 44 2, g.node i 46 2)]
  | 4 => [(g.node i 40 2, g.node i 42 2)]
  | 5 => (List.range (g.node i 40 1)).map fun k => (g.node i (48 + 4 * k) 2, g.node i (50 + 4 * k) 2)
  | _ => []

/-- Every range that holds a node, with its owner. -/
def Graph.allRanges (g : Graph) : List (Nat × Nat × Nat) :=
  g.nodes.flatMap fun o => ((g.ranges o).filter fun (lo, hi) => lo < hi).map fun (lo, hi) => (lo, hi, o)

/-- A mortar binding (R367). -/
structure Bind where
  cons : Nat
  rdecl : Nat
  pdecl : Nat
  prod : Nat
  zero : Nat
  deriving DecidableEq, Repr

/-- The bindings. -/
def Graph.binds (g : Graph) : List Bind :=
  (List.range g.nbind).map fun k =>
    let f := fun (off n : Nat) => g.at (g.bindoff + 8 * k + off) n
    ⟨f 0 2, f 2 1, f 3 1, f 4 2, f 6 2⟩

/-- A tile set: BASE, COUNT and BYTES; none beyond NTSET. -/
def Graph.tset (g : Graph) (k : Nat) : Option (Word × Nat × Nat) :=
  if k < g.ntset then
    let f := fun (off n : Nat) => g.at (g.tsetoff + 16 * k + off) n
    some (BitVec.ofNat 64 (f 0 8), f 8 4, f 12 4)
  else none

/-! ### The checks of a snapshot (R369) -/

/-- The bytes [va, va + len) lie in the context's heap window (R101, R363). -/
def CtxRec.inHeap (c : CtxRec) (va : Word) (len : Nat) : Bool :=
  c.heaplim != 0 && decide (c.heapbase.toNat ≤ va.toNat ∧ va.toNat + len ≤ c.heapbase.toNat + c.heaplim.toNat)

/-- GRAPHSZ is legal (R367). -/
def graphSize (n : Nat) : Bool := decide (128 ≤ n ∧ n ≤ 2 ^ 20 ∧ n % 64 = 0)

/-- The header is legal (R367). -/
def Graph.headerOk (g : Graph) : Bool :=
  decide (g.at 0 4 = 0x48505247 ∧ g.at 4 2 = 1 ∧ 1 ≤ g.nnode ∧ g.nnode ≤ 4096 ∧ g.at 20 4 = 0 ∧ g.at 64 64 = 0)
    && graphSize g.size
    && [(g.nodeoff, 256 * g.nnode), (g.predoff, 4 * g.nprede), (g.bindoff, 8 * g.nbind), (g.tsetoff, 16 * g.ntset)].all
         fun (off, n) => decide (off % 64 = 0 ∧ off + n ≤ g.size)

/-- The stretches of a node record that its kind leaves zero (R368): first byte and length. -/
def zeroParts : Nat → List (Nat × Nat)
  | 1 => [(58, 6), (192, 64)]
  | 5 => [(41, 7), (80, 176)]
  | 7 => [(34, 2), (41, 3), (48, 208)]
  | k =>
    let used := [32, 32, 42, 48, 49, 32, 52].getD k 32
    [(used, 256 - used)]

/-- A node that reads or writes a word names one aligned in the heap window (R369). -/
def Graph.wordOk (g : Graph) (c : CtxRec) (i : Nat) : Bool :=
  if g.kind i ∈ [3, 4, 5, 6] then
    let va := g.node i 32 8
    decide (va % 8 = 0) && c.inHeap (BitVec.ofNat 64 va) 8
  else true

/-- The limits of a node's own fields (R368). -/
def Graph.fieldsOk (g : Graph) (i : Nat) : Bool :=
  match g.kind i with
  | 2 => decide (g.node i 40 1 ≤ 3 ∧ g.node i 41 1 ≤ 11)
  | 4 => decide (1 ≤ g.node i 44 4 ∧ g.node i 48 1 ≤ 63)
  | 5 => decide (1 ≤ g.node i 40 1 ∧ g.node i 40 1 ≤ 8)
  | 6 => decide (g.node i 48 1 ≤ 1)
  | _ => true

/-- A node's record: kind, zeros, predecessors below it, and ranges above it (R368, R369). -/
def Graph.nodeOk (g : Graph) (c : CtxRec) (i : Nat) : Bool :=
  decide (1 ≤ g.kind i ∧ g.kind i ≤ 8 ∧ g.node i 1 1 = 0 ∧ g.node i 8 24 = 0 ∧ g.node i 4 4 + g.node i 2 2 ≤ g.nprede)
    && ((zeroParts (g.kind i)).all fun (off, n) => g.node i off n == 0)
    && ((g.preds i).all fun p => decide (p < i))
    && ((g.ranges i).all fun (lo, hi) => decide (lo ≤ hi ∧ (lo < hi → i < lo ∧ hi ≤ g.nnode)))
    && g.fieldsOk i && g.wordOk c i

/-- Ranges nest, and a node inside one has no predecessor between its owner and it (R369). -/
def Graph.rangesOk (g : Graph) : Bool :=
  let rs := g.allRanges
  rs.all fun (lo, hi, o) =>
    (rs.all fun (l, h, _) => decide (h ≤ lo ∨ hi ≤ l ∨ (lo ≤ l ∧ h ≤ hi) ∨ (l ≤ lo ∧ hi ≤ h)))
      && ((List.range (hi - lo)).all fun d => (g.preds (lo + d)).all fun p => decide ((lo ≤ p ∧ p < hi) ∨ p < o))

/-- Nothing outside a loop's body has a predecessor inside it, and no two loops share a LOOPIX (R369). -/
def Graph.loopsOk (g : Graph) : Bool :=
  let ls := g.nodes.filter fun i => g.kind i == 4
  decide (ls.map fun i => g.node i 48 1).Nodup
    && ls.all fun i => (g.ranges i).all fun (lo, hi) =>
         g.nodes.all fun m => decide (lo ≤ m ∧ m < hi) || (g.preds m).all fun p => !(decide (lo ≤ p ∧ p < hi))

/-- At most one end node, and that the last (R369). -/
def Graph.endOk (g : Graph) : Bool := g.nodes.all fun i => g.kind i != 8 || i + 1 == g.nnode

/-- Bindings run forward (R369). -/
def Graph.bindsOk (g : Graph) : Bool := g.binds.all fun b => decide (b.zero = 0 ∧ b.cons < g.nnode ∧ b.prod < b.cons)

/-- The reserved bits of every predecessor entry are zero (R367, R369). -/
def Graph.predsOk (g : Graph) : Bool := (List.range g.nprede).all fun k => g.at (g.predoff + 4 * k + 2) 2 == 0

/-- A snapshot passes every check of R369. -/
def Graph.ok (g : Graph) (c : CtxRec) : Bool :=
  g.headerOk && g.predsOk && (g.nodes.all (g.nodeOk c)) && g.bindsOk && g.endOk && g.rangesOk && g.loopsOk

/-! ### Node states (R370, R371) -/

/-- A node's state: 0 not launched, 1 launching, 2 launched, 3 complete or skipped. -/
def Replay.nodeSt (r : Replay) (i : Nat) : Nat := Table.get r.nodes i 0

/-- A node's state changed. -/
def Replay.setNode (r : Replay) (i st : Nat) : Replay := { r with nodes := Table.set r.nodes i st }

/-- A node is skipped, and with it every range it owns (R370). -/
def Graph.skip (g : Graph) : Nat → Replay → Nat → Replay
  | 0, r, _ => r
  | fuel + 1, r, i =>
    if r.nodeSt i ≠ 0 then r
    else
      (g.ranges i).foldl (fun r (lo, hi) => (List.range (hi - lo)).foldl (fun r d => Graph.skip g fuel r (lo + d)) r)
        { r.setNode i 3 with nskip := r.nskip + 1 }

/-- The nodes of a range are skipped. -/
def Graph.skipRange (g : Graph) (r : Replay) (lo hi : Nat) : Replay :=
  (List.range (hi - lo)).foldl (fun r d => g.skip g.nnode r (lo + d)) r

/-- A node enters one of its ranges, or none, and skips those it does not enter (R370). Ranges with the same bounds are one
range. -/
def Graph.enter (g : Graph) (r : Replay) (i : Nat) (pick : Option (Nat × Nat)) : Replay :=
  let r :=
    match pick with
    | some (lo, hi) => { r with entered := (lo, hi, i) :: r.entered.filter (· != (lo, hi, i)) }
    | none => r
  ((g.ranges i).filter fun p => some p != pick).foldl (fun r (lo, hi) => g.skipRange r lo hi) r

/-- A node is eligible (R370). -/
def Graph.eligible (g : Graph) (r : Replay) (i : Nat) : Bool :=
  decide (i < g.nnode) && r.nodeSt i == 0
    && ((g.preds i).all r.done)
    && (g.binds.all fun b => b.cons != i || decide (2 ≤ r.nodeSt b.prod))
    && (g.allRanges.all fun (lo, hi, o) => !(decide (lo ≤ i ∧ i < hi)) || r.entered.contains (lo, hi, o))

/-- A node completes: its state is 3 and NRUN counts it (R375). -/
def Replay.completeNode (r : Replay) (i : Nat) : Replay := { r.setNode i 3 with nrun := r.nrun + 1 }

/-- The nodes of a loop's body go back to not launched, and every range inside it is left (R371). -/
def Replay.reenter (r : Replay) (lo hi : Nat) : Replay :=
  { r with
    nodes := (List.range (hi - lo)).foldl (fun t d => Table.set t (lo + d) 0) r.nodes
    entered := r.entered.filter fun (_, _, o) => !(decide (lo ≤ o ∧ o < hi)) }

end Sys2Proof.Machine
end

