-- ==== Sys2Proof/Machine/FrontEnd.lean ====
section
/-! DEFINITION. The front end takes kicks and ends replays: its accesses, the journal, the snapshot, and the completion record
(10 R336 to R338; 13 R361 to R366, R375 to R378; 14 R395 to R397). -/

namespace Sys2Proof.Machine

/-! ### Accesses of the front end -/

/-- The primary control hart's environment: it translates nothing (14 R394). -/
def State.feEnv (s : State) : Env := (Hart.reset (1152 + s.fe.primary)).env

/-- The front end reads parts; poison is consumed by the primary control hart (15 R414). -/
def State.feRead (s : State) (parts : List Part) (va : Word) : State × List Byte × Option Cause :=
  match s.readParts parts with
  | (s, bytes, none) => (s, bytes, none)
  | (s, bytes, some _) =>
    let (s, i) := s.report 708 { code := 0x05, unit := s.fe.primary, adrk := 1, addr := va, synd := 1, master := s.feEnv.master }
    (s, bytes, some (.mcheckContained 708 i))

/-- The front end reads `len` bytes of a heap address of a context, by the window's addition alone (13 R363). -/
def State.feLoad (s : State) (c : CtxRec) (va : Word) (len : Nat) : Got :=
  match s.check s.feEnv (1152 + s.fe.primary) .load (va + c.heapoff) len with
  | .trap c s => .trap c s
  | .wait on => .wait on
  | .ok parts =>
    match s.feRead parts va with
    | (s, bytes, none) => .ok (leNat bytes) s
    | (s, _, some c) => .trap c s

/-- The front end writes bytes to a heap address of a context. -/
def State.feStore (s : State) (c : CtxRec) (va : Word) (bytes : List Byte) : Got :=
  match s.check s.feEnv (1152 + s.fe.primary) .store (va + c.heapoff) bytes.length with
  | .trap c s => .trap c s
  | .wait on => .wait on
  | .ok parts => .ok 0 (s.writeParts s.feEnv parts bytes)

/-- The key of the bytes [va, va + len) of a context's heap, where they lie in the memory of one die of this device. -/
def State.heapKey (s : State) (c : CtxRec) (va : Word) (len : Nat) : Option Nat :=
  let pa := (va + c.heapoff).toNat
  if c.inHeap va len ∧ pa / 2 ^ 40 = s.fab.device.toNat ∧ pa / 2 ^ 36 % 16 < 12
      ∧ pa % 2 ^ 36 + len ≤ s.memLimit (pa / 2 ^ 36 % 16) then some (pa % 2 ^ 40)
  else none

/-! ### The journal (13 R377) -/

/-- A replay record is written, with the SEQ that the journal then holds. -/
def State.journalReplay (s : State) (r : Replay) : State :=
  let n := (s.fe.seq + 1) % 2 ^ 64
  let r := { r with rseq := n }
  { s with fe := { s.fe with
      seq := n
      replays := if s.fe.replays.any fun q => q.jrec == r.jrec then s.fe.replays.map fun q => if q.jrec = r.jrec then r else q
                 else s.fe.replays ++ [r] } }

/-- A slot record is written. -/
def State.journalSlot (s : State) (slot st jrec gen : Nat) : State :=
  let n := (s.fe.seq + 1) % 2 ^ 64
  { s with fe := { s.fe with
      seq := n, slots := Table.set s.fe.slots slot { s.fe.slot slot with jst := st, jrec := jrec, jgen := gen, jseq := n } } }

/-! ### Taking a kick (13 R361 to R366; 14 R397) -/

/-- A field of slot `n`'s table entry (13 R363). -/
def State.slotField (s : State) (n off len : Nat) : Nat := Memory.readLE s.mem (iodKey 0 (0x10000 + 32 * n + off)) len

/-- One bit of a slot among the 1,024. -/
def slotBit (n : Nat) : BitVec 1024 := (1 : BitVec 1024) <<< n

/-- Running replays. -/
def FrontEnd.running (f : FrontEnd) : Nat := (f.replays.filter fun r => r.st != 0).length

/-- A pending slot that the primary may take now (13 R362). -/
def State.takeable (s : State) (slot : Nat) : Bool :=
  let ctx := s.slotField slot 24 1
  let held := s.slotField slot 25 1 % 2 == 1 && decide (ctx < 64) && (s.cx.state ctx == 2 || s.cx.state ctx == 3)
  s.fe.pend.getLsbD slot && (s.fe.live slot).isNone && decide (s.fe.running < 128) && !held

/-- The slot that is taken next: of those that the standby listed the lowest, then by the round-robin scan (13 R362; 14 R397). -/
def State.nextSlot (s : State) : Option Nat :=
  ((s.fe.listed.getD []) ++ (List.range 1024).map fun k => (s.fe.lastTaken + 1 + k) % 1024).find? s.takeable

/-- A trap is a machine check: the address was good, and what lies there is poisoned (15 R414). -/
def Cause.isCheck : Cause → Bool
  | .mcheckContained _ _ => true
  | _ => false

/-- The graph image and what the entry names lie where R363 requires, or the take waits for a claimed granule. A header that is
poisoned drops no kick: the replay starts, and the snapshot ends it (15 R414). -/
def State.slotErr (s : State) (slot : Nat) : Option Nat :=
  let ctx := s.slotField slot 24 1
  let w := fun (off : Nat) => BitVec.ofNat 64 (s.slotField slot off 8)
  if s.slotField slot 25 1 % 2 = 0 then some 1
  else if 63 < ctx ∨ s.cx.state ctx = 0 ∨ s.cx.state ctx = 4 then some 3
  else
    let c := (s.ctxOf ctx).live
    if (w 0).toNat % 64 ≠ 0 ∨ (w 8).toNat % 64 ≠ 0 ∨ (w 16).toNat % 128 ≠ 0 ∨ c.inHeap (w 0) 128 = false then some 2
    else
      let fits := fun (n : Nat) => if c.inHeap (w 0) n ∧ (s.heapKey c (w 8) n).isSome ∧ c.inHeap (w 16) 128 then 0 else 2
      match s.feLoad c (w 0 + 16) 4 with
      | .trap e _ => some (if e.isCheck then fits 128 else 2)
      | .wait _ => none
      | .ok n _ => some (fits (if graphSize n then n else 128))

/-- The lowest replay record that is free. -/
def State.freeRecord (s : State) : Nat :=
  ((List.range 128).find? fun i => !(s.fe.replays.any fun r => r.jrec == i && r.st != 0)).getD 0

/-- The next generation (10 R337). -/
def nextGen (g : Nat) : Nat := if (g + 1) % 65536 = 0 then 1 else (g + 1) % 65536

/-- A replay that starts. -/
def State.newReplay (s : State) (slot jrec gen : Nat) : Replay :=
  let v := s.slotField slot 25 1 / 2 % 2
  { Replay.free jrec with
    slot := slot, gen := gen, ctx := s.slotField slot 24 1, st := 2, snapa := BitVec.ofNat 64 (s.slotField slot 8 8)
    start := s.clock, compla := BitVec.ofNat 64 (s.slotField slot 16 8)
    msix := if v = 1 then some (s.slotField slot 26 2) else none }

/-- The snapshot is copied and checked (13 R365, step 3; R369): the replay after it. An image that cannot be read ends the replay
with the trap. -/
def State.snapshot (s : State) (r : Replay) : State × Replay :=
  let c := (s.ctxOf r.ctx).live
  let ga := BitVec.ofNat 64 (s.slotField r.slot 0 8)
  let ends := fun (e : Cause) => r.failWith ⟨0, e.code, 0, 255, 255, 255, e.xtval 0 0 0, 0, ga⟩
  let invalid := r.failWith (FaultRec.bare 1 0 0)
  match s.feLoad c (ga + 16) 4 with
  | .trap e t => (t, ends e)
  | .wait _ => (s, invalid)
  | .ok size _ =>
    match graphSize size, s.heapKey c r.snapa size with
    | true, some key =>
      match s.check s.feEnv (1152 + s.fe.primary) .load (ga + c.heapoff) size with
      | .ok parts =>
        match s.feRead parts ga with
        | (s, _, some e) => (s, ends e)
        | (s, bytes, none) =>
          let s := s.storeBytes key true bytes
          (s, if (Graph.ofMem s.mem key).ok c then { r with st := 3 } else invalid)
      | .trap e t => (t, ends e)
      | .wait _ => (s, invalid)
    | _, _ => (s, invalid)

/-- Steps 2 to 4 of R365: generation, record and journal, the snapshot, and the replay runs. -/
def State.startReplay (s : State) (slot jrec gen : Nat) : State :=
  let s := s.tick
  let s := s.journalSlot slot 2 jrec gen
  let r := s.newReplay slot jrec gen
  let s := s.journalReplay r
  let (s, r) := s.snapshot r
  let s := (s.journalReplay { r with st := if r.fault.isSome then 4 else 3 }).journalSlot slot 3 jrec gen
  { s with pow := { s.pow with st := .run }, fe := { s.fe with
      slots := Table.set s.fe.slots slot { s.fe.slot slot with gen := gen }
      active := s.fe.active ||| slotBit slot
      taken := s.fe.taken &&& ~~~slotBit slot } }

/-- The addresses of a snapshot wait for a claimed granule (03 R132). -/
def State.snapshotWaits (s : State) (slot : Nat) : Bool :=
  let c := (s.ctxOf (s.slotField slot 24 1)).live
  let w := fun (off : Nat) => BitVec.ofNat 64 (s.slotField slot off 8)
  match s.feLoad c (w 0 + 16) 4 with
  | .wait _ => true
  | .trap _ _ => false
  | .ok n _ =>
    if graphSize n then
      (s.check s.feEnv (1152 + s.fe.primary) .load (w 0 + c.heapoff) n).waits
        || (s.check s.feEnv (1152 + s.fe.primary) .store (w 8 + c.heapoff) n).waits
    else false

/-- A taken slot that no replay was started for is dropped, with the reason (13 R362, R364). -/
def State.dropKick (s : State) (slot e : Nat) : State :=
  { s with fe := { s.fe with
      slots := Table.set s.fe.slots slot { s.fe.slot slot with err := e }
      taken := s.fe.taken &&& ~~~slotBit slot } }

/-- A slot whose TAKEN bit is set goes on from its journal record (14 R397). -/
def State.resumeTaken (s : State) (slot : Nat) : State :=
  let t := s.fe.slot slot
  let done := decide (3 ≤ t.jst ∧ t.jseq ≤ s.fe.seq)
  let gen := if t.jst = 0 then nextGen t.jgen else t.jgen
  if done then { s with fe := { s.fe with taken := s.fe.taken &&& ~~~slotBit slot } }
  else
    match s.slotErr slot with
    | none => s
    | some 0 => if s.snapshotWaits slot then s else s.startReplay slot (if t.jst = 0 then s.freeRecord else t.jrec) gen
    | some e => s.dropKick slot e

/-- SLOT_TAKE's effect: the primary takes the next pending slot, or one whose TAKEN bit is set goes on (13 R362, R365; 14 R397).
While a take-over lasts, only the latter, and the pending slots are listed. -/
def State.slotTake (s : State) (slot : Nat) : State :=
  if s.fe.lost ∨ 1024 ≤ slot ∨ s.powered = false then s
  else if s.fe.takeover then (let s := s.listPending; if s.fe.taken.getLsbD slot then s.resumeTaken slot else s)
  else if s.fe.taken.getLsbD slot then s.resumeTaken slot
  else if s.nextSlot ≠ some slot then s
  else
    let go := { s with fe := { s.fe with
      pend := s.fe.pend &&& ~~~slotBit slot, lastTaken := slot, listed := s.fe.listed.map fun (l : List Nat) => l.filter (· != slot) } }
    match s.slotErr slot with
    | none => s
    | some 0 => if s.snapshotWaits slot then s else go.startReplay slot go.freeRecord (nextGen (go.fe.slot slot).jgen)
    | some e => go.dropKick slot e

/-- SLOT_TAKE: the primary takes a pending slot (13 R365). -/
def execSlotTake (slot : Nat) (s : State) : Host.Outcome State Fault Refusal := .next (s.slotTake slot)

/-- KICK: pending bits of the slots written as 1 (13 R361). -/
def execKick (w : BitVec 4) (bits : Word) (s : State) : Host.Outcome State Fault Refusal := .next (s.kick w.toNat bits)

/-- TAKE: a control hart's write to TAKE (13 R361). -/
def execTake (w : BitVec 4) (bits : Word) (s : State) : Host.Outcome State Fault Refusal := .next (s.take w.toNat bits)

/-! ### The end of a replay (13 R375, R376) -/

/-- The 64 bytes of a fault record. -/
def FaultRec.bytes (f : FaultRec) : List Byte :=
  leBytes 1 f.kind ++ leBytes 1 f.cause ++ leBytes 2 f.node ++ leBytes 1 f.die ++ leBytes 1 f.core ++ leBytes 1 f.hart
    ++ leBytes 1 0 ++ leBytes 8 f.xtval.toNat ++ leBytes 8 f.xepc.toNat ++ leBytes 8 f.detail.toNat ++ leBytes 32 0

/-- Bytes 2 to 127 of the completion record. -/
def Replay.record (r : Replay) (now : Word) : List Byte :=
  leBytes 1 (bit r.fault.isSome) ++ leBytes 1 (bit r.maxiter) ++ leBytes 4 r.fallback ++ leBytes 4 r.nrun ++ leBytes 4 r.nskip
    ++ leBytes 8 (now - r.start).toNat ++ leBytes 4 r.stfail ++ leBytes 36 0
    ++ (match r.fault with | some f => f.bytes | none => leBytes 64 0)

/-- A remote operation or collective of the context has not performed (03 R137; 07 R269). -/
def State.remoteLeft (s : State) (ctx : Nat) : Bool :=
  (s.peers.ops.any fun o => o.ctx == ctx) || s.cmds.any fun k => k.kind == .hod && k.env.ctx == ctx

/-- Every node of a replay has completed or been skipped. -/
def State.allDone (s : State) (r : Replay) : Bool :=
  match s.heapKey (s.ctxOf r.ctx).live r.snapa 128 with
  | none => false
  | some key => ((Graph.ofMem s.mem key).nodes).all r.done

/-- A hart that is halted in a block of a replay. -/
def Hart.haltedIn (h : Hart) (r : Replay) : Bool :=
  h.st == .halted && !h.isCtl && h.slot.toNat == r.slot && h.gen.toNat == r.gen

/-- A halted hart of a replay is reset when the replay ends (01 R56; log 20). -/
def Hart.endReplay (h : Hart) (r : Replay) : Hart :=
  if h.haltedIn r then { Hart.reset h.num with retired := h.retired } else h

/-- What is left of a replay that ended: its record, its entries, its packets and its failures go, and its slot is free
(10 R337, R338). -/
def State.clearReplay (s : State) (r : Replay) : State :=
  let mine := fun (l : Launch) => l.slot == r.slot && l.gen == r.gen
  let t := s.fe.slot r.slot
  let s : State := { s with
    hart := s.hart.endReplay r
    parked := s.parked.map fun (n, h) => (n, h.endReplay r)
    fe := { s.fe with
      mortar := s.fe.mortar.filter fun m => !(m.slot == r.slot && m.gen == r.gen)
      launches := s.fe.launches.filter fun l => !mine l
      sent := s.fe.sent.filter fun l => !mine l
      copyEnds := s.fe.copyEnds.filter fun (a, _, g, _, _) => !(a == r.slot && g == r.gen)
      active := s.fe.active &&& ~~~slotBit r.slot
      waiting := s.fe.waiting ++ s.hartsThat fun h => h.haltedIn r
      slots := Table.set s.fe.slots r.slot { t with ended := (t.ended + 1) % 2 ^ 64 } }
    peers := { s.peers with failures := s.peers.failures.filter fun f => !(f.slot == r.slot && f.gen == r.gen) } }
  ((s.journalSlot r.slot 0 r.jrec r.gen).journalReplay { r with st := 0 })

/-- The replay may end: every node is done or a fault ended it, the context is not stopping or stopped, no remote operation is
outstanding, and no take-over holds the completion (13 R375, R378, R383). -/
def State.mayEnd (s : State) (r : Replay) : Bool :=
  (r.fault.isSome || s.allDone r) && !s.remoteLeft r.ctx && !s.fe.takeover && !s.fe.hold
    && s.cx.state r.ctx != 2 && s.cx.state r.ctx != 3

/-- The fault record of a remote operation of the replay that failed and that no RFLUSH took (07 R265; 13 R376). -/
def RemoteFailure.fault (f : RemoteFailure) : FaultRec :=
  ⟨4, f.status, f.node, f.hart / 96, f.hart / 4 % 24, f.hart % 4, (Cause.remote f.dev f.status).xtval 0 0 0, f.pc, 0⟩

/-- A replay that ends, with the oldest failure of its remote operations where no fault ended it (07 R265; 13 R376). -/
def State.withFailure (s : State) (r : Replay) : Replay :=
  match s.peers.failures.find? fun f => f.slot == r.slot && f.gen == r.gen with
  | some f => r.failWith f.fault
  | none => r

/-- REPLAY_END's effect (13 R375). A completion record that cannot be written is lost. -/
def State.replayEnd (s : State) (slot : Nat) : State :=
  match s.fe.live slot with
  | none => s
  | some r =>
    if s.mayEnd r = false ∨ s.powered = false then s
    else
      let s := s.tick
      let r := s.withFailure r
      let c := (s.ctxOf r.ctx).live
      match s.feStore c (r.compla + 2) (r.record s.clock) with
      | .wait _ => s
      | g =>
        let s := match g with | .ok _ t => t | _ => s
        let s := match s.feStore c r.compla (leBytes 2 r.gen) with | .ok _ t => t | _ => s
        let s := { s with host := { s.host with msix := s.host.msix ++ r.msix.toList } }
        let s := (s.clearReplay r).count 0x38
        let s := if r.fault.isSome then s.count 0x40 else s
        eachBit s.cx.busy State.startPreempt s

/-- REPLAY_END: the completion record is written (13 R375). -/
def execReplayEnd (slot : Nat) (s : State) : Host.Outcome State Fault Refusal := .next (s.replayEnd slot)

/-! ### The loss of a control hart (13 R378; 14 R395) -/

/-- HEARTBEAT_TIMEOUT: the hardware halts the primary and a take-over begins (13 R378). -/
def execHeartbeatTimeout (s : State) : Host.Outcome State Fault Refusal :=
  .next (if s.fe.lost ∨ s.fe.takeover ∨ 3 ≤ s.fe.primary then s
    else (s.putHart { s.hartAt (1152 + s.fe.primary) with st := .halted }).beginTakeover)

/-- TAKEOVER_TIMEOUT: a take-over that is not done in time is a front-end FATAL (13 R378). -/
def execTakeoverTimeout (s : State) : Host.Outcome State Fault Refusal := .next (if s.fe.takeover then s.loseFrontEnd else s)

/-- An uncorrectable error of control hart `n`'s memory: record 0x31, and the hart halts without entering its handler
(14 R395). -/
def State.controlError (s : State) (n : Nat) (addr : Word) (fetch : Bool) : State :=
  let h := s.hartAt (1152 + n)
  if 3 ≤ n ∨ h.st = .halted then s
  else
    let (s, i) := s.report 708 { code := 0x31, unit := n, adrk := 5, addr := addr, synd := BitVec.ofNat 64 n, master := h.master }
    let c := Cause.mcheckContained 708 i
    (s.putHart { h with
      st := .halted, xepc := h.pc, xcause := trapCause { word := 0, fetch := fetch } c
      xtval := c.xtval 0 h.mode h.vcfg }).controlHalted n

/-- CONTROL_HART_MEMORY_ERROR: an error that SECDED corrects is recorded (15 R408, code 0x30), another is FATAL for that control
hart (14 R395). -/
def execControlHartMemoryError (n : Nat) (addr : Word) (e : CtlError) (s : State) : Host.Outcome State Fault Refusal :=
  .next (if e ≠ .corrected then s.controlError n addr (e == .fetched)
    else if 3 ≤ n then s
    else (s.report 708 { code := 0x30, unit := n, adrk := 5, addr := addr, master := (s.hartAt (1152 + n)).master }).1)

/-- A halted control hart is reset and reloaded from the image that runs: if that is authentic and the self-test passes it
resumes its role, or is the standby where there is none; otherwise it stays halted until the next reset (13 R378; 14 R395). The
housekeeper is hart 2. -/
def State.controlReload (s : State) (n : Nat) (pass : Bool) : State :=
  let image := s.fw.image s.fw.booted
  if 3 ≤ n ∨ (s.hartAt (1152 + n)).st ≠ .halted ∨ s.fe.failedCtl.contains n ∨ (n = s.fe.primary ∧ n ≠ 2) then s
  else if pass = false ∨ s.fw.accepts image = false then
    { s with fe := { s.fe with failedCtl := n :: s.fe.failedCtl } }
  else
    let s := (s.loadCtl image n).putHart (Hart.reset (1152 + n))
    let f := { s.fe with fencedCtl := if s.fe.fencedCtl = some n then none else s.fe.fencedCtl }
    { s with fe :=
      if n = 2 then { f with housekeeper := true }
      else if f.standby = 3 ∧ f.takeover = false then { f with standby := n }
      else f }

/-- CONTROL_HART_RELOAD: a halted control hart comes back (13 R378). -/
def execControlHartReload (n : Nat) (pass : Bool) (s : State) : Host.Outcome State Fault Refusal :=
  .next (s.controlReload n pass)

end Sys2Proof.Machine
end

