-- ==== Sys2Proof/Machine/HostPorts.lean ====
section
/-! DEFINITION. The PCIe ports: which requests are supported, the inbound ordering point, and reads (13 R360, R386 to R388;
14 R400; 16 R435). -/

namespace Sys2Proof.Machine

/-! ### Which requests are supported (R360, R386, R387) -/

/-- The master identity of a function of a port (13 R385). -/
def hostMaster (port fn : Nat) : Nat := 2048 + port * 512 + fn

/-- The context that a virtual function is bound to (13 R379, R386). -/
def State.boundCtx (s : State) (port fn : Nat) : Option CtxRec :=
  (s.cx.ctxs.find? fun (_, c) => c.st != 0 && (if port = 0 then c.live.func0 else c.live.func1).getLsbD fn).map
    fun (_, c) => c.live

/-- A function may reach main memory: function 0 passes every table, a virtual function is checked with its context's
(13 R386). -/
def State.hostPasses (s : State) (port fn : Nat) (acc : Acc) : Bool :=
  if fn = 0 then true
  else decide (fn < 64) && ((s.boundCtx port fn).any fun c => s.tablePermits c.atmem (hostMaster port fn) acc)

/-- The host reaches a function of IOD0's window (13 R360). -/
def hostFn (off : Nat) : Option (Fn × Nat) :=
  match fnAt 0 off with
  | some (.inject, _) => none
  | some (.outWindow, _) => none
  | r => r

/-- A host request of `len` bytes is supported (13 R360, R386, R387). -/
def State.hostSupported (s : State) (port fn : Nat) (acc : Acc) (t : HostTarget) (len : Nat) : Bool :=
  match t with
  | .mem die off =>
    decide (die < 12 ∧ off + len ≤ s.memLimit die) && !s.fenced (dieKey die off) && s.hostPasses port fn acc
  | .window off =>
    decide (fn = 0 ∧ off + len ≤ 0x1000000) && ((List.range len).all fun i => (hostFn (off + i)).isSome)
  | .config off => acc == .load && decide (fn < 64 ∧ off + len ≤ 4096)

/-! ### Posted writes (R388, R400) -/

/-- The home of a target and the place of its first byte there: the key of main memory, or the window offset. -/
def placeOf : HostTarget → Nat × Nat
  | .mem die off => (die, dieKey die off)
  | .window off => (12, off)
  | .config off => (12, off)

/-- The pieces of a write, one for each 256-byte-aligned granule (R400). -/
def piecesFrom (home : Nat) : Nat → Nat → List Byte → List (Nat × Nat × List Byte)
  | 0, _, _ => []
  | fuel + 1, at_, bytes =>
    if bytes.isEmpty then []
    else
      let n := min (256 - at_ % 256) bytes.length
      (home, at_, bytes.take n) :: piecesFrom home fuel (at_ + n) (bytes.drop n)

/-- A port is served: it is not fenced, and the module is in P0 or P1 (15 R408; 16 R431). -/
def State.hostServed (s : State) (port : Nat) : Bool := decide (port < 2) && !s.host.down.contains port && s.powered

/-- A request to a window, or to any target in recovery, where only management traffic is served, before step 7 of the boot sequence
(13 R392; 16 R435). -/
def State.tooEarly (s : State) (t : HostTarget) : Bool :=
  s.fw.recovery || (!s.fw.served && (match t with | .window _ => true | _ => false))

/-- INBOUND_POSTED_WRITE's effect: a supported write is numbered and its pieces are staged; beyond 64 the link waits (R400). One that
comes too early has no effect (16 R435). -/
def State.postWrite (s : State) (port fn : Nat) (t : HostTarget) (data : List Byte) : State :=
  let queued := (s.host.inbound.filter fun w => w.port == port).length
  if s.hostServed port = false ∨ data.isEmpty ∨ 512 < data.length ∨ 64 ≤ queued ∨ s.tooEarly t
      ∨ s.hostSupported port fn .store t data.length = false then s
  else
    let n := Table.get s.host.nextNum port 0
    let ps := piecesFrom (placeOf t).1 data.length (placeOf t).2 data
    let w : Inbound := ⟨port, n, (ps.map Prod.fst).eraseDups, ps, [], []⟩
    { s with host := { s.host with inbound := s.host.inbound ++ [w], nextNum := Table.set s.host.nextNum port (n + 1) } }

/-- INBOUND_POSTED_WRITE: the ordering point numbers a write and stages its pieces (R400). -/
def execInboundPostedWrite (port fn : Nat) (tgt : HostTarget) (data : List Byte) (s : State) : Host.Outcome State Fault Refusal :=
  .next (s.postWrite port fn tgt data)

/-- A write has pieces at a home that have not performed. -/
def Inbound.staged (w : Inbound) (home : Nat) : Bool := w.pieces.any fun p => p.1 == home

/-- A write may perform at a home: every earlier write of the port has been acknowledged, or the write and every earlier one not yet
acknowledged touch one home only, the same, which has performed the earlier ones (R400). -/
def State.goAllowed (s : State) (w : Inbound) (home : Nat) : Bool :=
  (s.host.inbound.filter fun v => v.port == w.port && decide (v.num < w.num)).all fun v =>
    w.homes == [home] && v.homes == [home] && v.gone.contains home && !v.staged home

/-- A staged piece performs, at system scope. -/
def State.performPiece (s : State) (p : Nat × Nat × List Byte) : State :=
  let (home, k, bytes) := p
  if home = 12 then s.storeWindow false 0 k bytes bytes.length else s.storeBytes k true bytes

/-- A piece waits for a claim on its granule (03 R132). -/
def State.pieceWaits (s : State) (p : Nat × Nat × List Byte) : Bool := p.1 != 12 && s.claimed p.2.1 p.2.2.length

/-- A write in flight changed. -/
def State.setInbound (s : State) (w : Inbound) : State :=
  { s with host := { s.host with inbound := s.host.inbound.map fun v => if v.port = w.port ∧ v.num = w.num then w else v } }

/-- INBOUND_GO's effect: a home that the go has reached performs the write's pieces there: all of them, or only that at one position,
since the pieces of one write perform in any order (R400, R403). -/
def State.inboundGo (s : State) (port num home : Nat) (only : Option Nat) : State :=
  match s.host.inbound.find? fun w => w.port == port && w.num == num with
  | none => s
  | some w =>
    let here := w.pieces.filter fun p => p.1 == home
    let ps := match only with | none => here | some i => here[i]?.toList
    if ps = [] ∨ s.goAllowed w home = false ∨ ps.any s.pieceWaits then s
    else
      let gone := if w.gone.contains home then w.gone else w.gone ++ [home]
      ps.foldl State.performPiece (s.setInbound { w with gone := gone, pieces := w.pieces.filter fun p => !ps.contains p })

/-- INBOUND_GO: a home performs staged pieces of a write (R400). -/
def execInboundGo (port num : Nat) (go : Go) (s : State) : Host.Outcome State Fault Refusal :=
  .next (s.inboundGo port num go.home go.only)

/-- INBOUND_ACKNOWLEDGEMENT's effect: a home that has performed acknowledges, and a write that every home has acknowledged is
done (R400). -/
def State.inboundAck (s : State) (port num home : Nat) : State :=
  match s.host.inbound.find? fun w => w.port == port && w.num == num with
  | none => s
  | some w =>
    if w.gone.contains home = false ∨ w.staged home ∨ w.acked.contains home then s
    else
      let w := { w with acked := w.acked ++ [home] }
      if w.homes.all fun h => w.acked.contains h then
        { s with host := { s.host with inbound := s.host.inbound.filter fun v => !(v.port == port && v.num == num) } }
      else s.setInbound w

/-- INBOUND_ACKNOWLEDGEMENT: the ordering point receives an acknowledgement (R400). -/
def execInboundAcknowledgement (port num home : Nat) (s : State) : Host.Outcome State Fault Refusal :=
  .next (s.inboundAck port num home)

/-! ### Reads (R388) -/

/-- The bytes of a read of main memory; what a read of poisoned bytes returns is free (15 R413). -/
def State.hostBytes (s : State) (k len : Nat) : State × List Byte :=
  let (s, bad) := s.readCheck k len
  if bad.isSome then
    ({ s with ticks := s.ticks + 1 }, (List.range len).map fun i => BitVec.ofNat 8 (Config.freeValue 40 (s.ticks * 4096 + i)))
  else (s, Memory.readBytes s.mem k len)

/-- HOST_READ_REQUEST's effect: once every earlier posted write of the port has been acknowledged, the read completes, with none
for an unsupported request (R388) or one that comes too early (13 R392). A claim on a granule delays it (03 R132). A configuration read
completes with Request Retry Status before step 7 of the boot sequence, in recovery too (16 R435), and later with bytes that the spec
does not lay out (log 71). -/
def State.hostRead (s : State) (port fn : Nat) (t : HostTarget) (len : Nat) : State :=
  let reply := fun (s : State) (r : Option (List Byte)) => { s with host := { s.host with replies := s.host.replies ++ [r] } }
  if s.hostServed port = false ∨ len = 0 ∨ 4096 < len ∨ s.host.inbound.any fun w => w.port == port then s
  else if s.hostSupported port fn .load t len = false then reply s none
  else
    match t with
    | .window off =>
      if s.tooEarly t then reply s none
      else reply s (some ((List.range len).map fun i =>
        match hostFn (off + i) with
        | some (f, o) => s.windowByte 0 f o
        | none => 0))
    | .config off =>
      if s.fw.served = false ∨ s.fw.recovery then { s with host := { s.host with retries := s.host.retries + 1 } }
      else
        reply { s with ticks := s.ticks + 1 } (some ((List.range len).map fun i =>
          BitVec.ofNat 8 (Config.freeValue 49 (s.ticks * 4096 + off + i))))
    | .mem die off =>
      if s.tooEarly t then reply s none
      else if s.claimed (dieKey die off) len then s
      else
        let (s, bytes) := s.hostBytes (dieKey die off) len
        reply s (some bytes)

/-- HOST_READ_REQUEST: a host read completes after the port's earlier writes (R388). -/
def execHostReadRequest (port fn : Nat) (tgt : HostTarget) (len : Nat) (s : State) : Host.Outcome State Fault Refusal :=
  .next (s.hostRead port fn tgt len)

end Sys2Proof.Machine
end

