-- ==== Sys2Proof/Machine/Nodes.lean ====
section
/-! DEFINITION. The evaluation of nodes: kernels and their launch packets, copies, branches, loops, events, self-tests and the end
node, and the completion of nodes (10 R328, R333 to R340; 13 R370 to R374). -/

namespace Sys2Proof.Machine

/-! ### Whose turn it is (R370) -/

/-- A running replay whose context is active: its graph and its context (13 R370, R383). -/
def State.runningGraph (s : State) (slot : Nat) : Option (Replay × Graph × CtxRec) :=
  match s.fe.live slot with
  | none => none
  | some r =>
    let c := (s.ctxOf r.ctx).live
    if r.st ≠ 3 ∨ r.fault.isSome ∨ s.fe.lost ∨ s.cx.state r.ctx ≠ 1 ∨ s.powered = false then none
    else (s.heapKey c r.snapa 128).map fun k => (r, Graph.ofMem s.mem k, c)

/-- A replay whose nodes the primary evaluates now (13 R370, R378). -/
def State.evaluating (s : State) (slot : Nat) : Option (Replay × Graph × CtxRec) :=
  if s.fe.takeover ∨ s.fe.hold then none else s.runningGraph slot

/-- The dispatchers hold their completion reports: during a take-over, until the standby has acted on every TAKEN slot and asks for
them again (13 R378, steps 2 and 6; 14 R398). -/
def State.reportsHeld (s : State) : Bool := (s.fe.takeover || s.fe.hold) && !(s.fe.takeover && s.fe.taken == 0)

/-- The copy engine that serves a copy node: among the context's cores on a die, the one with the fewest queued commands, the
lowest where several have (R370). -/
def State.copyCore (s : State) (c : CtxRec) (die : Nat) : Option Nat :=
  ((List.range 24).map (die * 24 + ·)).foldl (fun best k =>
    if !c.cores.contains k then best
    else
      match best with
      | none => some k
      | some b => if (s.copyQueue k).length < (s.copyQueue b).length then some k else some b) none

/-- An eligible copy node waits while the queue it goes to is full. -/
def State.copyWaits (s : State) (g : Graph) (c : CtxRec) (i : Nat) : Bool :=
  g.kind i == 2 && ((s.copyCore c (g.node i 41 1)).any fun k => decide (32 ≤ (s.copyQueue k).length))

/-- Node `i` is the lowest eligible node, and of a kind (R370). -/
def State.nodeTurn (s : State) (r : Replay) (g : Graph) (c : CtxRec) (kind i : Nat) : Bool :=
  g.kind i == kind && g.eligible r i && (List.range i).all fun j => !g.eligible r j || s.copyWaits g c j

/-- A launch fault, or a trap of the front end's access for a node, aborts the replay (R338, R340, R376). -/
def State.abortNode (s : State) (r : Replay) (kind cause i : Nat) (xtval detail : Word) : State :=
  s.abort r.slot r.gen ⟨kind, cause, i, 255, 255, 255, xtval, 0, detail⟩

/-- The front end reads the word that a node names, and goes on with it (R370). -/
def State.readWord (s : State) (r : Replay) (g : Graph) (c : CtxRec) (i : Nat) (k : Nat → State → State) : State :=
  let va := BitVec.ofNat 64 (g.node i 32 8)
  match s.feLoad c va 8 with
  | .ok v t => k v t
  | .wait _ => s
  | .trap e t => t.abortNode r 0 e.code i (e.xtval 0 0 0) va

/-- A step on a node whose turn it is. -/
def State.onNode (s : State) (slot i kind : Nat) (f : Replay → Graph → CtxRec → State) : State :=
  match s.evaluating slot with
  | none => s
  | some (r, g, c) => if s.nodeTurn r g c kind i then f r g c else s

/-! ### Branches, loops, events and the end (R370, R371) -/

/-- CONDITIONAL_NODE: the node reads its word and enters one range (R370). -/
def execConditionalNode (slot node : Nat) (s : State) : Host.Outcome State Fault Refusal :=
  .next (s.onNode slot node 3 fun r g c => s.readWord r g c node fun v s =>
    s.journalReplay ((g.enter r node ((g.ranges node)[if v ≠ 0 then 0 else 1]?)).completeNode node))

/-- SWITCH_NODE: the node enters case min(k, NCASE − 1) (R370). -/
def execSwitchNode (slot node : Nat) (s : State) : Host.Outcome State Fault Refusal :=
  .next (s.onNode slot node 5 fun r g c => s.readWord r g c node fun v s =>
    s.journalReplay ((g.enter r node ((g.ranges node)[min v (g.node node 40 1 - 1)]?)).completeNode node))

/-- LOOP_NODE: a word of zero skips the body, any other enters it with count 1 (R370). -/
def execLoopNode (slot node : Nat) (s : State) : Host.Outcome State Fault Refusal :=
  .next (s.onNode slot node 4 fun r g c => s.readWord r g c node fun v s =>
    if v = 0 then s.journalReplay ((g.enter r node none).completeNode node)
    else
      let r := (g.enter r node ((g.ranges node)[0]?)).setNode node 2
      s.journalReplay { r with loops := Table.set r.loops (g.node node 48 1) 1 })

/-- The body of an entered loop has completed: it runs again, or the loop node completes (R371). -/
def State.loopEnd (s : State) (slot i : Nat) : State :=
  match s.evaluating slot with
  | none => s
  | some (r, g, c) =>
    let (lo, hi) := (g.ranges i).headD (0, 0)
    let ix := g.node i 48 1
    let n := Table.get r.loops ix 0
    if g.kind i ≠ 4 ∨ r.nodeSt i ≠ 2 ∨ (List.range (hi - lo)).any (fun d => !r.done (lo + d)) then s
    else
      s.readWord r g c i fun v s =>
        if v ≠ 0 ∧ n < g.node i 44 4 then
          let r := r.reenter lo hi
          s.journalReplay { r with loops := Table.set r.loops ix (n + 1) }
        else s.journalReplay { r.completeNode i with maxiter := r.maxiter || v != 0 }

/-- LOOP_BODY_END: the loop's word is read again (R371). -/
def execLoopBodyEnd (slot node : Nat) (s : State) : Host.Outcome State Fault Refusal := .next (s.loopEnd slot node)

/-- One read of an event wait: at its turn, or again once it waits (R370). -/
def State.eventWait (s : State) (slot i : Nat) : State :=
  match s.evaluating slot with
  | none => s
  | some (r, g, c) =>
    if g.kind i = 6 ∧ g.node i 48 1 = 0 ∧ (s.nodeTurn r g c 6 i ∨ (r.nodeSt i = 2 ∧ i < g.nnode)) then
      s.readWord r g c i fun v s =>
        if v ≠ g.node i 40 8 then s.journalReplay (r.completeNode i)
        else if r.nodeSt i = 2 then s else s.journalReplay (r.setNode i 2)
    else s

/-- EVENT_WAIT_NODE: the node reads its word until it differs (R370). -/
def execEventWaitNode (slot node : Nat) (s : State) : Host.Outcome State Fault Refusal := .next (s.eventWait slot node)

/-- EVENT_SIGNAL_NODE: the node stores VALUE and may send MSI-X (R370). -/
def execEventSignalNode (slot node : Nat) (s : State) : Host.Outcome State Fault Refusal :=
  .next (s.onNode slot node 6 fun r g c =>
    let va := BitVec.ofNat 64 (g.node node 32 8)
    if g.node node 48 1 ≠ 1 then s
    else
      match s.feStore c va (leBytes 8 (g.node node 40 8)) with
      | .wait _ => s
      | .trap e t => t.abortNode r 0 e.code node (e.xtval 0 0 0) va
      | .ok _ t =>
        let t := t.journalReplay (r.completeNode node)
        if g.node node 49 1 = 1 then { t with host := { t.host with msix := t.host.msix ++ [g.node node 50 2] } } else t)

/-- END_NODE: every node not yet launched is skipped (R370). -/
def execEndNode (slot node : Nat) (s : State) : Host.Outcome State Fault Refusal :=
  .next (s.onNode slot node 8 fun r g _ =>
    s.journalReplay ((List.range node).foldl (fun r j => g.skip g.nnode r j) (r.completeNode node)))

/-- SELF_TEST_NODE: the named cores that the context holds take their tests; the node waits while one of them is in another
test (R372; 15 R416). A reserved TESTSEL ends at once. -/
def execSelfTestNode (slot node : Nat) (s : State) : Host.Outcome State Fault Refusal :=
  .next (s.onNode slot node 7 fun r g c =>
    let sel := g.node node 40 1
    let cores := c.cores.filter fun k => (g.node node 32 2).testBit (k / 24) && (g.node node 36 4).testBit (k % 24)
    if cores.any fun k => (Table.find? s.rel.tests k).isSome then s
    else if cores = [] ∨ 3 ≤ sel then s.journalReplay (r.completeNode node)
    else
      let ts := cores.foldl (fun t k => Table.set t k ⟨sel, false, some (slot, node, r.gen)⟩) s.rel.tests
      { s with rel := { s.rel with tests := ts } }.journalReplay (r.setNode node 2))

/-! ### Kernel nodes (R328, R333, R340, R373) -/

/-- The environment in which the front end reads kernel records: the context's tables, as the primary control hart
(13 R386). -/
def State.recordEnv (s : State) (c : CtxRec) (ctx : Nat) : Env where
  heapbase := c.heapbase
  heaplim := c.heaplim
  heapoff := c.heapoff
  ptroot := c.ptroot
  ctxcfg := c.ctxcfg
  atmem := 0
  atscr := 0
  atiod := 0
  core := 0
  ctx := ctx
  master := s.feEnv.master
  user := false
  ctl := none

/-- Bytes of a kernel record; a scratchpad holds none. -/
def State.recordLoad (s : State) (c : CtxRec) (ctx : Nat) (va : Word) (len : Nat) : Got :=
  let e := s.recordEnv c ctx
  match e.space va with
  | .scratch _ => .trap (.access va) s
  | _ =>
    match s.check e (1152 + s.fe.primary) .load va len with
    | .trap c s => .trap c s
    | .wait on => .wait on
    | .ok parts =>
      match s.feRead parts va with
      | (s, bytes, none) => .ok (leNat bytes) s
      | (s, _, some c) => .trap c s

/-- A kernel record: its first 128 bytes and its declarations, as numbers (04 R172). -/
structure KernelRec where
  head : Nat
  decls : List Nat
  deriving DecidableEq, Repr

/-- `n` bytes of the record's head. -/
def KernelRec.at (k : KernelRec) (off n : Nat) : Nat := bitsOf k.head (8 * off) (8 * n)

/-- The number of read, write and mesh declarations. -/
def KernelRec.counts (k : KernelRec) : Nat × Nat × Nat := (k.at 56 1, k.at 57 1, k.at 58 1)

/-- The record has the form of R172. -/
def KernelRec.legal (k : KernelRec) : Bool :=
  decide (k.at 0 4 = 0x4C4E524B ∧ k.at 4 2 = 1 ∧ k.at 6 2 < 4 ∧ k.at 56 1 ≤ 8 ∧ k.at 57 1 ≤ 8 ∧ k.at 59 5 = 0 ∧ k.at 96 32 = 0)

/-- Declaration `j` of a record has its form: KIND 1, 2 or 3 as it is a read, a write or a mesh, byte 1 zero, and COUNT 0 for a
mesh (R172). -/
def KernelRec.declOk (k : KernelRec) (j : Nat) : Bool :=
  let (nr, nw, _) := k.counts
  let w := k.decls.getD j 0
  let kind := if j < nr then 1 else if j < nr + nw then 2 else 3
  bitsOf w 0 8 == kind && bitsOf w 8 8 == 0 && (kind != 3 || bitsOf w 32 32 == 0)

/-- What building a launch may end with: a trap of an access at an address, a launch check, an invalid record, or a wait. -/
inductive LaunchStop where
  | trap (c : Cause) (va : Word)
  | check (n : Nat)
  | invalid
  | wait
  deriving DecidableEq, Repr

/-- A computation that builds a launch. -/
abbrev Build := ExceptT LaunchStop (StateM State)

/-- A read of a launch. -/
def Build.got (va : Word) (f : State → Got) : Build Nat := do
  match f (← get) with
  | .ok v s => set s; return v
  | .trap c s => set s; throw (.trap c va)
  | .wait _ => throw .wait

/-- A kernel record at an address. -/
def Build.record (c : CtxRec) (ctx : Nat) (va : Word) : Build KernelRec := do
  let k : KernelRec := ⟨← Build.got va fun s => s.recordLoad c ctx va 128, []⟩
  if k.legal = false then throw .invalid
  else
    let (nr, nw, nm) := k.counts
    let ds ← (List.range (nr + nw + nm)).mapM fun (j : Nat) =>
      let a := va + BitVec.ofNat 64 (128 + 16 * j)
      Build.got a fun s => s.recordLoad c ctx a 16
    let k := { k with decls := ds }
    if (List.range ds.length).all k.declOk then return k else throw .invalid

/-- A word of the snapshot. -/
def Build.word (c : CtxRec) (va : Word) : Build Nat := Build.got va fun s => s.feLoad c va 8

/-- A launch check: one that fails stops the launch (R340, R376). -/
def Build.require (ok : Bool) (n : Nat) : Build Unit := if ok then pure () else throw (.check n)

/-- The partition vector meets R328. -/
def partitionOk (lo hi grain : Nat) (p : List Nat) : Bool :=
  grain != 0 && (decide (hi ≤ lo) ||
    (p.headD 0 == lo && (List.zip p (p.drop 1 ++ [hi])).all (fun (a, b) => decide (a ≤ b))
      && p.all fun x => x == hi || (x - lo) % grain == 0))

/-- The tiles of a declaration over `n` grains lie in its set (04 R170). -/
def declFits (d : Decl) (n : Nat) : Bool :=
  n == 0 || d.count == 0 ||
    (let last : Int := d.base + d.stride * ((n : Int) - 1)
     decide (0 ≤ min d.base last ∧ max d.base last + d.count ≤ d.tsCount))

/-- Declaration `j` of a node, reads first, with its tile set (04 R172; 13 R368); none where it names no set of the graph. -/
def Graph.declOf (g : Graph) (i nr : Nat) (k : KernelRec) (j : Nat) : Option Decl :=
  let w := k.decls.getD j 0
  let set := g.node i (160 + 2 * j) 2
  (g.tset set).map fun (base, count, bytes) =>
    { write := decide (nr ≤ j), idx := if j < nr then j else j - nr, set := set, count := bitsOf w 32 32
      base := toS 32 (bitsOf w 64 32), stride := toS 32 (bitsOf w 96 32), tsaddr := base, bytes := bytes, tsCount := count
      pnode := 0xFFFF, pdecl := 0, edge := 0 }

/-- A read declaration bound to its producer (R332, R333; R340 check 5). -/
def Build.bind (g : Graph) (c : CtxRec) (r : Replay) (i : Nat) (d : Decl) : Build Decl := do
  if d.write then return d
  else
    match g.binds.find? fun b => b.cons == i && b.rdecl == d.idx with
    | none => return d
    | some b =>
      Build.require (g.kind b.prod == 1) 5
      let p ← Build.record c r.ctx (BitVec.ofNat 64 (g.node b.prod 32 8))
      let (nr, nw, _) := p.counts
      Build.require (decide (b.pdecl < nw) && g.node b.prod (160 + 2 * (nr + b.pdecl)) 2 == d.set) 5
      return { d with pnode := b.prod, pdecl := b.pdecl, edge := if r.fell.contains (b.prod, b.pdecl) then 2 else 1 }

/-- A kernel node's launch packet for each die with a share (R328, R373; the checks of R340 in their order). -/
def Build.launch (g : Graph) (c : CtxRec) (r : Replay) (i : Nat) : Build (List Launch) := do
  let k ← Build.record c r.ctx (BitVec.ofNat 64 (g.node i 32 8))
  let (nr, nw, nm) := k.counts
  let param := r.snapa + BitVec.ofNat 64 (g.node i 48 8)
  let lo ← if k.at 6 2 % 2 = 1 then Build.word c (param + BitVec.ofNat 64 (k.at 16 8)) else pure (k.at 16 8)
  let hi ← if k.at 6 2 / 2 = 1 then Build.word c (param + BitVec.ofNat 64 (k.at 24 8)) else pure (k.at 24 8)
  let grain := k.at 32 8
  let p := (List.range 12).map fun d => g.node i (64 + 8 * d) 8
  Build.require (partitionOk lo hi grain p) 1
  let n := if lo < hi then (hi - lo + grain - 1) / grain else 0
  let ds := (List.range (nr + nw)).map (g.declOf i nr k)
  Build.require (ds.all fun d => d.any fun d => declFits d n) 2
  let scr := [k.at 44 4, k.at 48 4, k.at 52 4]
  Build.require (scr.all fun b => decide (b ≤ 524288)) 3
  let blkgr := g.node i 56 2
  Build.require (blkgr != 0) 4
  let decls ← (ds.filterMap id).mapM (Build.bind g c r i)
  Build.require (decide (nm ≤ 4)) 7
  let meshes ← (k.decls.drop (nr + nw)).mapM fun w => Build.word c (param + BitVec.ofNat 64 (bitsOf w 16 16))
  return (List.range 12).filterMap fun d =>
    let a := p.getD d 0
    let b := if d < 11 then p.getD (d + 1) 0 else hi
    if lo < hi ∧ a < b then
      some { die := d, slot := r.slot, node := i, gen := r.gen, ctx := r.ctx
             entry := BitVec.ofNat 64 (g.node i 40 8 + k.at 8 8), param := param, lo := lo, hi := hi, grain := grain
             blkgr := blkgr, decls := decls, meshes := meshes.map (BitVec.ofNat 64), scratch := scr
             pool := [⟨(a - lo) / grain, (b - lo + grain - 1) / grain, none⟩], running := 0, meshWait := [], reported := false }
    else none

/-- The tiles of a write declaration over a launch's grains (R333). -/
def Launch.tilesW (l : Launch) (d : Decl) : List Nat :=
  ((List.range l.grains).flatMap fun g => (d.tilesOf g).map Int.toNat).eraseDups

/-- Mortar entries are reserved for one write declaration, all or none; a declaration without entries is in fallback (R333). -/
def State.reserveDecl (s : State) (r : Replay) (l : Launch) (d : Decl) : State × Replay :=
  let w := l.tilesW d
  if s.fe.mortar.length + w.length ≤ 65536 then
    let es := w.map fun t => ⟨t, l.gen, l.node, l.slot, d.idx, r.jrec, l.ctx, false⟩
    ({ s with fe := { s.fe with mortar := s.fe.mortar ++ es } }, r)
  else (s.count 0x18, { r with fallback := r.fallback + 1, fell := (l.node, d.idx) :: r.fell })

/-- The entries of a node's earlier launch are cleared (R337). -/
def State.clearEntries (s : State) (slot node gen : Nat) : State :=
  { s with fe := { s.fe with mortar := s.fe.mortar.filter fun m => !(m.slot == slot && m.node == node && m.gen == gen) } }

/-- The entries of a node's earlier launch are cleared, and those of this launch reserved (R333, R337). -/
def State.reserve (s : State) (r : Replay) (l : Launch) : State × Replay :=
  (l.decls.filter Decl.write).foldl (fun (s, r) d => s.reserveDecl r l d)
    (s.clearEntries l.slot l.node l.gen, { r with fell := r.fell.filter fun (n, _) => n != l.node })

/-- The packets of a node have been built: entries are reserved, the node is journaled as launching, and the packets are sent;
without a share it completes at once, with the entries of an earlier launch cleared (R328, R333, R337; R377). -/
def State.sendLaunch (s : State) (r : Replay) (i : Nat) (ls : List Launch) : State :=
  match ls with
  | [] => (s.clearEntries r.slot i r.gen).journalReplay (r.completeNode i)
  | l :: _ =>
    let (s, r) := s.reserve r l
    let s := s.journalReplay (r.setNode i 1)
    { s with fe := { s.fe with sent := s.fe.sent ++ ls } }

/-- The node launches no more than once at a time: no packet of it is held, and no consumer of an earlier launch runs (R337,
R373). -/
def State.relaunchWaits (s : State) (r : Replay) (g : Graph) (i : Nat) : Bool :=
  ((s.fe.launches ++ s.fe.sent).any fun l => l.slot == r.slot && l.node == i && l.gen == r.gen)
    || g.binds.any fun b => b.prod == i && (r.nodeSt b.cons == 1 || r.nodeSt b.cons == 2)

/-- KERNEL_NODE_LAUNCH's effect (R370, R373). -/
def State.kernelLaunch (s : State) (slot i : Nat) : State :=
  s.onNode slot i 1 fun r g c =>
    if s.relaunchWaits r g i then s
    else
      match Build.launch g c r i s with
      | (.ok ls, t) => t.sendLaunch r i ls
      | (.error .wait, _) => s
      | (.error (.trap e va), t) => t.abortNode r 0 e.code i (e.xtval 0 0 0) va
      | (.error (.check n), t) => t.abortNode r 2 n i 0 0
      | (.error .invalid, t) => t.abortNode r 1 0 i 0 0

/-- KERNEL_NODE_LAUNCH: an eligible kernel node launches (R370). -/
def execKernelNodeLaunch (slot node : Nat) (s : State) : Host.Outcome State Fault Refusal := .next (s.kernelLaunch slot node)

/-- The topology commands of a die that name a mesh of a launch (08 R285). -/
def State.meshCommands (s : State) (l : Launch) : List Nat :=
  (s.cmds.filter fun k => k.kind == .topology && k.unit == l.die && k.env.ctx == l.ctx
    && l.meshes.any fun a => bitsOf (leNat k.block) 128 64 == a.toNat
        || (k.op == 6 && bitsOf (leNat k.block) 192 64 == a.toNat)).map Command.id

/-- LAUNCH_PACKET's effect: the packet that reaches a die next is accepted, or ignored as a duplicate; when the last of a node is
accepted, the node is journaled as launched (R373, R377). Packets reach a dispatcher in the order sent; those of a context that is not
active stay with the front end until it runs again (DEDUCED: a message of an active context waits for none that is stopped,
log 26). -/
def State.acceptPacket (s : State) (die slot i : Nat) : State :=
  match s.fe.sent.find? fun l => l.die == die && s.cx.state l.ctx == 1 with
  | none => s
  | some l =>
    if l.slot ≠ slot ∨ l.node ≠ i ∨ s.fe.lost then s
    else
      let sent := s.fe.sent.filter fun k => !k.same l
      let held := s.fe.launches.any fun k => k.same l
      let ls := if held then s.fe.launches else s.fe.launches ++ [{ l with meshWait := s.meshCommands l }]
      let s := { s with fe := { s.fe with sent := sent, launches := ls } }
      if sent.any fun k => k.slot == slot && k.node == i && k.gen == l.gen then s
      else
        match s.replayOf slot l.gen with
        | some r => if r.nodeSt i = 1 then s.journalReplay (r.setNode i 2) else s
        | none => s

/-- LAUNCH_PACKET: a die dispatcher accepts a launch packet (R373). -/
def execLaunchPacket (die slot node : Nat) (s : State) : Host.Outcome State Fault Refusal := .next (s.acceptPacket die slot node)

/-! ### Copy nodes (R370) -/

/-- An address of S1 or S2. -/
def inS1S2 (a : Nat) : Bool :=
  decide ((levelBase .s1 ≤ a ∧ a < levelBase .s1 + levelSize .s1) ∨ (levelBase .s2 ≤ a ∧ a < levelBase .s2 + levelSize .s2))

/-- The hart that stands for the issuer of a copy node's command at a core. -/
def copyIssuer (core : Nat) (c : CtxRec) (r : Replay) (i : Nat) : Hart :=
  { (Hart.reset (4 * core)).loadContext r.ctx c with block := some ⟨r.slot, i, r.gen, 0, 0⟩ }

/-- The command of a copy node is issued and checked at a core (R370; 07 R257, R259). -/
def State.issueCopy (s : State) (r : Replay) (c : CtxRec) (i core op : Nat) (va : Word) : State :=
  match Act.copy op va none { s with hart := copyIssuer core c r i } with
  | (.ok _, t) =>
    let t : State := { t with
      hart := s.hart, cmds := t.cmds.map fun k => if k.id = s.stamp then { k with hart := copyNodeHart } else k }
    t.journalReplay (r.setNode i 2)
  | (.error (.trap e), t) => { t with hart := s.hart }.abortNode r 0 e.code i (e.xtval 0 0 0) va
  | (.error (.keep e), t) => { t with hart := s.hart }.abortNode r 0 e.code i (e.xtval 0 0 0) va
  | (.error _, _) => s

/-- COPY_NODE's effect: the command goes to a copy engine of the context on the node's die; an address of S1 or S2, or a die on
which the context holds no core, is launch check 6 (R370, R376). -/
def State.copyNode (s : State) (slot i : Nat) : State :=
  s.onNode slot i 2 fun r g c =>
    let va := r.snapa + BitVec.ofNat 64 (g.node i 32 8)
    let op := g.node i 40 1
    match s.feLoad c va 64 with
    | .wait _ => s
    | .trap e t => t.abortNode r 0 e.code i (e.xtval 0 0 0) va
    | .ok h t =>
      if inS1S2 (bitsOf h 0 64) ∨ inS1S2 (bitsOf h 64 64) ∨ (2 ≤ op ∧ inS1S2 (bitsOf h 256 64)) then t.abortNode r 2 6 i 0 va
      else
        match t.copyCore c (g.node i 41 1) with
        | none => t.abortNode r 2 6 i 0 va
        | some core => t.issueCopy r c i core op va

/-- COPY_NODE: a copy node's command is issued (R370). -/
def execCopyNode (slot node : Nat) (s : State) : Host.Outcome State Fault Refusal := .next (s.copyNode slot node)

/-! ### Completion of nodes (R336; R377) -/

/-- Every range task and every engine command of a kernel node has completed, remote operations and collectives apart (R370;
07 R260, R269). -/
def State.kernelDone (s : State) (r : Replay) (i : Nat) : Bool :=
  let mine := fun (l : Launch) => l.slot == r.slot && l.node == i && l.gen == r.gen
  !(s.fe.sent.any mine) && (s.fe.launches.all fun l => !mine l || (l.pool.isEmpty && l.running == 0))
    && !(s.cmds.any fun k => k.launch == some (r.slot, i, r.gen) && k.kind != .hod)

/-- A kernel node completes: its entries are set, and each die holds its report until the acknowledgement (R336; R377). -/
def State.kernelCompletes (s : State) (r : Replay) (i : Nat) : State :=
  let s : State := { s with fe := { s.fe with
    mortar := s.fe.mortar.map fun m => if m.slot = r.slot ∧ m.node = i ∧ m.gen = r.gen then { m with isSet := true } else m
    launches := s.fe.launches.map fun l =>
      if l.slot = r.slot ∧ l.node = i ∧ l.gen = r.gen then { l with reported := true } else l } }
  s.journalReplay (r.completeNode i)

/-- A copy node's command has ended: the node completes, or a status that is not 0 ends the replay (R370, R376). -/
def State.copyCompletes (s : State) (r : Replay) (i : Nat) : State :=
  match s.fe.copyEnds.find? fun (a, n, g, _, _) => a == r.slot && n == i && g == r.gen with
  | none => s
  | some (_, _, _, st, va) =>
    let s := { s with fe := { s.fe with
      copyEnds := s.fe.copyEnds.filter fun (a, n, g, _, _) => !(a == r.slot && n == i && g == r.gen) } }
    if st = 0 then s.journalReplay (r.completeNode i) else s.abortNode r 3 st i 0 va

/-- NODE_COMPLETION's effect: a launched kernel, copy or self-test node whose work is done completes (R336, R370, R372). -/
def State.nodeCompletes (s : State) (slot i : Nat) : State :=
  match s.runningGraph slot with
  | none => s
  | some (r, g, _) =>
    if s.reportsHeld ∨ r.nodeSt i ≠ 2 then s
    else if g.kind i = 1 then (if s.kernelDone r i then s.kernelCompletes r i else s)
    else if g.kind i = 2 then s.copyCompletes r i
    else if g.kind i = 7 then
      (if s.rel.tests.any fun (_, t) => t.node == some (slot, i, r.gen) then s else s.journalReplay (r.completeNode i))
    else s

/-- NODE_COMPLETION: a node completes, and its completion is journaled (R336). -/
def execNodeCompletion (slot node : Nat) (s : State) : Host.Outcome State Fault Refusal := .next (s.nodeCompletes slot node)

/-- COMPLETION_ACKNOWLEDGE: a die discards the packet of a reported node (R373, R377). -/
def execCompletionAcknowledge (die slot node : Nat) (s : State) : Host.Outcome State Fault Refusal :=
  .next (if s.reportsHeld then s
    else { s with fe := { s.fe with
      launches := s.fe.launches.filter fun l => !(l.die == die && l.slot == slot && l.node == node && l.reported) } })

end Sys2Proof.Machine
end

