-- ==== Sys2Proof/Machine/Service.lean ====
section
/-! DEFINITION. Memory service and management: commands of the housekeeper, injection, channels, patrol, back-off, retention,
ports (13 R390, R391; 15 R408, R415, R418 to R426, R428). -/

namespace Sys2Proof.Machine

/-! ### Management commands (R428) -/

/-- A request is answered; none says that it completed with error. -/
def State.respond (s : State) (r : Option (List Byte)) : State := { s with host := { s.host with replies := s.host.replies ++ [r] } }

/-- A management command: carried out where it is permitted, a housekeeper serves it and it came in an SPDM secured session, else it
completes with error and changes nothing (R428; 13 R393; 14 R395). -/
def State.manage (s : State) (permitted : Bool) (f : State → State) (reply : List Byte := []) : State :=
  if s.pow.st = .off then s
  else if permitted ∧ s.fe.housekeeper ∧ s.fw.session then (f s).respond (some reply)
  else s.respond none

/-- A bank holds a CONTAINED or FATAL record at an index. -/
def Bank.held (k : Bank) (idx : Nat) : Bool := (Table.find? k.recs idx).any fun r => r.valid && r.cls != 0

/-- V of a record is cleared; its other fields stay (R428). -/
def Bank.release (k : Bank) (idx : Nat) : Bank :=
  { k with recs := (Table.find? k.recs idx).elim k.recs fun r => Table.set k.recs idx { r with valid := false } }

/-- RELEASE_RECORD: clears V of a CONTAINED or FATAL record (R428). -/
def execReleaseRecord (bank idx : Nat) (s : State) : Host.Outcome State Fault Refusal :=
  .next (s.manage (decide (bank < 728 ∧ idx < 30) && (s.bank bank).held idx)
    fun s => s.setBank bank ((s.bank bank).release idx))

/-- RETIRE_CHANNEL: declares a channel failed (R428). -/
def execRetireChannel (die ch : Nat) (s : State) : Host.Outcome State Fault Refusal :=
  .next (s.manage (decide (die < 12 ∧ ch < 32 ∧ (s.memSt die).mode ≠ 5) && !(s.memSt die).failmask.getLsbD ch)
    fun s => s.failChannel die ch)

/-- RELEASE_RESERVE: releases a die's reserve in mode 0 (R426). -/
def execReleaseReserve (die : Nat) (s : State) : Host.Outcome State Fault Refusal :=
  .next (s.manage (decide (die < 12 ∧ (s.memSt die).mode = 0)) fun s => s.onMem die fun m => { m with rsvheld := false })

/-- SET_PATROL: PATROL from the next period (R428). -/
def execSetPatrol (die hours : Nat) (s : State) : Host.Outcome State Fault Refusal :=
  .next (s.manage (decide (die < 12 ∧ 1 ≤ hours ∧ hours ≤ 720)) fun s => s.onMem die fun m => { m with patrolNext := hours })

/-- SET_SELFTEST: STPERIOD in units of 2^30 clocks (R428). -/
def execSetSelftest (period : Nat) (s : State) : Host.Outcome State Fault Refusal :=
  .next (s.manage (decide (1 ≤ period ∧ period ≤ 65535)) fun s => { s with rel := { s.rel with stperiod := period } })

/-- SET_RELAYSHARE: RSHARE, from the next moved granule (R428). -/
def execSetRelayshare (die share : Nat) (s : State) : Host.Outcome State Fault Refusal :=
  .next (s.manage (decide (die < 12 ∧ share ≤ 6)) fun s => s.onMem die fun m => { m with rshare := share })

/-- The coverage bitmap: one bit per 2 MiB region, 3,968 bytes (R420). -/
def MemSt.bitmap (m : MemSt) : List Byte :=
  (List.range 3968).map fun i =>
    BitVec.ofNat 8 ((List.range 8).foldl (fun a b => a + (if m.covered.contains (8 * i + b) then 2 ^ b else 0)) 0)

/-- READ_COVERAGE: returns a die's coverage bitmap (R428). -/
def execReadCoverage (die : Nat) (s : State) : Host.Outcome State Fault Refusal :=
  .next (s.manage (decide (die < 12)) id (s.memSt die).bitmap)

/-- No context is active, stopping or stopped. -/
def State.quiet (s : State) : Bool := s.cx.ctxs.all fun (_, c) => c.st == 0 || c.st == 4

/-- SET_DEVICE_NUMBER: assigns the device number (13 R390). -/
def execSetDeviceNumber (d : Nat) (s : State) : Host.Outcome State Fault Refusal :=
  .next (s.manage (decide (d < 256) && s.quiet)
    fun s => { s with fab := { s.fab with device := BitVec.ofNat 8 d, enumerated := true } })

/-- WRITE_ROUTE: writes an entry of both route tables (13 R391). -/
def execWriteRoute (d mask : Nat) (s : State) : Host.Outcome State Fault Refusal :=
  .next (s.manage (decide (d < 256 ∧ mask < 2 ^ 18))
    fun s => { s with fab := { s.fab with routes := Table.set s.fab.routes d mask } })

/-! ### Injection (R415) -/

/-- An injection block is armed: its address, its mask, then INJCTL. -/
def State.armInjection (s : State) (u off : Nat) (mask : Word) (kind cnt : Nat) : State :=
  if 384 ≤ u then s
  else ((s.writeInject u 1 off).writeInject u 2 mask.toNat).writeInject u 0 (1 + kind * 2 + cnt * 65536)

/-- INJECT_CORRECTABLE: KIND 0 (R415). -/
def execInjectCorrectable (u off : Nat) (mask : Word) (cnt : BitVec 8) (s : State) : Host.Outcome State Fault Refusal :=
  .next (s.armInjection u off mask 0 cnt.toNat)

/-- INJECT_UNCORRECTABLE: KIND 1 (R415). -/
def execInjectUncorrectable (u off : Nat) (mask : Word) (cnt : BitVec 8) (s : State) : Host.Outcome State Fault Refusal :=
  .next (s.armInjection u off mask 1 cnt.toNat)

/-- INJECT_POISON: KIND 2 (R415). -/
def execInjectPoison (u off : Nat) (cnt : BitVec 8) (s : State) : Host.Outcome State Fault Refusal :=
  .next (s.armInjection u off 0 2 cnt.toNat)

/-- INJECT_FAIL_CHANNEL: KIND 3 fails a channel at once (R415). -/
def execInjectFailChannel (u ch : Nat) (s : State) : Host.Outcome State Fault Refusal :=
  .next (if 384 ≤ u then s else s.writeInject u 0 (1 + 3 * 2 + ch % 256 * 256))

/-! ### Channels, patrol and back-off (R420 to R424) -/

/-- CHANNEL_FAILURE: a channel whose link fails to train, or to retrain, is declared failed (R422); a channel that returns too many
uncorrectable blocks fails in the read that finds the last of them. -/
def execChannelFailure (die ch : Nat) (s : State) : Host.Outcome State Fault Refusal := .next (s.failChannel die ch)

/-- RELAY_GRANULE_MOVE: granules move to the new layout (R424). -/
def execRelayGranuleMove (die count : Nat) (s : State) : Host.Outcome State Fault Refusal :=
  .next (if 12 ≤ die then s else s.relay die count)

/-- SPARE_REBUILD: the spare has been rebuilt into the failed channel's position (R423). -/
def execSpareRebuild (die : Nat) (s : State) : Host.Outcome State Fault Refusal :=
  .next (if 12 ≤ die then s else s.spareRebuilt die)

/-- PATROL_PERIOD_START: the coverage bitmap is cleared (R420). -/
def execPatrolPeriodStart (die : Nat) (s : State) : Host.Outcome State Fault Refusal :=
  .next (if 12 ≤ die then s else s.onMem die fun m => { m with covered := [], patrolb := 0, patrol := m.patrolNext })

/-- A 2 MiB region is patrol-read: every block of a region that no checkpoint read covered, or, from region 31,744 up, as many
bytes of parity (R420). -/
def State.patrolRead (s : State) (die region : Nat) : State :=
  let m := s.memSt die
  if 12 ≤ die ∨ 32768 ≤ region ∨ m.mode = 5 ∨ m.covered.contains region then s
  else
    let s := s.onMem die fun m => { m with patrolb := m.patrolb + 2 ^ 21 }
    if 31744 ≤ region then s
    else (List.range 32768).foldl (fun s i => s.touchBlock (dieKey die (region * 2 ^ 21 + 64 * i))) s

/-- PATROL_READ: the controller patrol-reads a region (R420). -/
def execPatrolRead (die region : Nat) (s : State) : Host.Outcome State Fault Refusal := .next (s.patrolRead die region)

/-- ALERT_BACKOFF: a back-off at the postponement limit is counted (R421). -/
def execAlertBackoff (die bank postponed : Nat) (s : State) : Host.Outcome State Fault Refusal :=
  .next (if die < 12 ∧ bank < 2 ^ 32 ∧ 8 ≤ postponed then s.onMem die fun m => { m with abolim := m.abolim + 1 } else s)

/-! ### Scratchpad retention (R418) -/

/-- The instances of a level, and the arrays of each. -/
def arraysOf : Level → Nat × Nat
  | .s1 => (288, 1)
  | .s2 => (72, 4)
  | .s3 => (12, 24)

/-- Parts touch an array. -/
def inArray (lv : Level) (k arr : Nat) (p : Part) : Bool :=
  match p.place with
  | .scratch l i off => l == lv && i == k && decide (off < (arr + 1) * 2 ^ 21 ∧ arr * 2 ^ 21 < off + p.len)
  | _ => false

/-- The exits that are waited upon in the instance of an array, first waiters first. -/
def State.exitsBeside (s : State) (id : Nat) : List Nat := s.rel.exits.filter fun a => a / 32 == id / 32

/-- An array may enter retention: no tile in it is FILLING or DRAINING, no queued command has a range in it, and no exit is waited
upon in its instance. -/
def State.mayRetain (s : State) (lv : Level) (k arr : Nat) : Bool :=
  s.exitsBeside (arrayOf lv k (arr * 2 ^ 21)) == [] &&
  decide (k < (arraysOf lv).1 ∧ arr < (arraysOf lv).2) && !s.rel.retention.contains (arrayOf lv k (arr * 2 ^ 21))
    && (s.tiles.all fun t => !(t.lv == lv && t.inst == k && decide (t.base < (arr + 1) * 2 ^ 21 ∧ arr * 2 ^ 21 < t.base + t.size))
          || (t.st != .filling && t.st != .draining))
    && s.cmds.all fun m => !((m.src ++ m.dst.flatten ++ m.fin).any (inArray lv k arr))

/-- RETENTION_ENTRY's effect: the array is in retention, and an S1 counts it (R418, R427). -/
def State.retain (s : State) (lv : Level) (k arr : Nat) : State :=
  if s.mayRetain lv k arr = false then s
  else
    let s := { s with rel := { s.rel with retention := arrayOf lv k (arr * 2 ^ 21) :: s.rel.retention } }
    if lv = .s1 then s.count (0x2000 + 64 * k + 48) else s

/-- RETENTION_ENTRY: an idle array enters retention (R418). -/
def execRetentionEntry (lv : Level) (k arr : Nat) (s : State) : Host.Outcome State Fault Refusal := .next (s.retain lv k arr)

/-- RETENTION_EXIT's effect: the array is restored, and corrections are recorded (R418). The exits that are waited upon in an
instance are served in the order of their first waiters. -/
def State.restoreArray (s : State) (lv : Level) (k arr corrected : Nat) : State :=
  let id := arrayOf lv k (arr * 2 ^ 21)
  if s.rel.retention.contains id = false ∨ (s.exitsBeside id).headD id ≠ id then s
  else
    let s := { s with rel := { s.rel with retention := s.rel.retention.filter (· != id), exits := s.rel.exits.filter (· != id) } }
    if corrected = 0 then s
    else
      (s.report (bankOfUnit (id / 32))
        { code := 0x12, unit := arr, adrk := 4, addr := BitVec.ofNat 64 (arr * 2 ^ 21), synd := BitVec.ofNat 64 (corrected % 4) }).1

/-- RETENTION_EXIT: an array is restored for a waiting access, or for a RESUME that waits for it (R418; 13 R383). -/
def execRetentionExit (lv : Level) (k arr corrected : Nat) (s : State) : Host.Outcome State Fault Refusal :=
  .next (eachBit s.cx.resuming State.resume (s.restoreArray lv k arr corrected))

/-! ### Ports (R408) -/

/-- BEYDIN_PORT_DOWN: the port is fenced, with a FATAL record; a flit that a retry on a lane delivered leaves a CORRECTED one
(R408). -/
def execBeydinPortDown (e : LinkError) (s : State) : Host.Outcome State Fault Refusal :=
  let up := fun (p : Nat) => decide (p < 18) && !(s.bank (710 + p)).fenced
  .next (match e with
    | .retried p lane => if up p then (s.report (710 + p) { code := 0x60, synd := lane.setWidth 64 }).1 else s
    | .down p => if up p then ((s.report (710 + p) { code := 0x61 }).1).fence (710 + p) else s)

/-- PCIE_PORT_DOWN: the port of an I/O die is fenced, with a FATAL record; a correctable error leaves a CORRECTED one (R408). -/
def execPciePortDown (p : Nat) (e : AerError) (s : State) : Host.Outcome State Fault Refusal :=
  .next (if 2 ≤ p ∨ s.host.down.contains p then s
    else if e.corrected then (s.report (708 + p) { code := 0x62, synd := e.status }).1
    else
      let s := (s.report (708 + p) { code := 0x63, synd := e.status }).1
      { s with host := { s.host with down := p :: s.host.down } })

end Sys2Proof.Machine
end

