-- ==== Sys2Proof/Machine/SelfTests.lean ====
section
/-! DEFINITION. In-field self-tests of cores (15 R416, R417). -/

namespace Sys2Proof.Machine

/-! ### Self-tests (R416, R417) -/

/-- All four harts of a core are IDLE, and no block of it is stopped (R416). -/
def State.coreIdle (s : State) (core : Nat) : Bool :=
  (coreHarts core).all fun n => (s.hartAt n).st == .idle && !(s.cx.saved.any fun v => v.harts.any fun (m, _, _) => m == n)

/-- S1 of a core loses its contents, and its tile table (R416): every byte becomes a free value. -/
def State.loseS1 (s : State) (core : Nat) : State :=
  let lo := s1Key core 0
  let own := fun (k : Nat) => decide (lo ≤ k ∧ k < lo + 2 ^ 21)
  { s with
    ticks := s.ticks + 1
    mem := Memory.writeBytes s.mem lo ((List.range (2 ^ 21)).map fun i => BitVec.ofNat 8 (Config.freeValue 41 (s.ticks * 2 ^ 21 + i)))
    tiles := s.tiles.filter fun t => !(t.lv == .s1 && t.inst == core)
    rel := { s.rel with poison := s.rel.poison.filter fun k => !own k, latent := s.rel.latent.filter fun (k, _) => !own k } }

/-- A core is fenced: it belongs to no context, and takes no block until cold reset (R416). -/
def State.fenceCore (s : State) (core : Nat) : State :=
  let s := s.fence core
  { s with
    rel := { s.rel with fencedCores := if s.rel.fencedCores.contains core then s.rel.fencedCores else core :: s.rel.fencedCores }
    cx := { s.cx with ctxs := s.cx.ctxs.map fun (n, c) => (n, { c with live := { c.live with cores := c.live.cores.filter (· != core) } }) } }

/-- A core's test fails: record 0x40, the core is fenced, and the node that ran it counts it in STFAIL (R372, R416). -/
def State.testFails (s : State) (core : Nat) (t : SelfTest) (block : Nat) : State :=
  let s := (s.report core { code := 0x40, synd := BitVec.ofNat 64 (t.sel % 256 + block % 256 * 256) }).1
  let s := (s.fenceCore core).count 0x108
  match t.node with
  | none => s
  | some (slot, _, gen) =>
    { s with fe := { s.fe with
      replays := s.fe.replays.map fun r => if r.slot = slot ∧ r.gen = gen ∧ r.st ≠ 0 then { r with stfail := r.stfail + 1 } else r } }

/-- A core's test passes: telemetry counts it (R416, R427). -/
def State.testPasses (s : State) (core : Nat) : State :=
  ((s.count 0x100).count (0x2020 + 64 * core))

/-- A test ends (R416): it began once the core's harts were IDLE. Its time is kept, and tests 1 and 2 lose S1. -/
def State.endTest (s : State) (core : Nat) (pass : Bool) (block : Nat) : State :=
  match Table.find? s.rel.tests core with
  | none => s
  | some t =>
    if s.coreIdle core = false then s
    else
      let s := s.tick
      let s := { s with rel := { s.rel with
        tests := Table.erase s.rel.tests core, lastTest := Table.set s.rel.lastTest core s.clock
        tele := Table.set s.rel.tele (0x2028 + 64 * core) s.clock } }
      let s := if t.sel = 0 then s else s.loseS1 core
      if pass then s.testPasses core else s.testFails core t block

/-- SELF_TEST_END: a core's test ends (R416). -/
def execSelfTestEnd (core : Nat) (pass : Bool) (block : Nat) (s : State) : Host.Outcome State Fault Refusal :=
  .next (s.endTest core pass block)

/-- SELF_TEST_LIMIT: a node's test that reaches LIMIT counts as a failure (R416). The failing block is a free value. -/
def execSelfTestLimit (core : Nat) (s : State) : Host.Outcome State Fault Refusal :=
  .next (match Table.find? s.rel.tests core with
    | some t => if t.keeper then s else { s with ticks := s.ticks + 1 }.endTest core false (Config.freeValue 42 s.ticks)
    | none => s)

/-- The housekeeper may test a core now: it is idle, in no test, not fenced, and its last test is a period ago (R416, R417). -/
def State.testable (s : State) (core : Nat) : Bool :=
  let old :=
    match Table.find? s.rel.lastTest core with
    | none => true
    | some t => decide (s.rel.stperiod * 2 ^ 30 ≤ (s.clock - t).toNat)
  decide (core < 288) && !s.rel.fencedCores.contains core && (Table.find? s.rel.tests core).isNone && s.coreIdle core && old

/-- CLOCK of a core's last test, for the choice of the oldest. -/
def State.testAge (s : State) (core : Nat) : Nat := (Table.get s.rel.lastTest core 0).toNat

/-- HOUSEKEEPER_SELF_TEST's effect: the idle core tested longest ago starts TESTSEL 0, or 2 where no context holds it
(R417). -/
def State.keeperTest (s : State) (core : Nat) (full : Bool) : State :=
  let s := s.tick
  let owned := s.cx.ctxs.any fun (_, c) => c.st != 0 && c.live.cores.contains core
  let oldest := (List.range 288).all fun k => !s.testable k || decide (s.testAge core ≤ s.testAge k)
  if s.fe.housekeeper ∧ s.testable core ∧ oldest ∧ (full = false ∨ owned = false) then
    { s with rel := { s.rel with tests := Table.set s.rel.tests core ⟨if full then 2 else 0, true, none⟩ } }.count 0x118
  else s

/-- HOUSEKEEPER_SELF_TEST: the housekeeper starts a periodic test (R417). -/
def execHousekeeperSelfTest (core : Nat) (full : Bool) (s : State) : Host.Outcome State Fault Refusal :=
  .next (s.keeperTest core full)

/-- SELF_TEST_ABANDON's effect: the housekeeper's test stops for a ready block that no other waiting hart of the context on the
die can take (R417). -/
def State.abandonTest (s : State) (core : Nat) : State :=
  match Table.find? s.rel.tests core with
  | none => s
  | some t =>
    let u := { s with rel := { s.rel with tests := Table.erase s.rel.tests core } }
    let others := ((List.range 96).map (core / 24 * 96 + ·)).filter fun n => n / 4 != core && (s.hartAt n).st == .idle
    if t.keeper ∧ (u.serve (4 * core)).isSome ∧ !(others.any fun n => (s.serve n).isSome) then u.count 0x110 else s

/-- SELF_TEST_ABANDON: a ready block stops the housekeeper's test (R417). -/
def execSelfTestAbandon (core : Nat) (s : State) : Host.Outcome State Fault Refusal := .next (s.abandonTest core)

end Sys2Proof.Machine
end

