-- ==== Sys2Proof/Machine/PowerStates.lean ====
section
/-! DEFINITION. Power, clock and temperature; reset and boot; firmware and trust (13 R392, R393; 16 R431 to R437). -/

namespace Sys2Proof.Machine

/-! ### Power and clock (R431, R432, R434) -/

/-- The module stops: P2 or OFF (R431). -/
def State.enter (s : State) (p : PowerSt) : State := { s with pow := { s.pow with st := p, below := 0 } }

/-- A power or thermal limit stops the module: a FATAL record, then P2 or OFF (R432, R434; 15 R408). -/
def State.limitStop (s : State) (cause unit : Nat) (p : PowerSt) : State :=
  ((s.report 708 { code := 0x34, synd := BitVec.ofNat 64 (cause + unit * 256) }).1).enter p

/-- The clock after a measurement, 25 MHz lower where a limit asks for it, to no less than 1.0 GHz, and the measurements in a row
below 4,100 W (R432). -/
def Power.measured (p : Power) (watts : Nat) : Power :=
  { p with mhz := if 4200 < watts ∨ p.hot ≠ [] then max 1000 (p.mhz - 25) else p.mhz
           below := if watts < 4100 then p.below + 1 else 0 }

/-- A measurement of the input power: above 4,200 W the clock falls, or at 1.0 GHz the module enters P2 with every context failed;
a sensor that holds the clock down lowers it too (R432, R434). -/
def State.measure (s : State) (watts : Nat) : State :=
  if s.powered = false then s
  else if 4200 < watts ∧ s.pow.mhz ≤ 1000 then
    (s.contexts.foldl (fun s c => s.failContext c (FaultRec.bare 5 0 0)) s).limitStop 1 0 .standby
  else { s with pow := s.pow.measured watts }

/-- POWER_MEASUREMENT: the input power is measured (R432). -/
def execPowerMeasurement (watts : Nat) (s : State) : Host.Outcome State Fault Refusal := .next (s.measure watts)

/-- CLOCK_RAISE: after 1 ms below 4,100 W, 100 measurements, the clock rises by 25 MHz, to at most 1.8 GHz (R432). -/
def execClockRaise (s : State) : Host.Outcome State Fault Refusal :=
  .next (if s.powered ∧ 100 ≤ s.pow.below ∧ s.pow.hot = [] then
      { s with pow := { s.pow with mhz := min 1800 (s.pow.mhz + 25), below := 0 } }
    else s)

/-- A sensor starts or stops holding the clock down. -/
def Power.hold (p : Power) (sn : Sensor) (on : Bool) : Power :=
  { p with hot := if on then (if p.hot.contains sn then p.hot else sn :: p.hot) else p.hot.filter (· != sn) }

/-- A sensor that holds the clock until it falls below a lower temperature (R434). -/
def Power.reading (p : Power) (sn : Sensor) (celsius high low : Nat) : Power :=
  if high ≤ celsius then p.hold sn true else if celsius < low then p.hold sn false else p

/-- A stack's refresh rate doubles at 85 °C (R434). -/
def Power.refresh (p : Power) (k celsius : Nat) : Power :=
  { p with refresh2 := if 85 ≤ celsius then (if p.refresh2.contains k then p.refresh2 else k :: p.refresh2)
                       else p.refresh2.filter (· != k) }

/-- A reading of sensor `k` of a compute die is kept. -/
def Power.keep (p : Power) (d k celsius : Nat) : Power := { p with temps := Table.set p.temps (4 * d + k) celsius }

/-- The hottest of the last readings of a compute die's four sensors (R434). -/
def Power.hottest (p : Power) (d : Nat) : Nat := (List.range 4).foldl (fun m k => max m (Table.get p.temps (4 * d + k) 0)) 0

/-- A temperature reading (R434). The flag that the coolant inlet raises has no place in the telemetry window of 15 R427 (log 71). -/
def State.temperature (s : State) (sn : Sensor) (celsius : Nat) : State :=
  if s.pow.st = .off then s
  else
    match sn with
    | .computeDie d k =>
      let p := s.pow.keep d k celsius
      if 12 ≤ d ∨ 4 ≤ k then s
      else if 110 ≤ p.hottest d then { s with pow := p }.limitStop 2 d .off
      else { s with pow := p.reading (.computeDie d 0) (p.hottest d) 100 97 }
    | .stack k =>
      if 12 ≤ k then s
      else if 105 ≤ celsius then s.limitStop 3 k .off
      else { s with pow := (s.pow.reading sn celsius 95 92).refresh k celsius }
    | .inlet => { s with pow := { s.pow with inlet := decide (45 ≤ celsius) } }

/-- THERMAL_LIMIT: a sensor's reading acts on the clock, the refresh or the module (R434). -/
def execThermalLimit (sn : Sensor) (celsius : Nat) (s : State) : Host.Outcome State Fault Refusal :=
  .next (s.temperature sn celsius)

/-- No hart of a die runs a block. -/
def State.dieIdle (s : State) (d : Nat) : Bool := (List.range 96).all fun i => (s.hartAt (d * 96 + i)).block == none

/-- IDLE_ENTRY's effect: a die without a block is idle; when every die is, and no command or replay is active, the module is in
P1 (R431). -/
def State.idle (s : State) (d : Nat) : State :=
  if s.powered = false ∨ 12 ≤ d ∨ s.dieIdle d = false then s
  else
    let dies := if s.pow.idleDies.contains d then s.pow.idleDies else d :: s.pow.idleDies
    let all := (List.range 12).all dies.contains && s.cmds.isEmpty && s.fe.running == 0
    { s with pow := { s.pow with idleDies := dies, st := if all then .idle else s.pow.st } }

/-- IDLE_ENTRY: a die without a block for 2^20 clocks (R431). -/
def execIdleEntry (die : Nat) (s : State) : Host.Outcome State Fault Refusal := .next (s.idle die)

/-- STANDBY_REQUEST: with no context active the module enters P2 (R431). -/
def execStandbyRequest (s : State) : Host.Outcome State Fault Refusal :=
  .next (if s.powered ∧ (s.cx.ctxs.all fun (_, c) => c.st != 1) then s.enter .standby else s)

/-! ### Firmware (R392, R436) -/

/-- An image in the inactive bank. -/
def Firmware.store (f : Firmware) (image : List Byte) : Firmware := if f.active then { f with bankA := image } else { f with bankB := image }

/-- An update is broken off after `n` bytes: the inactive bank is unmarked (R436). -/
def Firmware.interrupted (f : Firmware) (n : Nat) : Firmware :=
  match f.updating with
  | none => f
  | some image =>
    let n := n % (image.length + 1)
    { f.store (image.take n ++ (f.image (!f.active)).drop n) with updating := none, pending := none }

/-- The firmware when power goes or a reset comes: how far an update had written is a free value. -/
def State.fwStopped (s : State) : Firmware := s.fw.interrupted (Config.freeValue 50 s.ticks)

/-- POWER_LOSS: the 54 V input is removed (R431). -/
def execPowerLoss (s : State) : Host.Outcome State Fault Refusal :=
  .next ({ s with ticks := s.ticks + 1, fw := s.fwStopped }.enter .off)

/-- The bank that step 3 of R435 takes first (R436). -/
def Firmware.first (f : Firmware) : Bool := f.pending.getD (if f.strap.getLsbD 2 then true else f.active)

/-- Steps 2 and 3 of R435: the image that boots, or recovery, in which no image runs; only a pending bank that boots becomes active
(R435, R436; STRAP.RECOV of R437). -/
def Firmware.boot (f : Firmware) : Firmware :=
  let f := { f with svn := 0, recovery := true, served := false, session := false }
  let run := fun (b : Bool) =>
    { f with active := if f.pending = some b then b else f.active, booted := b, pending := none, svn := imageSvn (f.image b)
             recovery := false }
  if f.strap.getLsbD 3 then f
  else if f.accepts (f.image f.first) then run f.first
  else if f.accepts (f.image (!f.first)) then run (!f.first)
  else { f with pending := none }

/-- The update's image is whole: every check decides whether it becomes pending (R436). -/
def State.updated (s : State) (image : List Byte) : State :=
  let f := s.fw.store image
  let ok := f.accepts image
  { s with fw := { f with updating := none, pending := if ok then some (!f.active) else none } }.respond (if ok then some [] else none)

/-- FIRMWARE_UPDATE's effect: in a secured session an image begins to be written into the inactive bank, or is written whole; a
second request while one is in progress completes with error; the end of the one in progress verifies its image (R436; 13 R393). -/
def State.update (s : State) (image : List Byte) (finish : Bool) : State :=
  if s.pow.st = .off then s
  else
    match s.fw.updating, finish with
    | some x, true => s.updated x
    | some _, false => s.respond none
    | none, _ =>
      if s.fw.session = false then s.respond none
      else if finish then s.updated image
      else { s with fw := { s.fw with updating := some image, pending := none } }

/-- FIRMWARE_UPDATE: an image is written into the inactive bank, and is pending if every check accepts it (R436). -/
def execFirmwareUpdate (q : UpdateRequest) (s : State) : Host.Outcome State Fault Refusal :=
  .next (s.update q.image q.finish)

/-- SVN_ADVANCE: the fused minimum rises to the image's SVN, at most 64 times (R436). -/
def execSvnAdvance (s : State) : Host.Outcome State Fault Refusal :=
  .next (if s.fe.lost = false ∧ s.fw.recovery = false ∧ s.fw.minSvn < s.fw.svn ∧ s.fw.advances < 64 ∧ s.pow.st ≠ .off then
      { s with fw := { s.fw with minSvn := s.fw.svn, advances := s.fw.advances + 1 } }
    else s)

/-- Bytes of the identity page from an offset on (R437). -/
def State.identityBytes (s : State) (off n : Nat) : List Byte := (List.range n).flatMap fun i => leBytes 8 (s.identityWord (off + 8 * i))

/-- What a challenge signs beside its nonce: the identities and the measurements (00 R12; 13 R393). -/
def State.attested (s : State) : List Byte :=
  s.identityBytes 8 17 ++ leBytes 32 (Config.sha256 (payload (s.fw.image s.fw.booted))) ++ leBytes 2 s.fw.minSvn

/-- The answer of the SPDM responder: the versions 1.2 and 1.3; certificate 0 with PARTNO and SERIAL, the others as provisioned;
the digest of the firmware image, the fused identities and the fused SVN as measurements 2, 3 and 5; a signature; and bytes that the
spec does not lay out (13 R393; 16 R437; log 17). -/
def State.spdm (s : State) : SpdmRequest → Option (List Byte)
  | .version => some [0x12, 0x13]
  | .certificate 0 => some (s.identityBytes 8 3 ++ Config.spdmBytes 0 [])
  | .certificate slot => if slot < 8 then some (Table.get s.fw.slots slot []) else none
  | .measurement 2 => some (leBytes 32 (Config.sha256 (payload (s.fw.image s.fw.booted))))
  | .measurement 3 => some (s.identityBytes 0x20 14)
  | .measurement 5 => some (leBytes 2 s.fw.minSvn)
  | .measurement b => if b = 1 ∨ b = 4 then some (Config.spdmBytes (16 + b) []) else none
  | .challenge nonce => some (Config.ecdsaSign (nonce ++ s.attested))
  | .keyExchange pub => some (Config.spdmBytes 33 pub)
  | .endSession => some []
  | .provision slot _ => if s.fw.session ∧ 1 ≤ slot ∧ slot < 8 then some [] else none

/-- What a request changes: the secured session, or a provisioned slot (13 R393; log 17). -/
def Firmware.request (f : Firmware) : SpdmRequest → Firmware
  | .keyExchange _ => { f with session := true }
  | .endSession => { f with session := false }
  | .provision slot chain => if f.session ∧ 1 ≤ slot ∧ slot < 8 then { f with slots := Table.set f.slots slot chain } else f
  | _ => f

/-- SPDM_REQUEST: the module answers as responder (13 R393). -/
def execSpdmRequest (q : SpdmRequest) (s : State) : Host.Outcome State Fault Refusal :=
  .next (if s.pow.st = .off then s else { s with fw := s.fw.request q }.respond (s.spdm q))

/-! ### Reset and boot (R435) -/

/-- What a reset keeps of memory: nothing of the module, all that lies outside it (R435; logs 9, 12). -/
def outside (m : List Host.Cell) : List Host.Cell := m.filter fun (k, _) => 2 ^ 52 ≤ k

/-- Step 5: the die memory of a stack that fails training is fenced (R435). -/
def State.trainStacks (s : State) (bad : List Nat) : State :=
  bad.foldl (fun s d => if 12 ≤ d ∨ (s.memSt d).mode = 5 then s else s.fenceMemory d) s

/-- Step 6: TESTSEL 2 on every core (R435; 15 R416): those that pass are counted, those that fail are fenced. -/
def State.testCores (s : State) (bad : List Nat) : State :=
  (List.range 288).foldl (fun s c =>
    if s.rel.fencedCores.contains c then s
    else if bad.contains c then s.testFails c ⟨2, false, none⟩ (Config.freeValue 43 (s.ticks * 288 + c))
    else s.testPasses c) s

/-- Step 4: the memories of control harts 0, 1 and 2 are loaded, and they run; in recovery none does (R435; 13 R392). -/
def State.startControl (s : State) : State :=
  if s.fw.recovery then
    [1152, 1153, 1154].foldl (fun s n => s.putHart { Hart.reset n with st := .idle }) { s with fe := { s.fe with housekeeper := false } }
  else (List.range 3).foldl (fun s n => s.loadCtl (s.fw.image s.fw.booted) n) s

/-- The module as steps 2 to 4 leave it, with what a reset keeps of the old state. Of the peers there stays what they answer and what
was answered to them; no remote operation and no recorded failure outlives a reset. -/
def State.rebooted (old : State) (rel : Reliab) (fab : Fabric) (fw : Firmware) : State :=
  { State.reset with
    ticks := old.ticks + 1, agenda := old.agenda, mem := outside old.mem, rel := rel, fab := fab, fw := fw.boot
    host := { State.reset.host with msix := old.host.msix, replies := old.host.replies, retries := old.host.retries }
    peers := { State.reset.peers with nextOp := old.peers.nextOp, reach := old.peers.reach, answers := old.peers.answers } }.startControl

/-- Steps 5 to 7: stacks and links are trained, the cores tested, and the host is served; in recovery none of them comes (R435;
13 R390, R392). -/
def State.finishBoot (s : State) (t : Training) (badCores : List Nat) : State :=
  if s.fw.recovery then s
  else
    let s := (s.trainStacks t.badStacks).testCores badCores
    { s with fab := { s.fab with partners := t.partners }, fw := { s.fw with served := true } }

/-- Steps 5 to 7, where the sequence comes so far. -/
def State.bootOn (s : State) (t : Option Training) (badCores : List Nat) : State :=
  match t with
  | some t => s.finishBoot t badCores
  | none => s

/-- Cold reset: everything but the flash, the fuses and the fused minimum SVN; the straps are sampled (R435, R437). -/
def State.coldBoot (s : State) (strap : Word) (t : Option Training) (badCores : List Nat) : State :=
  (s.rebooted { Reliab.reset with tele := [] } State.reset.fab { s.fwStopped with strap := strap &&& strapMask }).bootOn t badCores

/-- What a warm reset keeps of the reliability state: banks, telemetry, memory modes and fenced cores; RSHARE takes its reset value
(00 R8; R435; 15 R406, R415, R416, R425, R426). -/
def Reliab.warm (r : Reliab) : Reliab :=
  { Reliab.reset with
    banks := r.banks, tele := r.tele, mems := r.mems.map fun (d, m) => (d, { m with rshare := 3 })
    fencedCores := r.fencedCores, lastTest := r.lastTest }

/-- Warm reset: from step 2 (R435). The device number and the routes stay (13 R390), and CLOCK counts on (01 R27). -/
def State.warmBoot (s : State) (t : Option Training) (badCores : List Nat) : State :=
  { s.rebooted s.rel.warm s.fab s.fwStopped with clock := s.clock }.bootOn t badCores

/-- COLD_RESET: power good runs the whole sequence, or so far only its steps before the fifth (R435). -/
def execColdReset (strap : Word) (t : Option Training) (badCores : List Nat) (s : State) : Host.Outcome State Fault Refusal :=
  .next (s.coldBoot strap t badCores)

/-- WARM_RESET: PERST# or a management request runs the sequence from step 2 (R435); a module that is OFF stays so. -/
def execWarmReset (t : Option Training) (badCores : List Nat) (s : State) : Host.Outcome State Fault Refusal :=
  .next (if s.pow.st = .off then s else s.warmBoot t badCores)

/-- A free choice of some numbers below `n`; `place` tells it from the others. -/
def State.someOf (s : State) (place n : Nat) : List Nat :=
  (List.range n).filter fun i => Config.freeValue place (s.ticks * 288 + i) % 2 == 1

/-- How step 5 goes where no reset says so: which stacks fail and what link partners report are free values (log 52). -/
def State.training (s : State) : Training where
  badStacks := s.someOf 51 12
  partners := (s.someOf 52 18).map fun p => (p, Config.freeValue 53 (s.ticks * 18 + p) % 256)

/-- The cores that fail step 6 where no reset says so: a free value (log 52). -/
def State.failing (s : State) : List Nat := s.someOf 54 288

/-- STANDBY_EXIT: the module leaves P2 through steps 5 to 7, of which step 6 loses every S1 (R431, R435; 15 R416); a reset that has
come so far as step 4 goes on through them too (log 71). Which stacks and cores fail is free (log 52). -/
def execStandbyExit (s : State) : Host.Outcome State Fault Refusal :=
  let boot := fun (t : State) => { t.finishBoot s.training s.failing with ticks := t.ticks + 1 }
  .next (if s.pow.st = .standby then (boot ((List.range 288).foldl State.loseS1 s)).enter .run
    else if s.powered ∧ s.fw.served = false then boot s
    else s)

end Sys2Proof.Machine
end

