-- ==== Sys2Proof/Machine/HartStops.lean ====
section
/-! DEFINITION. A hart that pre-emption stops inside an instruction: between the rows of a matrix word and between the repetitions of a
prefix, and engines that it stops at their stop units (01 R23; 09 R310, R314; 13 R382; log 69). -/

namespace Sys2Proof.Machine

/-- A matrix word that stops before row `k`, where an instruction is one (09 R308, R310, R314, R318). -/
def matrixPart (i : Instr) (k : Nat) : Option (Act Unit) :=
  match i with
  | .mzero d => some (Act.mzero d (some k))
  | .mma d a b => some (Act.mma d a b (some k))
  | .mmam d a b => some (Act.mmam d a b (some k))
  | .mdrain d a b f m => some (Act.mdrain d a b f m (some k))
  | _ => none

/-- A free choice of where a stop comes. -/
def State.pickNext {α : Type} (s : State) (l : List α) : Option α × State := (s.pick l, { s with ticks := s.ticks + 1 })

/-- The current hart's matrix word has performed its rows below one that is a free choice, and MSTART names that row. A word that
would trap or wait, or that is no matrix word, has not begun. -/
def State.partRows (s : State) (w : IWord) : State :=
  match decodeMost w.toNat, s.pickNext s.hart.stopRows with
  | .instr i, (some k, t) =>
    match matrixPart i k with
    | some act =>
      if t.hart.ill ∨ t.hart.anyGuarded = false ∨ k = t.hart.mstart.toNat then s
      else
        match Act.effect (do act; Act.modifyHart fun h => { h with mstart := BitVec.ofNat 9 k }) t with
        | .done u => u
        | _ => s
    | none => s
  | _, _ => s

/-- `n` repetitions of a prefix from `j` on, none of which has trapped or waited: REPIDX names the next (01 R23, R46). -/
def State.partReps (p x : IWord) : Nat → Nat → State → State
  | 0, j, s => s.setRepidx j
  | n + 1, j, s =>
    match wordEff (repWord p x j) s with
    | .done t => State.partReps p x n (j + 1) (t.retire 1)
    | .jump t => State.partReps p x n (j + 1) (t.retire 1)
    | _ => s.setRepidx j

/-- The current hart's prefix has performed some of its repetitions, and of the next, where it is a matrix word, some rows. -/
def State.partPrefix (s : State) (p : IWord) : State :=
  match s.fetch (s.hart.pc + 4) with
  | .word x t =>
    let j := t.hart.repidx.toNat
    if repOk p x then
      match t.pickNext (List.range (repCount p - j)) with
      | (some n, u) =>
        let v := u.partReps p x n j
        v.partRows (repWord p x v.hart.repidx.toNat)
      | _ => s
    else s
  | _ => s

/-- The current hart, which is to stop, has come to a stop unit inside its next instruction, or not. -/
def State.partInstr (s : State) : State :=
  if s.hart.isCtl ∨ s.hart.st ≠ .running then s
  else
    match s.fetch s.hart.pc with
    | .word w t => if majorOf w = 0x38 then t.partPrefix w else t.partRows w
    | _ => s

/-- A hart that is to stop. -/
def State.partHart (s : State) (n : Nat) : State := ((s.switchTo n).partInstr).switchTo s.hart.num

/-- A unit that is to stop comes to a stop unit (13 R382). -/
def State.partUnit (s : State) (c : Nat) (u : StopUnit) : State :=
  let mine := fun (kind : EngineKind) (unit : Nat) => s.partCommands fun k => k.env.ctx == c && k.kind == kind && k.unit == unit
  match u with
  | .hart n => s.partHart n
  | .copyEngine k => mine .copy k
  | .topology d => mine .topology d
  | .colouring d => mine .colouring d
  | .binning d => mine .binning d
  | .hod _ => s
  | .dispatcher _ => s

/-- A unit reaches its stop unit, stops there and acknowledges (13 R382, R383). -/
def State.stopAck (s : State) (c : Nat) (u : StopUnit) : State :=
  let x := s.ctxOf c
  (if x.st = 2 ∧ x.owed.contains u ∧ s.ackTurn c x.owed u then s.partUnit c u else s).ackStop c u

end Sys2Proof.Machine
end

