-- ==== Sys2Proof/Machine/Requests.lean ====
section
/-! DEFINITION. Requests to the context control page, and writes to the other registers of the function windows (00 R6; 13 R380 to
R384). -/

namespace Sys2Proof.Machine

/-- A request that the context page or a function window takes, where it is served (13 R392; 16 R435). -/
def State.request (s : State) (f : State → State) : Host.Outcome State Fault Refusal := .next (if s.pagesServed then f s else s)

/-- CTXKICK: the staging records of the contexts written as 1 are applied (13 R380). -/
def execCtxkick (bits : Word) (s : State) : Host.Outcome State Fault Refusal := s.request (eachBit bits State.ctxKick)

/-- INVAL: the translations of the contexts written as 1 are invalidated (13 R381). -/
def execInval (bits : Word) (s : State) : Host.Outcome State Fault Refusal := s.request (State.inval · bits)

/-- TRANSLATION_INVALIDATION_COMPLETE: INVALBUSY of a context clears (13 R381). -/
def execTranslationInvalidationComplete (ctx : Nat) (s : State) : Host.Outcome State Fault Refusal := .next (s.invalDone ctx)

/-- PREEMPT: the contexts written as 1 begin to stop (13 R383). -/
def execPreempt (bits : Word) (s : State) : Host.Outcome State Fault Refusal := s.request (eachBit bits State.startPreempt)

/-- PREEMPT_ACKNOWLEDGE: a unit acknowledges its stop, with its state saved (13 R382). -/
def execPreemptAcknowledge (ctx : Nat) (u : StopUnit) (s : State) : Host.Outcome State Fault Refusal := .next (s.stopAck ctx u)

/-- PREEMPT_TIMEOUT: a missing acknowledgement fails the context (13 R383). -/
def execPreemptTimeout (ctx : Nat) (u : StopUnit) (s : State) : Host.Outcome State Fault Refusal := .next (s.stopTimeout ctx u)

/-- RESUME: the contexts written as 1 are restored and run (13 R383). -/
def execResume (bits : Word) (s : State) : Host.Outcome State Fault Refusal := s.request (eachBit bits State.resume)

/-- An aligned 64-bit word is written to a register of I/O die `die`'s window, by a party to which its fields are open
(00 R6). -/
def State.registerWrite (s : State) (die off : Nat) (v : Word) : State :=
  if 2 ≤ die ∨ off % 8 ≠ 0 then s
  else
    match fnAt die off with
    | none => s
    | some (f, o) => s.windowWrite true die f o 8 v.toNat

/-- REGISTER_WRITE: a write acts field by field by the access codes (00 R6). -/
def execRegisterWrite (target off : Nat) (v : Word) (s : State) : Host.Outcome State Fault Refusal :=
  s.request (State.registerWrite · target off v)

end Sys2Proof.Machine
end

