-- ==== Sys2Proof/Machine/Scalar.lean ====
section
/-! DEFINITION. Integer, address and control instructions of majors 0x01 to 0x05 and 0x08 to 0x0B (04 R146 to R148; 05 R175,
R176, R180 to R183). -/

namespace Sys2Proof.Machine

/-- s_d takes a function of s_a and s_b. -/
def effBin (d a b : SReg) (f : Word → Word → Word) (s : State) : Eff :=
  .done (s.setS d (f (s.hart.readS a) (s.hart.readS b)))

/-- s_d takes a function of s_a. -/
def effUn (d a : SReg) (f : Word → Word) (s : State) : Eff := .done (s.setS d (f (s.hart.readS a)))

/-- A truth value as 1 or 0. -/
def flagWord (p : Bool) : Word := if p then 1 else 0

/-- The hart goes to PC + `off` words, or past the word. -/
def effBranch (taken : Bool) (off : Int) (s : State) : Eff :=
  if taken then .jump (s.setPc (s.hart.pc + BitVec.ofInt 64 (4 * off))) else .done s

/-- Bits 0 to VL − 1 of a predicate register, as a number (05 R181). -/
def Hart.predBits (h : Hart) (p : PReg) : Nat := (h.readP p).toNat % 2 ^ h.vl.toNat

/-- ADD: s_d takes s_a + s_b (05 R175). -/
def execAdd (d a b : SReg) (s : State) : Host.Outcome State Fault Refusal :=
  runScalar (wordOf (.add d a b)) (effBin d a b fun x y => x + y) s

/-- SUB: s_d takes s_a − s_b (05 R175). -/
def execSub (d a b : SReg) (s : State) : Host.Outcome State Fault Refusal :=
  runScalar (wordOf (.sub d a b)) (effBin d a b fun x y => x - y) s

/-- MUL: s_d takes the low 64 bits of the product (05 R175). -/
def execMul (d a b : SReg) (s : State) : Host.Outcome State Fault Refusal :=
  runScalar (wordOf (.mul d a b)) (effBin d a b fun x y => x * y) s

/-- MULH: s_d takes the high 64 bits of the signed product (05 R175). -/
def execMulh (d a b : SReg) (s : State) : Host.Outcome State Fault Refusal :=
  runScalar (wordOf (.mulh d a b)) (effBin d a b fun x y => BitVec.ofInt 64 (x.toInt * y.toInt / 2 ^ 64)) s

/-- MULHU: s_d takes the high 64 bits of the unsigned product (05 R175). -/
def execMulhu (d a b : SReg) (s : State) : Host.Outcome State Fault Refusal :=
  runScalar (wordOf (.mulhu d a b)) (effBin d a b fun x y => BitVec.ofNat 64 (x.toNat * y.toNat / 2 ^ 64)) s

/-- DIV: s_d takes the signed quotient (02 R64) (05 R175). -/
def execDiv (d a b : SReg) (s : State) : Host.Outcome State Fault Refusal :=
  runScalar (wordOf (.div d a b)) (effBin d a b fun x y => BitVec.ofNat 64 (quotS 64 x.toNat y.toNat)) s

/-- DIVU: s_d takes the unsigned quotient (02 R64) (05 R175). -/
def execDivu (d a b : SReg) (s : State) : Host.Outcome State Fault Refusal :=
  runScalar (wordOf (.divu d a b)) (effBin d a b fun x y => BitVec.ofNat 64 (quotU 64 x.toNat y.toNat)) s

/-- REM: s_d takes the signed remainder (02 R64) (05 R175). -/
def execRem (d a b : SReg) (s : State) : Host.Outcome State Fault Refusal :=
  runScalar (wordOf (.rem d a b)) (effBin d a b fun x y => BitVec.ofNat 64 (remS 64 x.toNat y.toNat)) s

/-- REMU: s_d takes the unsigned remainder (02 R64) (05 R175). -/
def execRemu (d a b : SReg) (s : State) : Host.Outcome State Fault Refusal :=
  runScalar (wordOf (.remu d a b)) (effBin d a b fun x y => BitVec.ofNat 64 (remU x.toNat y.toNat)) s

/-- AND: s_d takes the bitwise AND (05 R175). -/
def execAnd (d a b : SReg) (s : State) : Host.Outcome State Fault Refusal :=
  runScalar (wordOf (.and d a b)) (effBin d a b fun x y => x &&& y) s

/-- OR: s_d takes the bitwise OR (05 R175). -/
def execOr (d a b : SReg) (s : State) : Host.Outcome State Fault Refusal :=
  runScalar (wordOf (.or d a b)) (effBin d a b fun x y => x ||| y) s

/-- XOR: s_d takes the bitwise XOR (05 R175). -/
def execXor (d a b : SReg) (s : State) : Host.Outcome State Fault Refusal :=
  runScalar (wordOf (.xor d a b)) (effBin d a b fun x y => x ^^^ y) s

/-- ANDN: s_d takes s_a AND NOT s_b (05 R175). -/
def execAndn (d a b : SReg) (s : State) : Host.Outcome State Fault Refusal :=
  runScalar (wordOf (.andn d a b)) (effBin d a b fun x y => x &&& ~~~y) s

/-- SHL: s_d takes s_a shifted left (02 R65) (05 R175). -/
def execShl (d a b : SReg) (s : State) : Host.Outcome State Fault Refusal :=
  runScalar (wordOf (.shl d a b)) (effBin d a b fun x y => BitVec.ofNat 64 (shlN 64 x.toNat y.toNat)) s

/-- SHR: s_d takes s_a shifted right logically (02 R65) (05 R175). -/
def execShr (d a b : SReg) (s : State) : Host.Outcome State Fault Refusal :=
  runScalar (wordOf (.shr d a b)) (effBin d a b fun x y => BitVec.ofNat 64 (shrN x.toNat y.toNat)) s

/-- SAR: s_d takes s_a shifted right arithmetically (02 R65) (05 R175). -/
def execSar (d a b : SReg) (s : State) : Host.Outcome State Fault Refusal :=
  runScalar (wordOf (.sar d a b)) (effBin d a b fun x y => BitVec.ofNat 64 (sarN 64 x.toNat y.toNat)) s

/-- ROTR: s_d takes s_a rotated right (02 R65) (05 R175). -/
def execRotr (d a b : SReg) (s : State) : Host.Outcome State Fault Refusal :=
  runScalar (wordOf (.rotr d a b)) (effBin d a b fun x y => x.rotateRight (y.toNat % 64)) s

/-- MIN: s_d takes the signed minimum (05 R175). -/
def execMin (d a b : SReg) (s : State) : Host.Outcome State Fault Refusal :=
  runScalar (wordOf (.min d a b)) (effBin d a b fun x y => if y.slt x then y else x) s

/-- MAX: s_d takes the signed maximum (05 R175). -/
def execMax (d a b : SReg) (s : State) : Host.Outcome State Fault Refusal :=
  runScalar (wordOf (.max d a b)) (effBin d a b fun x y => if x.slt y then y else x) s

/-- MINU: s_d takes the unsigned minimum (05 R175). -/
def execMinu (d a b : SReg) (s : State) : Host.Outcome State Fault Refusal :=
  runScalar (wordOf (.minu d a b)) (effBin d a b fun x y => if y < x then y else x) s

/-- MAXU: s_d takes the unsigned maximum (05 R175). -/
def execMaxu (d a b : SReg) (s : State) : Host.Outcome State Fault Refusal :=
  runScalar (wordOf (.maxu d a b)) (effBin d a b fun x y => if x < y then y else x) s

/-- SEQ: s_d takes 1 if the operands are equal (05 R175). -/
def execSeq (d a b : SReg) (s : State) : Host.Outcome State Fault Refusal :=
  runScalar (wordOf (.seq d a b)) (effBin d a b fun x y => flagWord (x == y)) s

/-- SNE: s_d takes 1 if the operands differ (05 R175). -/
def execSne (d a b : SReg) (s : State) : Host.Outcome State Fault Refusal :=
  runScalar (wordOf (.sne d a b)) (effBin d a b fun x y => flagWord (x != y)) s

/-- SLT: s_d takes 1 if s_a is below s_b, signed (05 R175). -/
def execSlt (d a b : SReg) (s : State) : Host.Outcome State Fault Refusal :=
  runScalar (wordOf (.slt d a b)) (effBin d a b fun x y => flagWord (x.slt y)) s

/-- SLTU: s_d takes 1 if s_a is below s_b, unsigned (05 R175). -/
def execSltu (d a b : SReg) (s : State) : Host.Outcome State Fault Refusal :=
  runScalar (wordOf (.sltu d a b)) (effBin d a b fun x y => flagWord (x.ult y)) s

/-- CLZ: s_d takes leading zero bits of s_a (05 R175). -/
def execClz (d a : SReg) (s : State) : Host.Outcome State Fault Refusal :=
  runScalar (wordOf (.clz d a)) (effUn d a fun x => BitVec.ofNat 64 (clzN 64 x.toNat)) s

/-- CTZ: s_d takes trailing zero bits of s_a (05 R175). -/
def execCtz (d a : SReg) (s : State) : Host.Outcome State Fault Refusal :=
  runScalar (wordOf (.ctz d a)) (effUn d a fun x => BitVec.ofNat 64 (ctzN 64 x.toNat)) s

/-- POPC: s_d takes the number of 1 bits of s_a (05 R175). -/
def execPopc (d a : SReg) (s : State) : Host.Outcome State Fault Refusal :=
  runScalar (wordOf (.popc d a)) (effUn d a fun x => BitVec.ofNat 64 (popcN 64 x.toNat)) s

/-- BREV: s_d takes the bits in reversed order of s_a (05 R175). -/
def execBrev (d a : SReg) (s : State) : Host.Outcome State Fault Refusal :=
  runScalar (wordOf (.brev d a)) (effUn d a fun x => BitVec.ofNat 64 (brevN 64 x.toNat 0)) s

/-- SEXTB: s_d takes bits [7:0] sign-extended of s_a (05 R175). -/
def execSextB (d a : SReg) (s : State) : Host.Outcome State Fault Refusal :=
  runScalar (wordOf (.sextB d a)) (effUn d a fun x => (x.extractLsb' 0 8).signExtend 64) s

/-- SEXTH: s_d takes bits [15:0] sign-extended of s_a (05 R175). -/
def execSextH (d a : SReg) (s : State) : Host.Outcome State Fault Refusal :=
  runScalar (wordOf (.sextH d a)) (effUn d a fun x => (x.extractLsb' 0 16).signExtend 64) s

/-- SEXTW: s_d takes bits [31:0] sign-extended of s_a (05 R175). -/
def execSextW (d a : SReg) (s : State) : Host.Outcome State Fault Refusal :=
  runScalar (wordOf (.sextW d a)) (effUn d a fun x => (x.extractLsb' 0 32).signExtend 64) s

/-- ZEXTB: s_d takes bits [7:0] zero-extended of s_a (05 R175). -/
def execZextB (d a : SReg) (s : State) : Host.Outcome State Fault Refusal :=
  runScalar (wordOf (.zextB d a)) (effUn d a fun x => (x.extractLsb' 0 8).setWidth 64) s

/-- ZEXTH: s_d takes bits [15:0] zero-extended of s_a (05 R175). -/
def execZextH (d a : SReg) (s : State) : Host.Outcome State Fault Refusal :=
  runScalar (wordOf (.zextH d a)) (effUn d a fun x => (x.extractLsb' 0 16).setWidth 64) s

/-- ZEXTW: s_d takes bits [31:0] zero-extended of s_a (05 R175). -/
def execZextW (d a : SReg) (s : State) : Host.Outcome State Fault Refusal :=
  runScalar (wordOf (.zextW d a)) (effUn d a fun x => (x.extractLsb' 0 32).setWidth 64) s

/-- SEL: s_d takes s_a if it was not zero, else s_b (05 R175). -/
def execSel (d a b : SReg) (s : State) : Host.Outcome State Fault Refusal :=
  runScalar (wordOf (.sel d a b)) (effBin d a b fun x y => if s.hart.readS d ≠ 0 then x else y) s

/-- SHADD: s_d takes (s_a << k) + s_b (05 R175). -/
def execShadd (d a b : SReg) (k : BitVec 3) (s : State) : Host.Outcome State Fault Refusal :=
  runScalar (wordOf (.shadd d a b k)) (effBin d a b fun x y => (x <<< k.toNat) + y) s

/-- ADDI: s_d takes s_a + sext(imm) (05 R176). -/
def execAddi (d a : SReg) (i : BitVec 16) (s : State) : Host.Outcome State Fault Refusal :=
  runScalar (wordOf (.addi d a i)) (effUn d a fun x => x + i.signExtend 64) s

/-- ANDI: s_d takes s_a AND sext(imm) (05 R176). -/
def execAndi (d a : SReg) (i : BitVec 13) (s : State) : Host.Outcome State Fault Refusal :=
  runScalar (wordOf (.andi d a i)) (effUn d a fun x => x &&& i.signExtend 64) s

/-- ORI: s_d takes s_a OR sext(imm) (05 R176). -/
def execOri (d a : SReg) (i : BitVec 13) (s : State) : Host.Outcome State Fault Refusal :=
  runScalar (wordOf (.ori d a i)) (effUn d a fun x => x ||| i.signExtend 64) s

/-- XORI: s_d takes s_a XOR sext(imm) (05 R176). -/
def execXori (d a : SReg) (i : BitVec 13) (s : State) : Host.Outcome State Fault Refusal :=
  runScalar (wordOf (.xori d a i)) (effUn d a fun x => x ^^^ i.signExtend 64) s

/-- SLTI: s_d takes 1 if s_a is below sext(imm), signed (05 R176). -/
def execSlti (d a : SReg) (i : BitVec 13) (s : State) : Host.Outcome State Fault Refusal :=
  runScalar (wordOf (.slti d a i)) (effUn d a fun x => flagWord (x.slt (i.signExtend 64))) s

/-- SLTIU: s_d takes 1 if s_a is below sext(imm), unsigned (05 R176). -/
def execSltiu (d a : SReg) (i : BitVec 13) (s : State) : Host.Outcome State Fault Refusal :=
  runScalar (wordOf (.sltiu d a i)) (effUn d a fun x => flagWord (x.ult (i.signExtend 64))) s

/-- SHLI: s_d takes s_a << imm (05 R176). -/
def execShli (d a : SReg) (k : BitVec 6) (s : State) : Host.Outcome State Fault Refusal :=
  runScalar (wordOf (.shli d a k)) (effUn d a fun x => x <<< k.toNat) s

/-- SHRI: s_d takes s_a >> imm, logically (05 R176). -/
def execShri (d a : SReg) (k : BitVec 6) (s : State) : Host.Outcome State Fault Refusal :=
  runScalar (wordOf (.shri d a k)) (effUn d a fun x => x >>> k.toNat) s

/-- SARI: s_d takes s_a >> imm, arithmetically (05 R176). -/
def execSari (d a : SReg) (k : BitVec 6) (s : State) : Host.Outcome State Fault Refusal :=
  runScalar (wordOf (.sari d a k)) (effUn d a fun x => x.sshiftRight k.toNat) s

/-- LDHI: chunk q of s_d takes the immediate, the other bits stay (04 R147, 05 R176). -/
def execLdhi (d : SReg) (q : BitVec 2) (i : BitVec 16) (s : State) : Host.Outcome State Fault Refusal :=
  runScalar (iFmt 0x04 d.toNat q.toNat i.toNat)
    (effUn d d fun x => (x &&& ~~~((0xFFFF : Word) <<< (16 * q.toNat))) ||| (i.setWidth 64 <<< (16 * q.toNat))) s

/-- ADDPC: s_d takes PC + sext(imm) × 4 (05 R176). -/
def execAddpc (d : SReg) (i : BitVec 16) (s : State) : Host.Outcome State Fault Refusal :=
  runScalar (iFmt 0x05 d.toNat 0 i.toNat) (fun s => .done (s.setS d (s.hart.pc + BitVec.ofInt 64 (4 * i.toInt)))) s

/-- BEQ: branches when s_a equals s_b (05 R180). -/
def execBeq (a b : SReg) (i : BitVec 13) (s : State) : Host.Outcome State Fault Refusal :=
  runScalar (wordOf (.beq a b i)) (fun s => effBranch (s.hart.readS a == (s.hart.readS b)) i.toInt s) s

/-- BNE: branches when s_a differs from s_b (05 R180). -/
def execBne (a b : SReg) (i : BitVec 13) (s : State) : Host.Outcome State Fault Refusal :=
  runScalar (wordOf (.bne a b i)) (fun s => effBranch (s.hart.readS a != (s.hart.readS b)) i.toInt s) s

/-- BLT: branches when s_a is below s_b, signed (05 R180). -/
def execBlt (a b : SReg) (i : BitVec 13) (s : State) : Host.Outcome State Fault Refusal :=
  runScalar (wordOf (.blt a b i)) (fun s => effBranch ((s.hart.readS a).slt (s.hart.readS b)) i.toInt s) s

/-- BGE: branches when s_a is at least s_b, signed (05 R180). -/
def execBge (a b : SReg) (i : BitVec 13) (s : State) : Host.Outcome State Fault Refusal :=
  runScalar (wordOf (.bge a b i)) (fun s => effBranch (!(s.hart.readS a).slt (s.hart.readS b)) i.toInt s) s

/-- BLTU: branches when s_a is below s_b, unsigned (05 R180). -/
def execBltu (a b : SReg) (i : BitVec 13) (s : State) : Host.Outcome State Fault Refusal :=
  runScalar (wordOf (.bltu a b i)) (fun s => effBranch ((s.hart.readS a).ult (s.hart.readS b)) i.toInt s) s

/-- BGEU: branches when s_a is at least s_b, unsigned (05 R180). -/
def execBgeu (a b : SReg) (i : BitVec 13) (s : State) : Host.Outcome State Fault Refusal :=
  runScalar (wordOf (.bgeu a b i)) (fun s => effBranch (!(s.hart.readS a).ult (s.hart.readS b)) i.toInt s) s

/-- BPANY: branches when at least one of bits 0 to VL − 1 of the predicate is 1 (05 R181). -/
def execBpany (p : PReg) (i : BitVec 16) (s : State) : Host.Outcome State Fault Refusal :=
  runScalar (wordOf (.bpany p i)) (fun s => effBranch (s.hart.predBits p != 0) i.toInt s) s

/-- BPALL: branches when each of those bits is 1 (05 R181). -/
def execBpall (p : PReg) (i : BitVec 16) (s : State) : Host.Outcome State Fault Refusal :=
  runScalar (wordOf (.bpall p i)) (fun s => effBranch (s.hart.predBits p == 2 ^ s.hart.vl.toNat - 1) i.toInt s) s

/-- BPNONE: branches when none of those bits is 1 (05 R181). -/
def execBpnone (p : PReg) (i : BitVec 16) (s : State) : Host.Outcome State Fault Refusal :=
  runScalar (wordOf (.bpnone p i)) (fun s => effBranch (s.hart.predBits p == 0) i.toInt s) s

/-- JAL: s31 takes PC + 4, and the hart goes to PC + sext(disp) × 4 (05 R182). -/
def execJal (i : BitVec 26) (s : State) : Host.Outcome State Fault Refusal :=
  runScalar (jFmt 0x0A i.toNat) (fun s => effBranch true i.toInt (s.setS 31 (s.hart.pc + 4))) s

/-- JALR: the target is s_a + sext(imm) with bits [1:0] cleared, from s_a before s_d takes PC + 4 (05 R182). -/
def execJalr (d a : SReg) (i : BitVec 16) (s : State) : Host.Outcome State Fault Refusal :=
  runScalar (iFmt 0x0B d.toNat a.toNat i.toNat)
    (fun s => .jump ((s.setS d (s.hart.pc + 4)).setPc ((s.hart.readS a + i.signExtend 64) &&& ~~~(3 : Word)))) s

end Sys2Proof.Machine
end

