-- ==== Sys2Proof/Machine/Tasks.lean ====
section
/-! DEFINITION. The task instructions, major 0x34: the end of a block and mortar tags (07 R260 to R262; 10 R336 to R339). -/

namespace Sys2Proof.Machine

/-- The tiles armed by the current hart that a TEND traps for, the first to trap first (07 R260). -/
def State.armedTiles (s : State) : List Tile :=
  let h := s.hart
  let mine := s.tiles.filter fun t =>
    t.ctx == h.ctxid.toNat && t.inst == levelInst t.lv h.core && t.arm == armOf t.lv h.num && (t.st == .filling || t.st == .fault)
  let key := fun (t : Tile) =>
    (if t.st = .fault ∧ t.rep = false then 0 else 2 ^ 60)
      + (match t.lv with | .s1 => 0 | .s2 => 2 ^ 50 | .s3 => 2 ^ 51) + t.base
  sortBy (fun a b => decide (key a ≤ key b)) mine

/-- TEND's effect (07 R260). -/
def effTend (s : State) : Eff :=
  match s.armedTiles with
  | t :: _ =>
    if t.st = .fault then let (c, s) := s.tileFault t s.hart.num; .trap c s else .trap (.tileState t.va) s
  | [] => if s.unregistered then .wait s else .done s.endBlock

/-- TEND: ends the hart's block (07 R260). -/
def execTend (s : State) : Host.Outcome State Fault Refusal := runQueued (wordOf .tend) effTend s

/-- The launch and the declaration that a tag argument names, if the argument is not stale (07 R261). -/
def State.namedTag (s : State) (write : Bool) (v : Word) : Option (Launch × Decl) :=
  match s.launchOf s.hart with
  | none => none
  | some l =>
    match l.decl write (bitsOf v.toNat 48 3) with
    | none => none
    | some d =>
      if bitsOf v.toNat 51 13 = 0 ∧ bitsOf v.toNat 32 16 = l.gen ∧ l.hasTile d (bitsOf v.toNat 0 32) then some (l, d) else none

/-- STALE_TAG: the replay of the hart's block aborts, and the hart enters its handler without the block, not waiting for work
(10 R338; log 32). -/
def State.staleTag (s : State) (v : Word) : Eff :=
  let h := s.hart
  let c := Cause.staleTag v
  match h.block with
  | none => .trap c s
  | some b =>
    let f : FaultRec := ⟨0, c.code, b.node, h.die, h.core % 24, h.num % 4, c.xtval 0 h.mode h.vcfg, h.pc, 0⟩
    let t := s.abort b.slot b.gen f
    .trap c { t with hart := { h with block := none }, fe := { t.fe with waiting := t.fe.waiting.filter (· != h.num) } }

/-- TAGSET's effect (07 R261; 10 R339). -/
def effTagset (a : SReg) (s : State) : Eff :=
  let v := s.hart.readS a
  match s.namedTag true v with
  | none => s.staleTag v
  | some (l, d) =>
    if s.fe.takeover ∨ s.unregistered then .wait s
    else .done (s.setTagEntry l.slot l.node d.idx (bitsOf v.toNat 0 32) l.gen)

/-- TAGSET: sets a mortar tag, as a release at device scope (07 R261). -/
def execTagset (a : SReg) (s : State) : Host.Outcome State Fault Refusal := runQueued (wordOf (.tagset a)) (effTagset a) s

/-- The tag that a read declaration's tile names is set, or, on a fallback edge, the producer has completed; a declaration without a
binding, and a tile without an entry, name no tag (07 R262). -/
def State.tagSet (s : State) (l : Launch) (d : Decl) (tile : Nat) : Bool :=
  if d.edge = 2 then ((s.replayOf l.slot l.gen).map fun r => r.done d.pnode).getD false
  else d.edge == 1 && s.fe.mortar.any fun m => m.isFor l.slot d.pnode d.pdecl tile l.gen && m.isSet

/-- TAGTEST's effect (07 R262). -/
def effTagtest (d a : SReg) (s : State) : Eff :=
  let v := s.hart.readS a
  match s.namedTag false v with
  | none => s.staleTag v
  | some (l, e) =>
    .done (s.setS d (if s.tagSet l e (bitsOf v.toNat 0 32) then 1 else 0))

/-- TAGTEST: s_d takes whether a tag is set (07 R262). -/
def execTagtest (d a : SReg) (s : State) : Host.Outcome State Fault Refusal :=
  runQueued (wordOf (.tagtest d a)) (effTagtest d a) s

/-- BLOCK_DISPATCH: the dispatcher serves a hart's request for work (10 R330). -/
def execBlockDispatch (n : Nat) (s : State) : Host.Outcome State Fault Refusal := .next (s.dispatch n)

end Sys2Proof.Machine
end

