-- ==== Sys2Proof/Machine/Dispatch.lean ====
section
/-! DEFINITION. The dispatch of an instruction to its meaning: one arm per constructor. -/

namespace Sys2Proof.Machine

/-- What a step of the machine does: an instruction of the current hart, or a step of the device. -/
def exec (i : Instr) (s : State) : Host.Outcome State Fault Refusal :=
  match i with
  | .add d a b => Sys2Proof.Machine.execAdd d a b s
  | .sub d a b => Sys2Proof.Machine.execSub d a b s
  | .mul d a b => Sys2Proof.Machine.execMul d a b s
  | .mulh d a b => Sys2Proof.Machine.execMulh d a b s
  | .mulhu d a b => Sys2Proof.Machine.execMulhu d a b s
  | .div d a b => Sys2Proof.Machine.execDiv d a b s
  | .divu d a b => Sys2Proof.Machine.execDivu d a b s
  | .rem d a b => Sys2Proof.Machine.execRem d a b s
  | .remu d a b => Sys2Proof.Machine.execRemu d a b s
  | .and d a b => Sys2Proof.Machine.execAnd d a b s
  | .or d a b => Sys2Proof.Machine.execOr d a b s
  | .xor d a b => Sys2Proof.Machine.execXor d a b s
  | .andn d a b => Sys2Proof.Machine.execAndn d a b s
  | .shl d a b => Sys2Proof.Machine.execShl d a b s
  | .shr d a b => Sys2Proof.Machine.execShr d a b s
  | .sar d a b => Sys2Proof.Machine.execSar d a b s
  | .rotr d a b => Sys2Proof.Machine.execRotr d a b s
  | .min d a b => Sys2Proof.Machine.execMin d a b s
  | .max d a b => Sys2Proof.Machine.execMax d a b s
  | .minu d a b => Sys2Proof.Machine.execMinu d a b s
  | .maxu d a b => Sys2Proof.Machine.execMaxu d a b s
  | .seq d a b => Sys2Proof.Machine.execSeq d a b s
  | .sne d a b => Sys2Proof.Machine.execSne d a b s
  | .slt d a b => Sys2Proof.Machine.execSlt d a b s
  | .sltu d a b => Sys2Proof.Machine.execSltu d a b s
  | .sel d a b => Sys2Proof.Machine.execSel d a b s
  | .clz d a => Sys2Proof.Machine.execClz d a s
  | .ctz d a => Sys2Proof.Machine.execCtz d a s
  | .popc d a => Sys2Proof.Machine.execPopc d a s
  | .brev d a => Sys2Proof.Machine.execBrev d a s
  | .sextB d a => Sys2Proof.Machine.execSextB d a s
  | .sextH d a => Sys2Proof.Machine.execSextH d a s
  | .sextW d a => Sys2Proof.Machine.execSextW d a s
  | .zextB d a => Sys2Proof.Machine.execZextB d a s
  | .zextH d a => Sys2Proof.Machine.execZextH d a s
  | .zextW d a => Sys2Proof.Machine.execZextW d a s
  | .shadd d a b k => Sys2Proof.Machine.execShadd d a b k s
  | .addi d a imm => Sys2Proof.Machine.execAddi d a imm s
  | .andi d a imm => Sys2Proof.Machine.execAndi d a imm s
  | .ori d a imm => Sys2Proof.Machine.execOri d a imm s
  | .xori d a imm => Sys2Proof.Machine.execXori d a imm s
  | .slti d a imm => Sys2Proof.Machine.execSlti d a imm s
  | .sltiu d a imm => Sys2Proof.Machine.execSltiu d a imm s
  | .shli d a x => Sys2Proof.Machine.execShli d a x s
  | .shri d a x => Sys2Proof.Machine.execShri d a x s
  | .sari d a x => Sys2Proof.Machine.execSari d a x s
  | .ldb d a imm => Sys2Proof.Machine.execLdb d a imm s
  | .ldbu d a imm => Sys2Proof.Machine.execLdbu d a imm s
  | .ldh d a imm => Sys2Proof.Machine.execLdh d a imm s
  | .ldhu d a imm => Sys2Proof.Machine.execLdhu d a imm s
  | .ldw d a imm => Sys2Proof.Machine.execLdw d a imm s
  | .ldwu d a imm => Sys2Proof.Machine.execLdwu d a imm s
  | .ldd d a imm => Sys2Proof.Machine.execLdd d a imm s
  | .stb a b imm => Sys2Proof.Machine.execStb a b imm s
  | .sth a b imm => Sys2Proof.Machine.execSth a b imm s
  | .stw a b imm => Sys2Proof.Machine.execStw a b imm s
  | .std a b imm => Sys2Proof.Machine.execStd a b imm s
  | .beq a b imm => Sys2Proof.Machine.execBeq a b imm s
  | .bne a b imm => Sys2Proof.Machine.execBne a b imm s
  | .blt a b imm => Sys2Proof.Machine.execBlt a b imm s
  | .bge a b imm => Sys2Proof.Machine.execBge a b imm s
  | .bltu a b imm => Sys2Proof.Machine.execBltu a b imm s
  | .bgeu a b imm => Sys2Proof.Machine.execBgeu a b imm s
  | .bpany p imm => Sys2Proof.Machine.execBpany p imm s
  | .bpall p imm => Sys2Proof.Machine.execBpall p imm s
  | .bpnone p imm => Sys2Proof.Machine.execBpnone p imm s
  | .fadd d a b p => Sys2Proof.Machine.execFadd d a b p s
  | .fsub d a b p => Sys2Proof.Machine.execFsub d a b p s
  | .fmul d a b p => Sys2Proof.Machine.execFmul d a b p s
  | .fma d a b p => Sys2Proof.Machine.execFma d a b p s
  | .fnma d a b p => Sys2Proof.Machine.execFnma d a b p s
  | .fdiv d a b p => Sys2Proof.Machine.execFdiv d a b p s
  | .fsqrt d a p => Sys2Proof.Machine.execFsqrt d a p s
  | .fmin d a b p => Sys2Proof.Machine.execFmin d a b p s
  | .fmax d a b p => Sys2Proof.Machine.execFmax d a b p s
  | .feq d a b p => Sys2Proof.Machine.execFeq d a b p s
  | .flt d a b p => Sys2Proof.Machine.execFlt d a b p s
  | .fle d a b p => Sys2Proof.Machine.execFle d a b p s
  | .fcvtFf d a p => Sys2Proof.Machine.execFcvtFf d a p s
  | .fcvtFs d a p => Sys2Proof.Machine.execFcvtFs d a p s
  | .fcvtFu d a p => Sys2Proof.Machine.execFcvtFu d a p s
  | .fcvtSf d a p => Sys2Proof.Machine.execFcvtSf d a p s
  | .fcvtUf d a p => Sys2Proof.Machine.execFcvtUf d a p s
  | .fclass d a p => Sys2Proof.Machine.execFclass d a p s
  | .ldacq d a w x => Sys2Proof.Machine.execLdacq d a w x s
  | .strel a b w x => Sys2Proof.Machine.execStrel a b w x s
  | .fence k x => Sys2Proof.Machine.execFence k x s
  | .amoadd d a b w o x => Sys2Proof.Machine.execAmoadd d a b w o x s
  | .amoand d a b w o x => Sys2Proof.Machine.execAmoand d a b w o x s
  | .amoor d a b w o x => Sys2Proof.Machine.execAmoor d a b w o x s
  | .amoxor d a b w o x => Sys2Proof.Machine.execAmoxor d a b w o x s
  | .amomin d a b w o x => Sys2Proof.Machine.execAmomin d a b w o x s
  | .amomax d a b w o x => Sys2Proof.Machine.execAmomax d a b w o x s
  | .amominu d a b w o x => Sys2Proof.Machine.execAmominu d a b w o x s
  | .amomaxu d a b w o x => Sys2Proof.Machine.execAmomaxu d a b w o x s
  | .amoswap d a b w o x => Sys2Proof.Machine.execAmoswap d a b w o x s
  | .amocas d a b w o x => Sys2Proof.Machine.execAmocas d a b w o x s
  | .amofadd d a b w o x => Sys2Proof.Machine.execAmofadd d a b w o x s
  | .amofmin d a b w o x => Sys2Proof.Machine.execAmofmin d a b w o x s
  | .amofmax d a b w o x => Sys2Proof.Machine.execAmofmax d a b w o x s
  | .csrr d c => Sys2Proof.Machine.execCsrr d c s
  | .csrw a c => Sys2Proof.Machine.execCsrw a c s
  | .csrx d a c => Sys2Proof.Machine.execCsrx d a c s
  | .trap imm => Sys2Proof.Machine.execTrap imm s
  | .brk imm => Sys2Proof.Machine.execBrk imm s
  | .waitw d a => Sys2Proof.Machine.execWaitw d a s
  | .vadd d a b h => Sys2Proof.Machine.execVadd d a b h s
  | .vsub d a b h => Sys2Proof.Machine.execVsub d a b h s
  | .vrsub d a b h => Sys2Proof.Machine.execVrsub d a b h s
  | .vmul d a b h => Sys2Proof.Machine.execVmul d a b h s
  | .vmulh d a b h => Sys2Proof.Machine.execVmulh d a b h s
  | .vmulhu d a b h => Sys2Proof.Machine.execVmulhu d a b h s
  | .vmadd d a b h => Sys2Proof.Machine.execVmadd d a b h s
  | .vdiv d a b h => Sys2Proof.Machine.execVdiv d a b h s
  | .vdivu d a b h => Sys2Proof.Machine.execVdivu d a b h s
  | .vrem d a b h => Sys2Proof.Machine.execVrem d a b h s
  | .vmin d a b h => Sys2Proof.Machine.execVmin d a b h s
  | .vmax d a b h => Sys2Proof.Machine.execVmax d a b h s
  | .vminu d a b h => Sys2Proof.Machine.execVminu d a b h s
  | .vmaxu d a b h => Sys2Proof.Machine.execVmaxu d a b h s
  | .vand d a b h => Sys2Proof.Machine.execVand d a b h s
  | .vor d a b h => Sys2Proof.Machine.execVor d a b h s
  | .vxor d a b h => Sys2Proof.Machine.execVxor d a b h s
  | .vshl d a b h => Sys2Proof.Machine.execVshl d a b h s
  | .vshr d a b h => Sys2Proof.Machine.execVshr d a b h s
  | .vsar d a b h => Sys2Proof.Machine.execVsar d a b h s
  | .vsadd d a b h => Sys2Proof.Machine.execVsadd d a b h s
  | .vsaddu d a b h => Sys2Proof.Machine.execVsaddu d a b h s
  | .vssub d a b h => Sys2Proof.Machine.execVssub d a b h s
  | .vssubu d a b h => Sys2Proof.Machine.execVssubu d a b h s
  | .vabs d a => Sys2Proof.Machine.execVabs d a s
  | .vclz d a => Sys2Proof.Machine.execVclz d a s
  | .vpopc d a => Sys2Proof.Machine.execVpopc d a s
  | .vcmp d a b h c => Sys2Proof.Machine.execVcmp d a b h c s
  | .vsel d a b h p => Sys2Proof.Machine.execVsel d a b h p s
  | .vmv d b h => Sys2Proof.Machine.execVmv d b h s
  | .vid d => Sys2Proof.Machine.execVid d s
  | .vext d a b h => Sys2Proof.Machine.execVext d a b h s
  | .vins d a b h => Sys2Proof.Machine.execVins d a b h s
  | .vwiden d b k => Sys2Proof.Machine.execVwiden d b k s
  | .vnshr d a b h k => Sys2Proof.Machine.execVnshr d a b h k s
  | .vfadd d a b h => Sys2Proof.Machine.execVfadd d a b h s
  | .vfsub d a b h => Sys2Proof.Machine.execVfsub d a b h s
  | .vfmul d a b h => Sys2Proof.Machine.execVfmul d a b h s
  | .vfma d a b h => Sys2Proof.Machine.execVfma d a b h s
  | .vfnma d a b h => Sys2Proof.Machine.execVfnma d a b h s
  | .vfms d a b h => Sys2Proof.Machine.execVfms d a b h s
  | .vfdiv d a b h => Sys2Proof.Machine.execVfdiv d a b h s
  | .vfsqrt d a => Sys2Proof.Machine.execVfsqrt d a s
  | .vfmin d a b h => Sys2Proof.Machine.execVfmin d a b h s
  | .vfmax d a b h => Sys2Proof.Machine.execVfmax d a b h s
  | .vfsgn d a b h k => Sys2Proof.Machine.execVfsgn d a b h k s
  | .vfrcp d a => Sys2Proof.Machine.execVfrcp d a s
  | .vfrsq d a => Sys2Proof.Machine.execVfrsq d a s
  | .vfexp2 d a => Sys2Proof.Machine.execVfexp2 d a s
  | .vflog2 d a => Sys2Proof.Machine.execVflog2 d a s
  | .vfcvt d a k => Sys2Proof.Machine.execVfcvt d a k s
  | .vfclass d a => Sys2Proof.Machine.execVfclass d a s
  | .vfcmp d a b h c => Sys2Proof.Machine.execVfcmp d a b h c s
  | .vmulm d a b h k => Sys2Proof.Machine.execVmulm d a b h k s
  | .vfmam d a b h => Sys2Proof.Machine.execVfmam d a b h s
  | .vredsum d a b h => Sys2Proof.Machine.execVredsum d a b h s
  | .vredmin d a b h => Sys2Proof.Machine.execVredmin d a b h s
  | .vredmax d a b h => Sys2Proof.Machine.execVredmax d a b h s
  | .vredminu d a b h => Sys2Proof.Machine.execVredminu d a b h s
  | .vredmaxu d a b h => Sys2Proof.Machine.execVredmaxu d a b h s
  | .vredand d a b h => Sys2Proof.Machine.execVredand d a b h s
  | .vredor d a b h => Sys2Proof.Machine.execVredor d a b h s
  | .vredxor d a b h => Sys2Proof.Machine.execVredxor d a b h s
  | .vfredsum d a b h => Sys2Proof.Machine.execVfredsum d a b h s
  | .vfredmin d a b h => Sys2Proof.Machine.execVfredmin d a b h s
  | .vfredmax d a b h => Sys2Proof.Machine.execVfredmax d a b h s
  | .vslideup d a b h => Sys2Proof.Machine.execVslideup d a b h s
  | .vslidedn d a b h => Sys2Proof.Machine.execVslidedn d a b h s
  | .vperm d a b => Sys2Proof.Machine.execVperm d a b s
  | .vcompress d a => Sys2Proof.Machine.execVcompress d a s
  | .vexpand d a => Sys2Proof.Machine.execVexpand d a s
  | .vscan d a k => Sys2Proof.Machine.execVscan d a k s
  | .vtopk d a b k => Sys2Proof.Machine.execVtopk d a b k s
  | .pand d a b => Sys2Proof.Machine.execPand d a b s
  | .por d a b => Sys2Proof.Machine.execPor d a b s
  | .pxor d a b => Sys2Proof.Machine.execPxor d a b s
  | .pandn d a b => Sys2Proof.Machine.execPandn d a b s
  | .pcnt d a => Sys2Proof.Machine.execPcnt d a s
  | .pfirst d a => Sys2Proof.Machine.execPfirst d a s
  | .psetn d a => Sys2Proof.Machine.execPsetn d a s
  | .pmovPp d a => Sys2Proof.Machine.execPmovPp d a s
  | .pmovPv d a => Sys2Proof.Machine.execPmovPv d a s
  | .pmovVp d a => Sys2Proof.Machine.execPmovVp d a s
  | .vquant d a b => Sys2Proof.Machine.execVquant d a b s
  | .vdeq d a b => Sys2Proof.Machine.execVdeq d a b s
  | .vscale d a b => Sys2Proof.Machine.execVscale d a b s
  | .vld d a o r x => Sys2Proof.Machine.execVld d a o r x s
  | .vlds d a b r x => Sys2Proof.Machine.execVlds d a b r x s
  | .vldg d a o f r x => Sys2Proof.Machine.execVldg d a o f r x s
  | .vldx d a b r x => Sys2Proof.Machine.execVldx d a b r x s
  | .vldff d a o r x => Sys2Proof.Machine.execVldff d a o r x s
  | .vst d a o r x => Sys2Proof.Machine.execVst d a o r x s
  | .vsts d a b r x => Sys2Proof.Machine.execVsts d a b r x s
  | .vstg d a o f r x => Sys2Proof.Machine.execVstg d a o f r x s
  | .vstx d a b r x => Sys2Proof.Machine.execVstx d a b r x s
  | .vstxa d a b r x => Sys2Proof.Machine.execVstxa d a b r x s
  | .vstxc d a b r x => Sys2Proof.Machine.execVstxc d a b r x s
  | .pld d a o r x => Sys2Proof.Machine.execPld d a o r x s
  | .pst d a o r x => Sys2Proof.Machine.execPst d a o r x s
  | .sbind d a => Sys2Proof.Machine.execSbind d a s
  | .sunbind d => Sys2Proof.Machine.execSunbind d s
  | .spos d a => Sys2Proof.Machine.execSpos d a s
  | .mzero d => Sys2Proof.Machine.execMzero d s
  | .mma d a b => Sys2Proof.Machine.execMma d a b s
  | .mmam d a b => Sys2Proof.Machine.execMmam d a b s
  | .mdrain d a b f m => Sys2Proof.Machine.execMdrain d a b f m s
  | .mpert a b => Sys2Proof.Machine.execMpert a b s
  | .tldef a b => Sys2Proof.Machine.execTldef a b s
  | .tlexp a b => Sys2Proof.Machine.execTlexp a b s
  | .tlwait a b => Sys2Proof.Machine.execTlwait a b s
  | .tlrel a => Sys2Proof.Machine.execTlrel a s
  | .cpy a b => Sys2Proof.Machine.execCpy a b s
  | .cpyp a b => Sys2Proof.Machine.execCpyp a b s
  | .cpyg a b => Sys2Proof.Machine.execCpyg a b s
  | .cpys a b => Sys2Proof.Machine.execCpys a b s
  | .mshq d a b => Sys2Proof.Machine.execMshq d a b s
  | .mshgl a => Sys2Proof.Machine.execMshgl a s
  | .mshref a => Sys2Proof.Machine.execMshref a s
  | .mshcrs a => Sys2Proof.Machine.execMshcrs a s
  | .mshren a => Sys2Proof.Machine.execMshren a s
  | .mshcut a => Sys2Proof.Machine.execMshcut a s
  | .mshmig a => Sys2Proof.Machine.execMshmig a s
  | .mshwait a => Sys2Proof.Machine.execMshwait a s
  | .clrgen a => Sys2Proof.Machine.execClrgen a s
  | .binapp d a b => Sys2Proof.Machine.execBinapp d a b s
  | .binplay a => Sys2Proof.Machine.execBinplay a s
  | .binwait a => Sys2Proof.Machine.execBinwait a s
  | .tagset a => Sys2Proof.Machine.execTagset a s
  | .tagtest d a => Sys2Proof.Machine.execTagtest d a s
  | .rget d a b => Sys2Proof.Machine.execRget d a b s
  | .rput d a => Sys2Proof.Machine.execRput d a s
  | .ratom d a b c w => Sys2Proof.Machine.execRatom d a b c w s
  | .cred a => Sys2Proof.Machine.execCred a s
  | .cbcast a => Sys2Proof.Machine.execCbcast a s
  | .vsetl d a g e f => Sys2Proof.Machine.execVsetl d a g e f s
  | .vsetli d v g e f => Sys2Proof.Machine.execVsetli d v g e f s
  | .setmode d l m => Sys2Proof.Machine.execSetmode d l m s
  | .setmodev d a => Sys2Proof.Machine.execSetmodev d a s
  | .ldhi d q imm => Sys2Proof.Machine.execLdhi d q imm s
  | .addpc d imm => Sys2Proof.Machine.execAddpc d imm s
  | .jal imm => Sys2Proof.Machine.execJal imm s
  | .jalr d a imm => Sys2Proof.Machine.execJalr d a imm s
  | .rep c x t => Sys2Proof.Machine.execRep c x t s
  | .eret => Sys2Proof.Machine.execEret s
  | .yield => Sys2Proof.Machine.execYield s
  | .vsync => Sys2Proof.Machine.execVsync s
  | .tend => Sys2Proof.Machine.execTend s
  | .rflush => Sys2Proof.Machine.execRflush s
  | .microOperationIssue n j e => Sys2Proof.Machine.execMicroOperationIssue n j e s
  | .vectorCommit n j w => Sys2Proof.Machine.execVectorCommit n j w s
  | .heldInstructionRetire n => Sys2Proof.Machine.execHeldInstructionRetire n s
  | .hartWake n => Sys2Proof.Machine.execHartWake n s
  | .waitwRecheck n => Sys2Proof.Machine.execWaitwRecheck n s
  | .blockDispatch n => Sys2Proof.Machine.execBlockDispatch n s
  | .commandClaimRegistration e k => Sys2Proof.Machine.execCommandClaimRegistration e k s
  | .copyCommandRun core => Sys2Proof.Machine.execCopyCommandRun core s
  | .tileWatchdogExpiry lv k base => Sys2Proof.Machine.execTileWatchdogExpiry lv k base s
  | .topologyCommandRun die => Sys2Proof.Machine.execTopologyCommandRun die s
  | .colouringCommandRun die => Sys2Proof.Machine.execColouringCommandRun die s
  | .binAppendWrite die => Sys2Proof.Machine.execBinAppendWrite die s
  | .binningCommandRun die => Sys2Proof.Machine.execBinningCommandRun die s
  | .hodTileTransfer t => Sys2Proof.Machine.execHodTileTransfer t s
  | .remoteRequestAtPeer src ctx q => Sys2Proof.Machine.execRemoteRequestAtPeer src ctx q s
  | .peerAccessArrival src ctx q => Sys2Proof.Machine.execPeerAccessArrival src ctx q s
  | .collectiveComplete id agree parts => Sys2Proof.Machine.execCollectiveComplete id agree parts s
  | .collectiveTimeout id => Sys2Proof.Machine.execCollectiveTimeout id s
  | .kick w bits => Sys2Proof.Machine.execKick w bits s
  | .take w bits => Sys2Proof.Machine.execTake w bits s
  | .slotTake slot => Sys2Proof.Machine.execSlotTake slot s
  | .kernelNodeLaunch slot node => Sys2Proof.Machine.execKernelNodeLaunch slot node s
  | .launchPacket die slot node => Sys2Proof.Machine.execLaunchPacket die slot node s
  | .copyNode slot node => Sys2Proof.Machine.execCopyNode slot node s
  | .conditionalNode slot node => Sys2Proof.Machine.execConditionalNode slot node s
  | .switchNode slot node => Sys2Proof.Machine.execSwitchNode slot node s
  | .loopNode slot node => Sys2Proof.Machine.execLoopNode slot node s
  | .loopBodyEnd slot node => Sys2Proof.Machine.execLoopBodyEnd slot node s
  | .eventWaitNode slot node => Sys2Proof.Machine.execEventWaitNode slot node s
  | .eventSignalNode slot node => Sys2Proof.Machine.execEventSignalNode slot node s
  | .selfTestNode slot node => Sys2Proof.Machine.execSelfTestNode slot node s
  | .endNode slot node => Sys2Proof.Machine.execEndNode slot node s
  | .nodeCompletion slot node => Sys2Proof.Machine.execNodeCompletion slot node s
  | .completionAcknowledge die slot node => Sys2Proof.Machine.execCompletionAcknowledge die slot node s
  | .replayEnd slot => Sys2Proof.Machine.execReplayEnd slot s
  | .heartbeatTimeout => Sys2Proof.Machine.execHeartbeatTimeout s
  | .controlHartMemoryError n addr e => Sys2Proof.Machine.execControlHartMemoryError n addr e s
  | .takeoverTimeout => Sys2Proof.Machine.execTakeoverTimeout s
  | .ctxkick bits => Sys2Proof.Machine.execCtxkick bits s
  | .inval bits => Sys2Proof.Machine.execInval bits s
  | .translationInvalidationComplete ctx => Sys2Proof.Machine.execTranslationInvalidationComplete ctx s
  | .preempt bits => Sys2Proof.Machine.execPreempt bits s
  | .preemptAcknowledge ctx u => Sys2Proof.Machine.execPreemptAcknowledge ctx u s
  | .preemptTimeout ctx u => Sys2Proof.Machine.execPreemptTimeout ctx u s
  | .resume bits => Sys2Proof.Machine.execResume bits s
  | .inboundPostedWrite port fn tgt data => Sys2Proof.Machine.execInboundPostedWrite port fn tgt data s
  | .inboundGo port num go => Sys2Proof.Machine.execInboundGo port num go s
  | .inboundAcknowledgement port num home => Sys2Proof.Machine.execInboundAcknowledgement port num home s
  | .hostReadRequest port fn tgt len => Sys2Proof.Machine.execHostReadRequest port fn tgt len s
  | .releaseRecord bank idx => Sys2Proof.Machine.execReleaseRecord bank idx s
  | .retireChannel die ch => Sys2Proof.Machine.execRetireChannel die ch s
  | .releaseReserve die => Sys2Proof.Machine.execReleaseReserve die s
  | .setPatrol die hours => Sys2Proof.Machine.execSetPatrol die hours s
  | .setSelftest period => Sys2Proof.Machine.execSetSelftest period s
  | .setRelayshare die share => Sys2Proof.Machine.execSetRelayshare die share s
  | .readCoverage die => Sys2Proof.Machine.execReadCoverage die s
  | .setDeviceNumber d => Sys2Proof.Machine.execSetDeviceNumber d s
  | .writeRoute d mask => Sys2Proof.Machine.execWriteRoute d mask s
  | .spdmRequest q => Sys2Proof.Machine.execSpdmRequest q s
  | .firmwareUpdate q => Sys2Proof.Machine.execFirmwareUpdate q s
  | .svnAdvance => Sys2Proof.Machine.execSvnAdvance s
  | .injectCorrectable u off mask cnt => Sys2Proof.Machine.execInjectCorrectable u off mask cnt s
  | .injectUncorrectable u off mask cnt => Sys2Proof.Machine.execInjectUncorrectable u off mask cnt s
  | .injectPoison u off cnt => Sys2Proof.Machine.execInjectPoison u off cnt s
  | .injectFailChannel u ch => Sys2Proof.Machine.execInjectFailChannel u ch s
  | .channelFailure die ch => Sys2Proof.Machine.execChannelFailure die ch s
  | .relayGranuleMove die count => Sys2Proof.Machine.execRelayGranuleMove die count s
  | .spareRebuild die => Sys2Proof.Machine.execSpareRebuild die s
  | .patrolPeriodStart die => Sys2Proof.Machine.execPatrolPeriodStart die s
  | .patrolRead die region => Sys2Proof.Machine.execPatrolRead die region s
  | .alertBackoff die bank postponed => Sys2Proof.Machine.execAlertBackoff die bank postponed s
  | .retentionEntry lv k arr => Sys2Proof.Machine.execRetentionEntry lv k arr s
  | .retentionExit lv k arr corrected => Sys2Proof.Machine.execRetentionExit lv k arr corrected s
  | .housekeeperSelfTest core full => Sys2Proof.Machine.execHousekeeperSelfTest core full s
  | .selfTestEnd core pass block => Sys2Proof.Machine.execSelfTestEnd core pass block s
  | .selfTestLimit core => Sys2Proof.Machine.execSelfTestLimit core s
  | .selfTestAbandon core => Sys2Proof.Machine.execSelfTestAbandon core s
  | .powerMeasurement watts => Sys2Proof.Machine.execPowerMeasurement watts s
  | .clockRaise => Sys2Proof.Machine.execClockRaise s
  | .thermalLimit sn celsius => Sys2Proof.Machine.execThermalLimit sn celsius s
  | .idleEntry die => Sys2Proof.Machine.execIdleEntry die s
  | .standbyRequest => Sys2Proof.Machine.execStandbyRequest s
  | .powerLoss => Sys2Proof.Machine.execPowerLoss s
  | .coldReset strap t badCores => Sys2Proof.Machine.execColdReset strap t badCores s
  | .warmReset t badCores => Sys2Proof.Machine.execWarmReset t badCores s
  | .beydinPortDown e => Sys2Proof.Machine.execBeydinPortDown e s
  | .pciePortDown p e => Sys2Proof.Machine.execPciePortDown p e s
  | .registerWrite target off v => Sys2Proof.Machine.execRegisterWrite target off v s
  | .wordNotAnInstruction w => Sys2Proof.Machine.execWordNotAnInstruction w s
  | .instructionFetchFault denied va => Sys2Proof.Machine.execInstructionFetchFault denied va s
  | .streamReadAhead n r => Sys2Proof.Machine.execStreamReadAhead n r s
  | .peerReply n dev status => Sys2Proof.Machine.execPeerReply n dev status s
  | .controlHartReload n pass => Sys2Proof.Machine.execControlHartReload n pass s
  | .standbyExit => Sys2Proof.Machine.execStandbyExit s

end Sys2Proof.Machine
end

