-- ==== Sys2Proof/Machine/Run.lean ====
section
/-! DEFINITION. A fetched word runs: its instruction's meaning, or the fate of a word that is no instruction. -/

namespace Sys2Proof.Machine

/-- What the decoder read runs on the current hart. -/
def Decoded.run (w : IWord) (s : State) : Decoded → Host.Outcome State Fault Refusal
  | .instr i => exec i s
  | .reject _ => execWordNotAnInstruction w s

/-- A word runs on the current hart. -/
noncomputable def State.runWord (w : IWord) (s : State) : Host.Outcome State Fault Refusal := Decoded.run w s (decode w)

/-- The same, as compiled code can run it: the five majors whose instructions it cannot build go to their meanings (log 16). -/
def State.runWordFast (w : IWord) (s : State) : Host.Outcome State Fault Refusal :=
  let n := w.toNat
  match n / 67108864 % 64 with
  | 0x04 => if n / 262144 % 8 = 0 then execLdhi (fD n) (fld 16 2 n) (BitVec.ofNat 16 n) s else execWordNotAnInstruction w s
  | 0x05 => if n / 65536 % 32 = 0 then execAddpc (fD n) (BitVec.ofNat 16 n) s else execWordNotAnInstruction w s
  | 0x0A => execJal (BitVec.ofNat 26 n) s
  | 0x0B => execJalr (fD n) (fA n) (BitVec.ofNat 16 n) s
  | 0x38 => if n % 32768 = 0 then execRep (fld 20 6 n) (fld 17 3 n) (fld 15 2 n) s else execWordNotAnInstruction w s
  | _ => Decoded.run w s (decodeMost n)

/-- The two agree. -/
@[csimp] theorem State.runWord_eq_fast : @State.runWord = @State.runWordFast := by
  funext w s
  unfold State.runWord State.runWordFast decode decodeNat
  dsimp only
  generalize w.toNat / 67108864 % 64 = m
  split
  · unfold decode04 ok; split <;> rfl
  · unfold decode05 ok; split <;> rfl
  · rfl
  · rfl
  · unfold decode38 ok; split <;> rfl
  · (repeat split) <;> first | contradiction | rfl

end Sys2Proof.Machine
end

