-- ==== Sys2Proof/Machine/Turn.lean ====
section
/-! DEFINITION. Whose turn it is, and what that party does (01 R15, R20, R23; 16 R431; log 2). -/

namespace Sys2Proof.Machine

/-- The current hart runs: its next instruction is fetched and does what it means (01 R15, R20). -/
def State.runHart (s : State) : Host.Outcome State Fault Refusal :=
  let s := { s with hart := { s.hart with st := .running } }
  match s.fetch s.hart.pc with
  | .wait => .next { s with hart := { s.hart with st := .waiting } }
  | .mcheck c t => .next (t.fetchTrap c)
  | .fault denied va => execInstructionFetchFault denied va s
  | .word w t => t.runWord w

/-- The current hart executes instructions: it is RUNNING, or WAITING and looks whether it still must (01 R20). -/
def State.canRun (s : State) : Bool := s.powered && (s.hart.st == .running || s.hart.st == .waiting)

/-- The current hart's turn, where it takes it itself. -/
def State.ownTurn (s : State) : Host.Outcome State Fault Refusal := if s.canRun then s.runHart else .next s

/-- The current hart's turn (05 R198). -/
def State.hartTurn (s : State) : Host.Outcome State Fault Refusal := s.givenTurn.ownTurn

/-- The engine that holds a command makes its next step (07 R255, R258; 08 R280). -/
def State.engineTurn (s : State) (k : Command) : State :=
  match k.kind with
  | .copy => s.copyStep k.unit
  | .topology => s.engineStep .topology k.unit fun k => Eng.run k (runTopology k)
  | .colouring => s.engineStep .colouring k.unit fun k => Eng.run k (runClrgen k)
  | .binning =>
    if s.binHead k.unit 1 then s.engineStep .binning k.unit fun k => runAppend k k.extra
    else s.engineStep .binning k.unit runBinplay
  | .hod =>
    match k.status with
    | some (c, d) => s.complete k c d
    | none => s

/-- The oldest step of an engine that can be made: a pending registration, or a command that may run (03 R132, R139). -/
def State.progress (s : State) : Option State :=
  (s.cmds.findSome? s.tryIssue).orElse fun _ =>
    s.cmds.findSome? fun k => if (s.engineTurn k).cmds = s.cmds then none else some (s.engineTurn k)

/-- The turn where no party is named: engines move while the current hart waits, and the hart where they cannot (03 R139;
log 2). -/
def State.freeTurn (s : State) : Host.Outcome State Fault Refusal :=
  if s.powered && s.hart.st == .waiting then
    match s.progress with
    | some t => .next t
    | none => s.hartTurn
  else s.hartTurn

/-- A step of the device that no hart takes: the rows that a hart's own turn performs change nothing here (log 2), and a module without
power does nothing but begin a cold reset (16 R431). -/
def State.eventTurn (i : Instr) (s : State) : Host.Outcome State Fault Refusal :=
  if i.hasWord then .next s
  else
    match i with
    | .wordNotAnInstruction _ => .next s
    | .instructionFetchFault _ _ => .next s
    | .coldReset strap t cores => exec (.coldReset strap t cores) s
    | i => if s.pow.st = .off then .next s else exec i s

/-- The party at the head of the agenda takes its turn (log 2). -/
def State.takeTurn (t : Turn) (s : State) : Host.Outcome State Fault Refusal :=
  match t with
  | .hart n => if n < 1155 then (s.switchTo n).hartTurn else .fault .noSuchHart
  | .event i => s.eventTurn i
  | .fill n va => .next (s.buffer (s.hartAt n).env va)

/-- The key of the plain memory that the current hart fetches from, where its next step fetches at all. -/
def State.fetchKey (s : State) : Option Nat :=
  if s.canRun && !s.hart.yielded then
    match s.check s.hart.env s.hart.num .fetch s.hart.pc 4 with
    | .ok [⟨_, _, .mem k _ _⟩] => if (s.readCheck k 4).2 = none then some k else none
    | _ => none
  else none

/-- A hart that fetches from plain memory through tables of one 1 GiB leaf (log 6). -/
def State.stage (s : State) : State :=
  { s with
    mem := Memory.writeLE (Memory.writeLE s.mem 0x1000 8 0x2001) 0x2000 8 0xBF
    pow := { s.pow with st := .run }
    hart := { s.hart with st := .running, yielded := false, pc := 0x10000, ptroot := 0x1000 } }

/-- The word `w` stands where the next step fetches (log 6). -/
def State.placeWord (s : State) (w : Nat) : State :=
  match s.fetchKey with
  | some k => { s with agenda := [], mem := Memory.writeLE s.mem k 4 w, hart := { s.hart with st := .running } }
  | none => { s.stage with agenda := [], mem := Memory.writeLE s.stage.mem 0x10000 4 w }

end Sys2Proof.Machine
end

