-- ==== Sys2Proof/Safety.lean ====
section
/-! DEFINITION. The terms in which the statements speak: what an instruction that completes leaves, by the shape of the
instruction. -/

namespace Sys2Proof.Machine

/-! ### Scalar shapes -/

/-- The state after the word of an instruction that completed with `t`: it retires and the pc moves past it (01 R20, R39). -/
def State.past (t : State) : State := (t.retire 1).setPc (t.hart.pc + 4)

/-- An instruction of s_d, s_a and s_b writes s_d with the value that the relation fixes, and changes nothing else. -/
def WritesOfTwo (mk : SReg → SReg → SReg → Instr) (r : Word → Word → Word → Prop) : Prop :=
  ∀ s d a b, ∃ v, exec (mk d a b) s = .next (s.setS d v).past ∧ r (s.hart.readS a) (s.hart.readS b) v

/-- An instruction of s_d and s_a writes s_d with the value that the relation fixes, and changes nothing else. -/
def WritesOfOne (mk : SReg → SReg → Instr) (r : Word → Word → Prop) : Prop :=
  ∀ s d a, ∃ v, exec (mk d a) s = .next (s.setS d v).past ∧ r (s.hart.readS a) v

/-- An instruction of s_d, s_a and an immediate writes s_d with the value that the relation fixes, and changes nothing
else. -/
def WritesOfImm (k : Nat) (mk : SReg → SReg → BitVec k → Instr) (r : Word → BitVec k → Word → Prop) : Prop :=
  ∀ s d a i, ∃ v, exec (mk d a i) s = .next (s.setS d v).past ∧ r (s.hart.readS a) i v

/-- A branch on s_a and s_b goes `4 × imm` bytes away where the condition holds and past its word elsewhere, retires, and
changes nothing else. -/
def BranchesOn (mk : SReg → SReg → BitVec 13 → Instr) (p : Word → Word → Prop) : Prop :=
  ∀ s a b i,
    (p (s.hart.readS a) (s.hart.readS b) →
      exec (mk a b i) s = .next ((s.retire 1).setPc (s.hart.pc + BitVec.ofInt 64 (4 * i.toInt)))) ∧
    (¬ p (s.hart.readS a) (s.hart.readS b) → exec (mk a b i) s = .next s.past)

/-- A branch on the bits of a predicate below VL. -/
def BranchesOnBits (mk : PReg → BitVec 16 → Instr) (p : (Nat → Bool) → Nat → Prop) : Prop :=
  ∀ s a i,
    (p (fun n => (s.hart.readP a).getLsbD n) s.hart.vl.toNat →
      exec (mk a i) s = .next ((s.retire 1).setPc (s.hart.pc + BitVec.ofInt 64 (4 * i.toInt)))) ∧
    (¬ p (fun n => (s.hart.readP a).getLsbD n) s.hart.vl.toNat → exec (mk a i) s = .next s.past)

/-- The state with a scalar register of the current hart set and flags raised. -/
def State.setF (s : State) (d : SReg) (r : Word × Flags) : State := { s with hart := (s.hart.writeS d r.1).raise r.2 }

/-- A floating operation with an assigned rounding mode writes s_d and raises flags, as a function of the values of s_a, s_b
and the old s_d, and changes nothing else. -/
def FloatWrites (mk : SReg → SReg → SReg → BitVec 1 → Instr) (f : Hart → BitVec 1 → FVal → FVal → FVal → Word × Flags) :
    Prop :=
  ∀ s d a b p, s.hart.rm?.isSome = true →
    exec (mk d a b p) s =
      .next (s.setF d (f s.hart p (s.hart.readF p a) (s.hart.readF p b) (s.hart.readF p d))).past

/-- A conversion with an assigned rounding mode writes s_d and raises flags, as a function of s_a. -/
def FloatConverts (mk : SReg → SReg → Instr) (f : Hart → Word → Word × Flags) : Prop :=
  ∀ s d a, s.hart.rm?.isSome = true → exec (mk d a) s = .next (s.setF d (f s.hart (s.hart.readS a))).past

/-- A floating operation that does not round writes s_d and raises flags whatever MODE holds. -/
def FloatPlain (mk : SReg → SReg → SReg → BitVec 1 → Instr) (f : BitVec 1 → Word → Word → Word × Flags) : Prop :=
  ∀ s d a b p, exec (mk d a b p) s = .next (s.setF d (f p (s.hart.readS a) (s.hart.readS b))).past

/-! ### Traps, memory and CSRs -/

/-- The state after the trap `c` of an instruction whose word stands alone (01 R50, R55). -/
def State.trapOf (s : State) (i : Instr) (c : Cause) : State := s.takeTrap (wordInfo s.hart.isCtl (wordOf i)) c

/-- A scalar load of `n` bytes: MISALIGN where it crosses 8 bytes, and else its value extended into s_d. -/
def LoadsBytes (n : Nat) (mk : SReg → SReg → BitVec 13 → Instr) (ext : Nat → Int) : Prop :=
  ∀ s d a i,
    (8 < (s.hart.offset a i).toNat % 8 + n →
      exec (mk d a i) s = .next (s.trapOf (mk d a i) (.misalign (s.hart.offset a i)))) ∧
    ((s.hart.offset a i).toNat % 8 + n ≤ 8 → ∀ v t, s.loadN (s.hart.offset a i) n = .ok v t →
      exec (mk d a i) s = .next (t.setS d (BitVec.ofInt 64 (ext v))).past)

/-- A scalar store of `n` bytes of s_b: MISALIGN where it crosses 8 bytes. -/
def StoresBytes (n : Nat) (mk : SReg → SReg → BitVec 13 → Instr) : Prop :=
  ∀ s a b i,
    (8 < (s.hart.offset a i).toNat % 8 + n →
      exec (mk a b i) s = .next (s.trapOf (mk a b i) (.misalign (s.hart.offset a i)))) ∧
    ((s.hart.offset a i).toNat % 8 + n ≤ 8 → ∀ v t, s.storeN (s.hart.offset a i) n (s.hart.readS b).toNat = .ok v t →
      exec (mk a b i) s = .next t.past)

/-- What s_d takes of an old value of `n` bytes: sign-extended from 4 bytes (05 R189). -/
def amoResult (n old : Nat) : Word := if n = 8 then BitVec.ofNat 64 old else BitVec.ofInt 64 (toS 32 old)

/-- An integer atomic on 4 or 8 bytes (05 R189): memory takes a function of the old value and of s_b, and s_d the old
value. -/
def AtomicOf (mk : SReg → SReg → SReg → BitVec 2 → BitVec 2 → BitVec 3 → Instr)
    (f : Nat → Word → Nat → Nat → Option Nat) : Prop :=
  ∀ s d a b o c (wide : Bool) old t, c.toNat < 6 → s.amoReady o c = true →
    (s.hart.readS a).toNat % (if wide then 8 else 4) = 0 →
    s.atomicN (s.hart.readS a) (if wide then 8 else 4)
      (fun x => f (if wide then 8 else 4) (s.hart.readS d) x
        ((s.hart.readS b).toNat % (if wide then 2 ^ 64 else 2 ^ 32))) = .ok old t →
    exec (mk d a b (if wide then 1 else 0) o c) s = .next (t.setS d (amoResult (if wide then 8 else 4) old)).past

/-- An atomic of width code `w` at an address that is no multiple of its `n` bytes traps MISALIGN (05 R189). -/
def AtomicAligned (mk : SReg → SReg → SReg → BitVec 2 → BitVec 2 → BitVec 3 → Instr) (rounds : Bool) (w : BitVec 2) (n : Nat) : Prop :=
  ∀ s d a b o c, c.toNat < 6 → (rounds = true → s.hart.rm?.isSome = true) → (s.hart.readS a).toNat % n ≠ 0 →
    exec (mk d a b w o c) s = .next (s.trapOf (mk d a b w o c) (.misalign (s.hart.readS a)))

/-- A floating atomic (05 R190): FP32 and BF16 pairs on 4 bytes, FP64 on 8; no flag is raised. -/
def FloatAtomicOf (mk : SReg → SReg → SReg → BitVec 2 → BitVec 2 → BitVec 3 → Instr) (rounds : Bool)
    (f : FFmt → FEnv → Nat → Nat → Nat) : Prop :=
  ∀ s d a b o c old t, c.toNat < 6 → s.amoReady o c = true → (rounds = true → s.hart.rm?.isSome = true) →
    ((s.hart.readS a).toNat % 4 = 0 →
      s.atomicN (s.hart.readS a) 4
        (fun x => some (f .fp32 (s.hart.fenv false) x ((s.hart.readS b).toNat % 2 ^ 32))) = .ok old t →
      exec (mk d a b 0 o c) s = .next (t.setS d (BitVec.ofNat 64 (old + 0xFFFFFFFF00000000))).past) ∧
    ((s.hart.readS a).toNat % 8 = 0 →
      s.atomicN (s.hart.readS a) 8 (fun x => some (f .fp64 (s.hart.fenv false) x (s.hart.readS b).toNat)) = .ok old t →
      exec (mk d a b 1 o c) s = .next (t.setS d (BitVec.ofNat 64 old)).past) ∧
    ((s.hart.readS a).toNat % 4 = 0 →
      s.atomicN (s.hart.readS a) 4
        (fun x => some (f .bf16 (s.hart.fenv false) (x % 2 ^ 16) ((s.hart.readS b).toNat % 2 ^ 16)
          + f .bf16 (s.hart.fenv false) (x / 2 ^ 16) ((s.hart.readS b).toNat / 2 ^ 16 % 2 ^ 16) * 2 ^ 16)) = .ok old t →
      exec (mk d a b 2 o c) s = .next (t.setS d (BitVec.ofNat 64 (old + 0xFFFFFFFF00000000))).past)

/-- CSRR of a number gives a value, and changes nothing else. -/
def State.Reads (s : State) (n : BitVec 12) (v : Word) : Prop := ∀ d, exec (.csrr d n) s = .next (s.setS d v).past

/-- CSRW of a number leaves a hart, and changes nothing else. -/
def State.Writes (s : State) (n : BitVec 12) (f : Word → Hart) : Prop :=
  ∀ a, exec (.csrw a n) s = .next ({ s with hart := f (s.hart.readS a) } : State).past

/-! ### Vector shapes -/

/-- A lane-governed word of a compute hart runs: VCFG is set and an element is active (04 R160, R161). -/
def State.Lanes (s : State) : Prop := s.hart.isCtl = false ∧ s.hart.ill = false ∧ s.hart.anyActive = true

/-- A rounding instruction finds an assigned rounding mode (01 R35). -/
def Hart.rounds? (h : Hart) (rounds : Bool) : Prop := rounds = true → h.rm?.isSome = true

/-- The read streams among the operands have delivered their elements in `t` (07 R249); without bound streams `t` is `s`. -/
def Delivered (s : State) (srcs dsts : List Opnd) (t : State) : Prop := Act.openStreams srcs dsts s = (.ok (), t)

/-- No stream register is bound, so every operand is a register group as it stands (01 R26). -/
def Hart.Unbound (h : Hart) : Prop := ∀ r < 4, h.bound r = false

/-- The tags of the sources are accepted (01 R43). -/
def Hart.Tagged (h : Hart) (srcs : List Opnd) : Prop := ∀ o ∈ srcs, h.badTag o = none

/-- Hart `k` is `h` after a lane-governed word that changed vector registers of `o`, their tags, and flags, and nothing else:
VSTART and MSTART are 0, the word retired and the pc is past it. -/
def GroupChanged (h k : Hart) (o : Opnd) (fl : Flags) : Prop :=
  (∀ n < 32, ¬ (o.reg ≤ n ∧ n < o.reg + o.regs) → k.readV n = h.readV n ∧ k.tag n = h.tag n) ∧
  k.fflags = h.fflags ||| fl.bits ∧ k.vstart = 0 ∧ k.mstart = 0 ∧ k.pc = h.pc + 4 ∧ k.retired = h.retired + 1 ∧
  { k with vregs := h.vregs, tags := h.tags, fflags := h.fflags, vstart := h.vstart, mstart := h.mstart, pc := h.pc,
           retired := h.retired } = h

/-- The number of elements of an operand's registers (01 R25, R59). -/
def Hart.places (h : Hart) (o : Opnd) : Nat := o.regs * h.regBits / o.w

/-- The element loop of 02 R97 on element i: below VSTART the old element, a value where the guard is 1, the old element or 0
by MASKPOL elsewhere below VL, and by TAILPOL above. -/
def Hart.looped (h : Hart) (o : Opnd) (val : Nat → Nat) (i : Nat) : Nat :=
  if i < h.vstart.toNat then h.elems o i
  else if i < h.vl.toNat then (if h.guard i then val i % 2 ^ o.w else if h.maskZero then 0 else h.elems o i)
  else if h.tailZero then 0 else h.elems o i

/-- `t` is `s` after a vector instruction that wrote `val` to the active elements of `o` with a tag, and raised flags. -/
def VecWritten (s t : State) (o : Opnd) (tag : BitVec 6) (val : Nat → Nat) (fl : Flags) : Prop :=
  ∃ k : Hart, t = { s with hart := k } ∧ GroupChanged s.hart k o fl ∧
    (∀ i < s.hart.places o, k.elems o i = s.hart.looped o val i) ∧
    ∀ n, o.reg ≤ n → n < o.reg + o.regs → k.tag n = tag

/-- `t` is `s` after a vector instruction that wrote predicate `d` and raised flags; p0 keeps its ones. -/
def PredWritten (s t : State) (d : PReg) (val : Nat → Bool) (fl : Flags) : Prop :=
  ∃ k : Hart, t = { s with hart := k } ∧
    (∀ i < 16384, (k.readP d).getLsbD i =
      if d = 0 then true
      else if i < s.hart.vstart.toNat then (s.hart.readP d).getLsbD i
      else if i < s.hart.vl.toNat then
        (if s.hart.guard i then val i else if s.hart.maskZero then false else (s.hart.readP d).getLsbD i)
      else if s.hart.tailZero then false else (s.hart.readP d).getLsbD i) ∧
    (∀ q, q ≠ d → k.readP q = s.hart.readP q) ∧
    k.fflags = s.hart.fflags ||| fl.bits ∧ k.vstart = 0 ∧ k.mstart = 0 ∧ k.pc = s.hart.pc + 4 ∧
    k.retired = s.hart.retired + 1 ∧
    { k with preds := s.hart.preds, fflags := s.hart.fflags, vstart := s.hart.vstart, mstart := s.hart.mstart,
             pc := s.hart.pc, retired := s.hart.retired } = s.hart

/-- `s` after a lane-governed word that wrote scalar register `d` alone. -/
def State.scalarOut (s : State) (d : SReg) (v : Word) : State :=
  State.past { s with hart := (s.hart.writeS d v).restart }

/-- The operands of an instruction of va and of a second source at EW1, the destination last. -/
def Hart.binary (h : Hart) (v : VOp) (d a : VReg) (sh : BitVec 2) (b : BitVec 5) : List Opnd × Src × Opnd :=
  let x := h.src sh b h.ew1 v.useB
  let od := h.opnd d h.ew1 (if v.addend then h.wantOf v.useA h.ew1 else [])
  (h.opnd a h.ew1 (h.wantOf v.useA h.ew1) :: x.opnds ++ (if v.addend then [od] else []), x, od)

/-- An element-wise instruction on va and a second source (02 R97; 06 R205 to R207): each active element takes the operation
`v.op` on the elements of va, of the second source and of the old destination. -/
def ElementwiseOf (mk : VReg → VReg → BitVec 5 → BitVec 2 → Instr) (v : VOp) : Prop :=
  ∀ (s : State) d a b sh u, s.Lanes → s.hart.rounds? v.rounds →
    s.hart.groupOk d s.hart.ew1 = true → s.hart.groupOk a s.hart.ew1 = true → s.hart.srcOk sh b s.hart.ew1 = true →
    Delivered s (s.hart.binary v d a sh b).1 [(s.hart.binary v d a sh b).2.2] u →
    u.hart.Tagged (s.hart.binary v d a sh b).1 → u.hart.writeStream? (s.hart.binary v d a sh b).2.2 = none →
    ∃ t, exec (mk d a b sh) s = .next t ∧
      VecWritten u t (s.hart.binary v d a sh b).2.2 (v.tag s.hart s.hart.ew1)
        (fun i => (v.op u.hart s.hart.ew1 i (u.hart.elems (u.hart.opnd a s.hart.ew1 []) i)
          (u.hart.srcElem (s.hart.binary v d a sh b).2.1 i) (u.hart.elems (u.hart.opnd d s.hart.ew1 []) i)).1)
        (allFlags (u.hart.activeList.map fun i =>
          v.op u.hart s.hart.ew1 i (u.hart.elems (u.hart.opnd a s.hart.ew1 []) i)
          (u.hart.srcElem (s.hart.binary v d a sh b).2.1 i) (u.hart.elems (u.hart.opnd d s.hart.ew1 []) i)))

/-- An element-wise instruction on va alone. -/
def ElementwiseOne (mk : VReg → VReg → Instr) (v : VOp) : Prop :=
  ∀ (s : State) d a u, s.Lanes → s.hart.rounds? v.rounds →
    s.hart.groupOk d s.hart.ew1 = true → s.hart.groupOk a s.hart.ew1 = true →
    Delivered s [s.hart.opnd a s.hart.ew1 (s.hart.wantOf v.useA s.hart.ew1)] [s.hart.opnd d s.hart.ew1 []] u →
    u.hart.Tagged [s.hart.opnd a s.hart.ew1 (s.hart.wantOf v.useA s.hart.ew1)] →
    u.hart.writeStream? (s.hart.opnd d s.hart.ew1 []) = none →
    ∃ t, exec (mk d a) s = .next t ∧
      VecWritten u t (s.hart.opnd d s.hart.ew1 []) (v.tag s.hart s.hart.ew1)
        (fun i => (v.op u.hart s.hart.ew1 i (u.hart.elems (u.hart.opnd a s.hart.ew1 []) i) 0 0).1)
        (allFlags (u.hart.activeList.map fun i =>
          v.op u.hart s.hart.ew1 i (u.hart.elems (u.hart.opnd a s.hart.ew1 []) i) 0 0))

/-- An integer operation: typed sources, an integer tag, no flag (06 R211). -/
def intOp (f : (w : Nat) → (a b d : Nat) → Int) : VOp where
  useA := .int
  useB := .int
  tag := fun _ w => intTag w
  op := fun _ w _ a b d => (ofS w (f w a b d), {})

/-- A floating operation in the format of EW1 (06 R218): rounded by MODE, the format's tag. -/
def floatOp (f : RM → FVal → FVal → FVal → FVal × Flags) : VOp where
  useA := .fp
  useB := .fp
  tag := fun h w => h.fpTag w
  rounds := true
  op := fun h w _ a b d =>
    (h.fmt w).deliver h false (f h.rm ((h.fmt w).unpack h.ftz a) ((h.fmt w).unpack h.ftz b) ((h.fmt w).unpack h.ftz d))

/-- A comparison into a predicate (06 R208, R212, R224): each active bit takes a test of the elements of va and of the second
source. -/
def ComparesInto (mk : PReg → VReg → BitVec 5 → BitVec 2 → Instr) (u : Use) (test : Hart → Nat → Nat → Nat → Bool × Flags) :
    Prop :=
  ∀ (s : State) d a b sh v, s.Lanes → s.hart.groupOk a s.hart.ew1 = true → s.hart.srcOk sh b s.hart.ew1 = true →
    Delivered s (s.hart.opnd a s.hart.ew1 (s.hart.wantOf u s.hart.ew1) :: (s.hart.src sh b s.hart.ew1 u).opnds) [] v →
    v.hart.Tagged (s.hart.opnd a s.hart.ew1 (s.hart.wantOf u s.hart.ew1) :: (s.hart.src sh b s.hart.ew1 u).opnds) →
    ∃ t, exec (mk d a b sh) s = .next t ∧
      PredWritten v t d
        (fun i => (test v.hart s.hart.ew1 (v.hart.elems (v.hart.opnd a s.hart.ew1 []) i)
          (v.hart.srcElem (s.hart.src sh b s.hart.ew1 u) i)).1)
        (joinFlags (v.hart.activeList.map fun i =>
          (test v.hart s.hart.ew1 (v.hart.elems (v.hart.opnd a s.hart.ew1 []) i)
            (v.hart.srcElem (s.hart.src sh b s.hart.ew1 u) i)).2))

/-- `t` is `s` after a reduction: element 0 of register `d` holds the result, the elements above it are tail elements. -/
def Reduced (s t : State) (d : Nat) (w : Nat) (tag : BitVec 6) (v : Nat) (fl : Flags) : Prop :=
  ∃ k : Hart, t = { s with hart := k } ∧ GroupChanged s.hart k ⟨d, 1, w, []⟩ fl ∧ k.tag d = tag ∧
    ∀ i < s.hart.places ⟨d, 1, w, []⟩, k.elems ⟨d, 1, w, []⟩ i =
      if i = 0 then v % 2 ^ w else if s.hart.tailZero then 0 else s.hart.elems ⟨d, 1, w, []⟩ i

/-- The sources of a reduction: va and the start value, element 0 of vb or s_b (06 R227). -/
def Hart.reduction (h : Hart) (u : Use) (a : VReg) (b : BitVec 5) (sh : BitVec 1) : Opnd × Src :=
  (h.opnd a h.ew1 (h.wantOf u h.ew1),
    if sh = 0 then .vec ⟨b.toNat, 1, h.ew1, h.wantOf u h.ew1⟩ else .const ((h.readS b).toNat % 2 ^ h.ew1))

/-- A reduction (06 R227): the fold of the start value with the active elements of va in ascending order. -/
def ReducesBy (mk : VReg → VReg → BitVec 5 → BitVec 1 → Instr) (u : Use) (rounds : Bool)
    (f : Hart → Nat → Nat → List Nat → Nat × Flags) : Prop :=
  ∀ (s : State) d a b sh v, s.hart.isCtl = false → s.hart.ill = false → 0 < s.hart.vl.toNat → s.hart.vstart = 0 →
    s.hart.rounds? rounds → s.hart.groupOk a s.hart.ew1 = true →
    Delivered s ((s.hart.reduction u a b sh).1 :: (s.hart.reduction u a b sh).2.opnds) [⟨d.toNat, 1, s.hart.ew1, []⟩] v →
    v.hart.Tagged ((s.hart.reduction u a b sh).1 :: (s.hart.reduction u a b sh).2.opnds) →
    v.hart.writeStream? ⟨d.toNat, 1, s.hart.ew1, []⟩ = none →
    let r := f v.hart s.hart.ew1 (v.hart.srcElem (s.hart.reduction u a b sh).2 0)
      (v.hart.activeList.map (v.hart.elems (s.hart.reduction u a b sh).1))
    ∃ t, exec (mk d a b sh) s = .next t ∧
      Reduced v t d.toNat s.hart.ew1 (match u with | .fp => v.hart.fpTag s.hart.ew1 | _ => intTag s.hart.ew1) r.1 r.2

/-- A slide or permutation on va (06 R228, R229): untyped, with the format of va, the active elements from a function of the
elements of va and of the old destination. -/
def MovesElements (s : State) (i : Instr) (d a : VReg) (others : List Opnd) (val : State → Nat → Nat) : Prop :=
  s.Lanes → s.hart.groupOk d s.hart.ew1 = true → s.hart.groupOk a s.hart.ew1 = true →
  ∀ v, Delivered s (s.hart.opnd a s.hart.ew1 [] :: others) [s.hart.opnd d s.hart.ew1 []] v →
    v.hart.writeStream? (s.hart.opnd d s.hart.ew1 []) = none →
    ∃ t, exec i s = .next t ∧
      VecWritten v t (s.hart.opnd d s.hart.ew1 []) (fmtOnly (v.hart.tag a.toNat)) (val v) {}

/-- `t` is `s` after a cross-element instruction that starts at element 0 and wrote all of group `o`. -/
def CrossWritten (s t : State) (o : Opnd) (tag : BitVec 6) (val : Nat → Nat) (fl : Flags) : Prop :=
  ∃ k : Hart, t = { s with hart := k } ∧ GroupChanged s.hart k o fl ∧ (∀ i < s.hart.places o, k.elems o i = val i) ∧
    ∀ n, o.reg ≤ n → n < o.reg + o.regs → k.tag n = tag

/-- The operands of a cross-element instruction run: its lane is an element below VL in the guard predicate, and VSTART is 0
(06 R207). -/
def State.Cross (s v : State) (d a : VReg) (want : List (BitVec 6)) : Prop :=
  s.hart.isCtl = false ∧ s.hart.ill = false ∧ s.hart.anyGuarded = true ∧ s.hart.vstart = 0 ∧
  s.hart.groupOk d s.hart.ew1 = true ∧ s.hart.groupOk a s.hart.ew1 = true ∧
  Delivered s [s.hart.opnd a s.hart.ew1 want] [s.hart.opnd d s.hart.ew1 []] v ∧
  v.hart.Tagged [s.hart.opnd a s.hart.ew1 want] ∧ v.hart.writeStream? (s.hart.opnd d s.hart.ew1 []) = none

/-! ### Rounding in the statements' own words -/

/-- `q` is v / 2^n rounded to an integer by a mode (02 R74): toward zero, down, up, or to the nearer, a tie to the even one or away
from zero. -/
def Rounded (rm : RM) (v : Int) (n : Nat) (q : Int) : Prop :=
  match rm with
  | .rtz => q = v.tdiv (2 ^ n)
  | .rdn => q = v / 2 ^ n
  | .rup => q = -(-v / 2 ^ n)
  | .rne => 2 * (v - q * 2 ^ n).natAbs ≤ 2 ^ n ∧ (2 * (v - q * 2 ^ n).natAbs = 2 ^ n → q % 2 = 0)
  | .rmm => 2 * (v - q * 2 ^ n).natAbs ≤ 2 ^ n ∧ (2 * (v - q * 2 ^ n).natAbs = 2 ^ n → v.natAbs < (q * 2 ^ n).natAbs)

/-- The ends of the signed or unsigned range of a width (02 R62). -/
def lowEnd (signed : Bool) (w : Nat) : Int := if signed then -2 ^ (w - 1) else 0

/-- The greater end. -/
def highEnd (signed : Bool) (w : Nat) : Int := if signed then 2 ^ (w - 1) - 1 else 2 ^ w - 1

/-- `r` with flags `f` is a floating value converted to an integer of a width (02 R78): rounded by the mode, the nearer end of the
range with NV outside it, 0 with NV for a NaN, and NX where it is inexact. -/
def ConvertedToInt (rm : RM) (signed : Bool) (w : Nat) (v : FVal) (r : Int) (f : Flags) : Prop :=
  match v with
  | .nan _ => r = 0 ∧ f = { nv := true }
  | .inf s => r = (if s then lowEnd signed w else highEnd signed w) ∧ f = { nv := true }
  | .fin s m e =>
    ∃ q x : Int, x = (if s then -(m : Int) else m) ∧ (0 ≤ e → q = x * 2 ^ e.toNat) ∧ (e < 0 → Rounded rm x (-e).toNat q) ∧
      r = max (lowEnd signed w) (min (highEnd signed w) q) ∧
      f = if r = q then { nx := decide (e < 0 ∧ q * 2 ^ (-e).toNat ≠ x) } else { nv := true }

/-! ### Floating values in the statements' own words -/

/-- A finite value times 2^-q, for a q that is not above its exponent. -/
def unitsOf (neg : Bool) (m : Nat) (e q : Int) : Int := (if neg then -(m : Int) else m) * 2 ^ (e - q).toNat

/-- A NaN operand gives the NaN, with NV for a signalling one (02 R67); the invalid operations and division by zero (02 R68); and what
infinities give. -/
def NaNsAndInfinities : Prop :=
  (∀ rm x y, (x.isNan || y.isNan) = true →
     FVal.add rm x y = (.nan false, { nv := x.isSig || y.isSig }) ∧ FVal.mul x y = (.nan false, { nv := x.isSig || y.isSig }) ∧
     FVal.div x y = (.nan false, { nv := x.isSig || y.isSig })) ∧
  (∀ b, FVal.sqrt (.nan b) = (.nan false, { nv := b })) ∧
  (∀ rm s t m e,
     FVal.add rm (.inf s) (.inf t) = (if s = t then (.inf s, {}) else (.nan false, { nv := true })) ∧
     FVal.add rm (.inf s) (.fin t m e) = (.inf s, {}) ∧ FVal.add rm (.fin t m e) (.inf s) = (.inf s, {}) ∧
     FVal.mul (.inf s) (.inf t) = (.inf (s != t), {}) ∧
     FVal.mul (.inf s) (.fin t m e) = (if m = 0 then (.nan false, { nv := true }) else (.inf (s != t), {})) ∧
     FVal.mul (.fin t m e) (.inf s) = (if m = 0 then (.nan false, { nv := true }) else (.inf (s != t), {})) ∧
     FVal.div (.inf s) (.inf t) = (.nan false, { nv := true }) ∧ FVal.div (.inf s) (.fin t m e) = (.inf (s != t), {}) ∧
     FVal.div (.fin t m e) (.inf s) = (.fin (s != t) 0 0, {}) ∧
     FVal.sqrt (.inf s) = (if s then (.nan false, { nv := true }) else (.inf false, {})))

/-- A sum of finite values is exact; a zero sum keeps the sign that both have, and is −0 under RDN only where they differ (02 R69). -/
def FiniteSums : Prop :=
  ∀ (rm : RM) s m e t n f, ∃ u k g, FVal.add rm (.fin s m e) (.fin t n f) = (.fin u k g, {}) ∧
    (∀ q, q ≤ e → q ≤ f → q ≤ g → unitsOf u k g q = unitsOf s m e q + unitsOf t n f q) ∧
    (k = 0 → u = if s = t then s else decide (rm = .rdn))

/-- A quotient of finite values (02 R68): the sign of the product; 0 / 0 is invalid, another division by 0 infinite with DZ; else the
quotient lies at a × 2^(e − f − j), or, where the bit b is 1, between a and a + 1 of these. -/
def FiniteQuotients : Prop :=
  ∀ s m e t n f,
    (n = 0 → FVal.div (.fin s m e) (.fin t n f) =
      if m = 0 then (.nan false, { nv := true }) else (.inf (s != t), { dz := true })) ∧
    (n ≠ 0 → m = 0 → ∃ g, FVal.div (.fin s m e) (.fin t n f) = (.fin (s != t) 0 g, {})) ∧
    (n ≠ 0 → m ≠ 0 → ∃ a b j : Nat, FVal.div (.fin s m e) (.fin t n f) = (.fin (s != t) (2 * a + b) (e - f - j - 1), {}) ∧
      2 ^ 139 ≤ a ∧ a * n ≤ m * 2 ^ j ∧ m * 2 ^ j < (a + 1) * n ∧ b = if a * n = m * 2 ^ j then 0 else 1)

/-- A square root of a finite value (02 R68, R69): of −0 it is −0, of another negative value invalid; else it lies at a × 2^h, or, where
the bit b is 1, between a and a + 1 of these. -/
def FiniteRoots : Prop :=
  ∀ s m e,
    (m = 0 → ∃ g, FVal.sqrt (.fin s m e) = (.fin s 0 g, {})) ∧
    (m ≠ 0 → s = true → FVal.sqrt (.fin s m e) = (.nan false, { nv := true })) ∧
    (m ≠ 0 → s = false → ∃ a b d : Nat, ∃ h : Int, FVal.sqrt (.fin s m e) = (.fin false (2 * a + b) (h - 1), {}) ∧
      2 * h + d = e ∧ 2 ^ 69 ≤ a ∧ a * a ≤ m * 2 ^ d ∧ m * 2 ^ d < (a + 1) * (a + 1) ∧ b = if a * a = m * 2 ^ d then 0 else 1)

/-- The place of a code that is no NaN in the order of values, with −0 below +0 (02 R75). -/
def FFmt.place (f : FFmt) (w : Nat) : Int := if w < 2 ^ (f.bits - 1) then w else 2 ^ (f.bits - 1) - 1 - w

/-- The pairwise tree sum of encodings (02 R91): one of them, or the rounded sum of the trees of the first m and of the rest, m the
largest power of two below their number. -/
inductive TreeSum (f : FFmt) (c : FEnv) : List Nat → Nat → Flags → Prop
  | one (x : Nat) : TreeSum f c [x] x {}
  | split (xs : List Nat) (k l r : Nat) (a b : Flags) : 2 ^ k < xs.length → xs.length ≤ 2 ^ (k + 1) →
      TreeSum f c (xs.take (2 ^ k)) l a → TreeSum f c (xs.drop (2 ^ k)) r b →
      TreeSum f c xs (f.add c l r).1 (a.or (b.or (f.add c l r).2))

/-- The sum of a start value and encodings, one after another, each addition rounded (02 R91). -/
inductive RunningSum (f : FFmt) (c : FEnv) : Nat → List Nat → Nat → Flags → Prop
  | nil (s : Nat) : RunningSum f c s [] s {}
  | cons (s x : Nat) (xs : List Nat) (r : Nat) (b : Flags) : RunningSum f c (f.add c s x).1 xs r b →
      RunningSum f c s (x :: xs) r ((f.add c s x).2.or b)

/-- A floating sum reduction of 02 R91: the sequence with MODE.ORD = 1, else the start value plus the tree; of no element the start
value, with no flag. -/
def SumsByR91 (f : FFmt) (c : FEnv) (ord : Bool) (s : Nat) (xs : List Nat) (r : Nat) (fl : Flags) : Prop :=
  if ord then RunningSum f c s xs r fl
  else (xs = [] → r = s ∧ fl = {}) ∧
    (xs ≠ [] → ∃ t a, TreeSum f c xs t a ∧ r = (f.add c s t).1 ∧ fl = a.or (f.add c s t).2)

/-! ### Vector memory -/

/-- The ordering and scope codes are legal, and a release may perform (07 R239; 03 R127). -/
def State.Ordered (s : State) (r : BitVec 2) (c : BitVec 3) : Prop :=
  orderOk r c = true ∧ (r = 3 → s.releaseReady c.toNat = true)

/-- Every access of the elements passes its checks and reads its bytes without poison: the values, by element, and the state
that the reads leave (07 R240). -/
def ReadsAll (s t : State) (len : Nat) (es : List (Nat × List Word)) (vs : List (Nat × List Nat)) : Prop :=
  ∃ xs, s.plan .load len es = .ok xs ∧ s.readElems xs = (t, vs, none)

/-- The index operand of a memory word, if it has one. -/
def Hart.indexOpnd (h : Hart) (idx : Option VReg) : List Opnd := (idx.map fun b => h.opnd b h.ew2 []).toList

/-- The index of an element: from the index register, or 0 (07 R238). -/
def Hart.indexOf (h : Hart) (xs : List Opnd) : Nat → Nat :=
  match xs with
  | [] => fun _ => 0
  | o :: _ => h.elems o

/-- A vector load with one field an element (07 R238 to R240): the active elements take the values at their addresses, with the
tag RAW. -/
def LoadsElements (i : Instr) (s : State) (legal : Bool) (d : VReg) (idx : Option VReg)
    (addr : Hart → (Nat → Nat) → Nat → Word) (r : BitVec 2) (c : BitVec 3) : Prop :=
  s.Lanes → s.Ordered r c → legal = true → s.hart.groupOk d s.hart.ew1 = true →
  idx.all (fun b => s.hart.groupOk b s.hart.ew2) = true →
  ∀ v u vs, Delivered s (s.hart.indexOpnd idx) [s.hart.opnd d s.hart.ew1 []] v →
    v.hart.writeStream? (s.hart.opnd d s.hart.ew1 []) = none →
    ReadsAll v u (elemBytes v.hart.ew1)
      (v.hart.activeList.map fun k => (k, [addr v.hart (v.hart.indexOf (s.hart.indexOpnd idx)) k])) vs →
    ∃ t, exec i s = .next t ∧
      VecWritten u t (s.hart.opnd d s.hart.ew1 []) 0 (fun k => nibbleOf s.hart.ew1 k (fieldOf vs 0 k)) {}

/-- A vector store with one field an element (07 R238 to R240): when every access passes its checks, the active elements are
written at their addresses in ascending order. -/
def StoresElements (i : Instr) (s : State) (legal : Bool) (d : VReg) (idx : Option VReg)
    (addr : Hart → (Nat → Nat) → Nat → Word) (r : BitVec 2) (c : BitVec 3) : Prop :=
  s.Lanes → s.Ordered r c → legal = true → s.hart.groupOk d s.hart.ew1 = true →
  idx.all (fun b => s.hart.groupOk b s.hart.ew2) = true →
  ∀ v xs, Delivered s (s.hart.opnd d s.hart.ew1 [] :: s.hart.indexOpnd idx) [] v →
    v.plan .store (elemBytes v.hart.ew1)
      (v.hart.activeList.map fun k => (k, [addr v.hart (v.hart.indexOf (s.hart.indexOpnd idx)) k])) = .ok xs →
    ∀ u, u = v.storeAll v.hart.ew1 xs (fun k => [v.hart.elems (s.hart.opnd d s.hart.ew1 []) k]) →
    exec i s = .next (State.past { u with hart := u.hart.restart })

/-- A scatter-add whose elements all complete, each by accesses that pass their checks (07 R244, R245). -/
def ScattersElements (i : Instr) (s : State) (d : VReg) (a : SReg) (b : VReg) (r : BitVec 2) (c : BitVec 3) (aligned : Bool)
    (accs : List Acc)
    (one : Hart → Nat → (Nat → Word) → (Nat → Nat) → Bool → State → Nat → Step1) : Prop :=
  s.Lanes → s.Ordered r c → indexOnly s.hart = true → s.hart.groupOk d s.hart.ew1 = true →
  s.hart.groupOk b s.hart.ew2 = true →
  let fp := s.hart.srcTag d.toNat == s.hart.fpTag s.hart.ew1
  (fp = true → 16 ≤ s.hart.ew1) → (floatTag (s.hart.srcTag d.toNat) = true → s.hart.rm?.isSome = true) →
  let od := s.hart.opnd d s.hart.ew1 [s.hart.fpTag s.hart.ew1, intTag s.hart.ew1]
  let ob := s.hart.opnd b s.hart.ew2 []
  ∀ v u, Delivered s [od, ob] [] v → v.hart.Tagged [od] →
    let addr := fun k => v.hart.indexAddr a (v.hart.elems ob) k
    (aligned = true → ∀ k ∈ v.hart.activeList, (addr k).toNat % (s.hart.ew1 / 8) = 0) →
    (∀ k ∈ v.hart.activeList, v.addChecks (s.hart.ew1 / 8) (addr k) accs = .ok ()) →
    runElems (one v.hart (v.hart.scatterDraw v.ticks) addr (v.hart.elems od) (s.hart.srcTag d.toNat == v.hart.fpTag s.hart.ew1)) v
      v.hart.activeList = .all u →
    exec i s = .next (State.past { u with
      hart := { u.hart.restart with scatter := Table.erase u.hart.scatter v.hart.pc.toNat }, ticks := u.ticks + 1 })

/-! ### Matrix and narrow formats -/

/-- A matrix word of a compute hart runs on a tile of `rows` rows: VCFG is set, an active column exists, the tile is legal and
aligned, VSTART is 0 (09 R304, R305). -/
def State.Tiled (s : State) (d : VReg) (rows : Nat) : Prop :=
  s.hart.isCtl = false ∧ s.hart.ill = false ∧ s.hart.anyGuarded = true ∧ s.hart.tileRows = some rows ∧
  s.hart.groupOk d s.hart.ew1 = true ∧ s.hart.vstart = 0

/-- `t` is `s` after a matrix word that performed the rows from MSTART on of tile `o` in the active columns; a product also drops
an arming. -/
def TileWritten (s t : State) (o : Opnd) (rows : Nat) (tag : BitVec 6) (op : Nat → Nat → Nat → Nat × Flags) : Prop :=
  ∃ k : Hart, t = { s with hart := k } ∧
    GroupChanged s.hart { k with arming := s.hart.arming } o
      (allFlags ((List.range (rows * s.hart.vl.toNat)).map fun e =>
        if s.hart.mstart.toNat ≤ e / s.hart.vl.toNat ∧ s.hart.guard (e % s.hart.vl.toNat) = true then
          op (e / s.hart.vl.toNat) (e % s.hart.vl.toNat) (s.hart.elems o e) else (0, {}))) ∧
    (∀ e < s.hart.places o, k.elems o e =
      if e < rows * s.hart.vl.toNat ∧ s.hart.mstart.toNat ≤ e / s.hart.vl.toNat ∧ s.hart.guard (e % s.hart.vl.toNat) = true then
        (op (e / s.hart.vl.toNat) (e % s.hart.vl.toNat) (s.hart.elems o e)).1 % 2 ^ o.w
      else s.hart.elems o e) ∧
    ∀ n, o.reg ≤ n → n < o.reg + o.regs → k.tag n = tag

/-- `t` is `s` after a product on tile `o`, whose element (i, j) takes `op i j` with the terms that an arming adds to its first step
(09 R319; 15 R412). An arming whose element is not performed has no effect; with MATCH = 1 and MODE.PROT = 0 the term stays and nothing
is recorded; else the element has no term, and the core's bank records 0x01, or the mirror's 0x03 with the register, with INJ set. -/
def ProductEnds (s t : State) (o : Opnd) (rows acc : Nat) (op : Nat → Nat → Nat → List FVal → Nat × Flags) : Prop :=
  let h := s.hart
  let written := fun (u : State) (x : List (Nat × Nat × FVal)) =>
    TileWritten s u o rows (BitVec.ofNat 6 acc) fun i j c =>
      op i j c ((x.filter fun y => y.1 == i && y.2.1 == j).map fun y => y.2.2)
  let performs := fun (a : Arming) => h.mstart.toNat ≤ a.row ∧ a.row < rows ∧ a.col < h.vl.toNat ∧ h.guard a.col = true
  t.hart.arming = none ∧
  ((∀ a, h.arming = some a → ¬ performs a) → written t []) ∧
  ∀ a, h.arming = some a → performs a →
    (a.matches_ = true → h.prot = false →
      written t [(a.row, a.col, codeVal h.ftz acc (a.value.toNat % 2 ^ codeBits acc))]) ∧
    (a.matches_ = false ∨ h.prot = true → ∃ (u : State) (n : Nat), written u [] ∧ u.hart = t.hart ∧
      (a.matches_ = false → n < 16) ∧ (a.matches_ = true → n = o.reg + (a.row * h.vl.toNat + a.col) * o.w / h.regBits) ∧
      t = (u.report h.bank { code := if a.matches_ then 0x03 else 0x01, unit := h.num % 4, synd := BitVec.ofNat 64 n
                             master := h.master, ctx := h.ctxid.toNat, inj := true }).1.count
        (0x2000 + 64 * h.core + if a.matches_ then 16 else 8))

/-! ### Engines, tasks and remote operations -/

/-- The hart waits: its word has not completed, and runs again (01 R23). -/
def State.waits (s : State) : State := { s with hart := { s.hart with st := .waiting } }

/-- The state after the answers that a remote instruction waited for have been taken (07 R263, R266). -/
def State.answered (s : State) : State := { s with hart := s.hart.clearReplies }

/-- An instruction hands an issue to its engine (08 R280, R281): the checks pass, the queue has room, and `t` holds the command. -/
def Issues (i : Issue) (s t : State) : Prop := Act.issue i s = (.ok (), t)

/-- The earlier binning commands of the hart's die have registered their claims, and none writes a bin set's descriptor in S3 (08 R301,
R302; 03 R132). -/
def State.BinsSettled (s : State) (set : Word) : Prop :=
  ∀ k ∈ s.queueOf .binning s.hart.die,
    k.claimed = true ∧ meetScratch k.dst.flatten (s.pinEngine (s.hart.engineEnv .binning) .load set.toNat 256).1 = false

/-- The states between the repetitions of a prefix `p` with the word `x` (01 R44): repetition j takes `f j` to `f (j + 1)` and
retires. -/
def RepetitionsDone (p x : IWord) (first last : Nat) (f : Nat → State) : Prop :=
  ∀ j, first ≤ j → j < last → ∃ u, wordEff (repWord p x j) (f j) = .done u ∧ f (j + 1) = u.retire 1

/-! ### The device -/

/-- A replay record of `u` is the one of `r` after a journal write, with what a node's step made of it (13 R377). -/
def Journaled (u : State) (r : Replay) : Prop := ∃ q ∈ u.fe.replays, { q with rseq := r.rseq } = r

/-- The primary evaluates node `i`, of a kind, of the replay of a slot now (13 R370). -/
def State.AtNode (s : State) (slot i kind : Nat) (r : Replay) (g : Graph) (c : CtxRec) : Prop :=
  s.evaluating slot = some (r, g, c) ∧ s.nodeTurn r g c kind i = true

/-- The state after an answer to the host or to a management request. -/
def State.replied (s : State) (r : Option (List Byte)) : State := { s with host := { s.host with replies := s.host.replies ++ [r] } }

/-- A management command (15 R428; 13 R393): where it is permitted, the housekeeper serves it and it comes in a secured session, it
acts and is answered, elsewhere it completes with error and changes nothing. -/
def Manages (i : Instr) (s : State) (permitted : Prop) (f : State) (reply : List Byte) : Prop :=
  (s.pow.st ≠ .off → s.fe.housekeeper = true → s.fw.session = true → permitted → exec i s = .next (f.replied (some reply))) ∧
  (s.pow.st ≠ .off → (s.fe.housekeeper = false ∨ s.fw.session = false ∨ ¬ permitted) → exec i s = .next (s.replied none)) ∧
  (s.pow.st = .off → exec i s = .next s)

/-- The memory state of die `d` changed. -/
def State.memChanged (s : State) (d : Nat) (m : MemSt) : State :=
  { s with rel := { s.rel with mems := Table.set s.rel.mems d m } }

end Sys2Proof.Machine
end

