-- ==== Sys2Proof/WellFormed.lean ====
section
/-! DEFINITION. Which instructions of the abstract syntax the encoding rules admit: reserved shapes, scopes, widths and
codes are ill formed (04 R150 to R157). A step of the device carries no encoded field. -/

namespace Sys2Proof

/-- The instruction holds no reserved code: shape 11 or one that R153 does not permit, a scope or ordering that R155 leaves
reserved, a width of R150 and R151, a variant of R154, FIELDS of 0 (R155), an operation code of R156. -/
def Instr.wf : Instr → Bool
  | .add .. => true
  | .sub .. => true
  | .mul .. => true
  | .mulh .. => true
  | .mulhu .. => true
  | .div .. => true
  | .divu .. => true
  | .rem .. => true
  | .remu .. => true
  | .and .. => true
  | .or .. => true
  | .xor .. => true
  | .andn .. => true
  | .shl .. => true
  | .shr .. => true
  | .sar .. => true
  | .rotr .. => true
  | .min .. => true
  | .max .. => true
  | .minu .. => true
  | .maxu .. => true
  | .seq .. => true
  | .sne .. => true
  | .slt .. => true
  | .sltu .. => true
  | .sel .. => true
  | .clz _ _ => true
  | .ctz _ _ => true
  | .popc _ _ => true
  | .brev _ _ => true
  | .sextB _ _ => true
  | .sextH _ _ => true
  | .sextW _ _ => true
  | .zextB _ _ => true
  | .zextH _ _ => true
  | .zextW _ _ => true
  | .shadd .. => true
  | .addi .. => true
  | .andi .. => true
  | .ori .. => true
  | .xori .. => true
  | .slti .. => true
  | .sltiu .. => true
  | .shli .. => true
  | .shri .. => true
  | .sari .. => true
  | .ldb .. => true
  | .ldbu .. => true
  | .ldh .. => true
  | .ldhu .. => true
  | .ldw .. => true
  | .ldwu .. => true
  | .ldd .. => true
  | .stb .. => true
  | .sth .. => true
  | .stw .. => true
  | .std .. => true
  | .beq .. => true
  | .bne .. => true
  | .blt .. => true
  | .bge .. => true
  | .bltu .. => true
  | .bgeu .. => true
  | .bpany _ _ => true
  | .bpall _ _ => true
  | .bpnone _ _ => true
  | .fadd .. => true
  | .fsub .. => true
  | .fmul .. => true
  | .fma .. => true
  | .fnma .. => true
  | .fdiv .. => true
  | .fsqrt .. => true
  | .fmin .. => true
  | .fmax .. => true
  | .feq .. => true
  | .flt .. => true
  | .fle .. => true
  | .fcvtFf .. => true
  | .fcvtFs .. => true
  | .fcvtFu .. => true
  | .fcvtSf .. => true
  | .fcvtUf .. => true
  | .fclass .. => true
  | .ldacq _ _ _ s => decide (s.toNat < 6)
  | .strel _ _ _ s => decide (s.toNat < 6)
  | .fence _ s => decide (s.toNat < 6)
  | .amoadd _ _ _ w _ s => decide (w.toNat < 2) && decide (s.toNat < 6)
  | .amoand _ _ _ w _ s => decide (w.toNat < 2) && decide (s.toNat < 6)
  | .amoor _ _ _ w _ s => decide (w.toNat < 2) && decide (s.toNat < 6)
  | .amoxor _ _ _ w _ s => decide (w.toNat < 2) && decide (s.toNat < 6)
  | .amomin _ _ _ w _ s => decide (w.toNat < 2) && decide (s.toNat < 6)
  | .amomax _ _ _ w _ s => decide (w.toNat < 2) && decide (s.toNat < 6)
  | .amominu _ _ _ w _ s => decide (w.toNat < 2) && decide (s.toNat < 6)
  | .amomaxu _ _ _ w _ s => decide (w.toNat < 2) && decide (s.toNat < 6)
  | .amoswap _ _ _ w _ s => decide (w.toNat < 2) && decide (s.toNat < 6)
  | .amocas _ _ _ w _ s => decide (w.toNat < 2) && decide (s.toNat < 6)
  | .amofadd _ _ _ w _ s => decide (w.toNat < 3) && decide (s.toNat < 6)
  | .amofmin _ _ _ w _ s => decide (w.toNat < 3) && decide (s.toNat < 6)
  | .amofmax _ _ _ w _ s => decide (w.toNat < 3) && decide (s.toNat < 6)
  | .csrr _ _ => true
  | .csrw _ _ => true
  | .csrx .. => true
  | .trap _ => true
  | .brk _ => true
  | .waitw _ _ => true
  | .vadd _ _ _ h => h != 3
  | .vsub _ _ _ h => h != 3
  | .vrsub _ _ _ h => h != 3
  | .vmul _ _ _ h => h != 3
  | .vmulh _ _ _ h => h != 3
  | .vmulhu _ _ _ h => h != 3
  | .vmadd _ _ _ h => h != 3
  | .vdiv _ _ _ h => h != 3
  | .vdivu _ _ _ h => h != 3
  | .vrem _ _ _ h => h != 3
  | .vmin _ _ _ h => h != 3
  | .vmax _ _ _ h => h != 3
  | .vminu _ _ _ h => h != 3
  | .vmaxu _ _ _ h => h != 3
  | .vand _ _ _ h => h != 3
  | .vor _ _ _ h => h != 3
  | .vxor _ _ _ h => h != 3
  | .vshl _ _ _ h => h != 3
  | .vshr _ _ _ h => h != 3
  | .vsar _ _ _ h => h != 3
  | .vsadd _ _ _ h => h != 3
  | .vsaddu _ _ _ h => h != 3
  | .vssub _ _ _ h => h != 3
  | .vssubu _ _ _ h => h != 3
  | .vabs _ _ => true
  | .vclz _ _ => true
  | .vpopc _ _ => true
  | .vcmp _ _ _ h _ => h != 3
  | .vsel _ _ _ h _ => h != 3
  | .vmv _ _ h => h != 3
  | .vid _ => true
  | .vext _ _ _ h => decide (h = 1 ∨ h = 2)
  | .vins _ _ _ h => decide (h = 1 ∨ h = 2)
  | .vwiden _ _ k => decide (k.toNat < 3)
  | .vnshr _ _ _ h k => h != 3 && decide (k.toNat < 2)
  | .vfadd _ _ _ h => h != 3
  | .vfsub _ _ _ h => h != 3
  | .vfmul _ _ _ h => h != 3
  | .vfma _ _ _ h => h != 3
  | .vfnma _ _ _ h => h != 3
  | .vfms _ _ _ h => h != 3
  | .vfdiv _ _ _ h => h != 3
  | .vfsqrt _ _ => true
  | .vfmin _ _ _ h => h != 3
  | .vfmax _ _ _ h => h != 3
  | .vfsgn _ _ _ h k => h != 3 && decide (k.toNat < 3)
  | .vfrcp _ _ => true
  | .vfrsq _ _ => true
  | .vfexp2 _ _ => true
  | .vflog2 _ _ => true
  | .vfcvt _ _ k => decide (k.toNat < 5)
  | .vfclass _ _ => true
  | .vfcmp _ _ _ h _ => h != 3
  | .vmulm _ _ _ h k => h != 3 && decide (k.toNat < 3)
  | .vfmam _ _ _ h => h != 3
  | .vredsum .. => true
  | .vredmin .. => true
  | .vredmax .. => true
  | .vredminu .. => true
  | .vredmaxu .. => true
  | .vredand .. => true
  | .vredor .. => true
  | .vredxor .. => true
  | .vfredsum .. => true
  | .vfredmin .. => true
  | .vfredmax .. => true
  | .vslideup _ _ _ h => h != 3
  | .vslidedn _ _ _ h => h != 3
  | .vperm .. => true
  | .vcompress _ _ => true
  | .vexpand _ _ => true
  | .vscan .. => true
  | .vtopk .. => true
  | .pand .. => true
  | .por .. => true
  | .pxor .. => true
  | .pandn .. => true
  | .pcnt _ _ => true
  | .pfirst _ _ => true
  | .psetn _ _ => true
  | .pmovPp _ _ => true
  | .pmovPv _ _ => true
  | .pmovVp _ _ => true
  | .vquant .. => true
  | .vdeq .. => true
  | .vscale .. => true
  | .vld _ _ _ r s => decide (s.toNat < 6) && (r != 0 || s == 0)
  | .vlds _ _ _ r s => decide (s.toNat < 6) && (r != 0 || s == 0)
  | .vldg _ _ _ f r s => decide (s.toNat < 6) && (r != 0 || s == 0) && f != 0
  | .vldx _ _ _ r s => decide (s.toNat < 6) && (r != 0 || s == 0)
  | .vldff _ _ _ r s => decide (s.toNat < 6) && (r != 0 || s == 0)
  | .vst _ _ _ r s => decide (s.toNat < 6) && (r != 0 || s == 0)
  | .vsts _ _ _ r s => decide (s.toNat < 6) && (r != 0 || s == 0)
  | .vstg _ _ _ f r s => decide (s.toNat < 6) && (r != 0 || s == 0) && f != 0
  | .vstx _ _ _ r s => decide (s.toNat < 6) && (r != 0 || s == 0)
  | .vstxa _ _ _ r s => decide (s.toNat < 6) && (r != 0 || s == 0)
  | .vstxc _ _ _ r s => decide (s.toNat < 6) && (r != 0 || s == 0)
  | .pld _ _ _ r s => decide (s.toNat < 6) && (r != 0 || s == 0)
  | .pst _ _ _ r s => decide (s.toNat < 6) && (r != 0 || s == 0)
  | .sbind _ _ => true
  | .sunbind _ => true
  | .spos _ _ => true
  | .mzero _ => true
  | .mma .. => true
  | .mmam .. => true
  | .mdrain .. => true
  | .mpert _ _ => true
  | .tldef _ _ => true
  | .tlexp _ _ => true
  | .tlwait _ _ => true
  | .tlrel _ => true
  | .cpy _ _ => true
  | .cpyp _ _ => true
  | .cpyg _ _ => true
  | .cpys _ _ => true
  | .mshq .. => true
  | .mshgl _ => true
  | .mshref _ => true
  | .mshcrs _ => true
  | .mshren _ => true
  | .mshcut _ => true
  | .mshmig _ => true
  | .mshwait _ => true
  | .clrgen _ => true
  | .binapp .. => true
  | .binplay _ => true
  | .binwait _ => true
  | .tagset _ => true
  | .tagtest _ _ => true
  | .rget .. => true
  | .rput _ _ => true
  | .ratom _ _ _ c _ => decide (c.toNat < 10)
  | .cred _ => true
  | .cbcast _ => true
  | .vsetl .. => true
  | .vsetli .. => true
  | .setmode .. => true
  | .setmodev _ _ => true
  | .ldhi .. => true
  | .addpc _ _ => true
  | .jal _ => true
  | .jalr .. => true
  | .rep .. => true
  | .eret => true
  | .yield => true
  | .vsync => true
  | .tend => true
  | .rflush => true
  | .microOperationIssue .. => true
  | .vectorCommit .. => true
  | .heldInstructionRetire _ => true
  | .hartWake _ => true
  | .waitwRecheck _ => true
  | .blockDispatch _ => true
  | .commandClaimRegistration _ _ => true
  | .copyCommandRun _ => true
  | .tileWatchdogExpiry .. => true
  | .topologyCommandRun _ => true
  | .colouringCommandRun _ => true
  | .binAppendWrite _ => true
  | .binningCommandRun _ => true
  | .hodTileTransfer .. => true
  | .remoteRequestAtPeer .. => true
  | .peerAccessArrival .. => true
  | .collectiveComplete .. => true
  | .collectiveTimeout _ => true
  | .kick _ _ => true
  | .take _ _ => true
  | .slotTake _ => true
  | .kernelNodeLaunch _ _ => true
  | .launchPacket .. => true
  | .copyNode _ _ => true
  | .conditionalNode _ _ => true
  | .switchNode _ _ => true
  | .loopNode _ _ => true
  | .loopBodyEnd _ _ => true
  | .eventWaitNode _ _ => true
  | .eventSignalNode _ _ => true
  | .selfTestNode _ _ => true
  | .endNode _ _ => true
  | .nodeCompletion _ _ => true
  | .completionAcknowledge .. => true
  | .replayEnd _ => true
  | .heartbeatTimeout => true
  | .controlHartMemoryError .. => true
  | .takeoverTimeout => true
  | .ctxkick _ => true
  | .inval _ => true
  | .translationInvalidationComplete _ => true
  | .preempt _ => true
  | .preemptAcknowledge _ _ => true
  | .preemptTimeout _ _ => true
  | .resume _ => true
  | .inboundPostedWrite .. => true
  | .inboundGo .. => true
  | .inboundAcknowledgement .. => true
  | .hostReadRequest .. => true
  | .releaseRecord _ _ => true
  | .retireChannel _ _ => true
  | .releaseReserve _ => true
  | .setPatrol _ _ => true
  | .setSelftest _ => true
  | .setRelayshare _ _ => true
  | .readCoverage _ => true
  | .setDeviceNumber _ => true
  | .writeRoute _ _ => true
  | .spdmRequest _ => true
  | .firmwareUpdate .. => true
  | .svnAdvance => true
  | .injectCorrectable .. => true
  | .injectUncorrectable .. => true
  | .injectPoison .. => true
  | .injectFailChannel _ _ => true
  | .channelFailure _ _ => true
  | .relayGranuleMove _ _ => true
  | .spareRebuild _ => true
  | .patrolPeriodStart _ => true
  | .patrolRead _ _ => true
  | .alertBackoff .. => true
  | .retentionEntry .. => true
  | .retentionExit .. => true
  | .housekeeperSelfTest _ _ => true
  | .selfTestEnd .. => true
  | .selfTestLimit _ => true
  | .selfTestAbandon _ => true
  | .powerMeasurement _ => true
  | .clockRaise => true
  | .thermalLimit _ _ => true
  | .idleEntry _ => true
  | .standbyRequest => true
  | .powerLoss => true
  | .coldReset .. => true
  | .warmReset .. => true
  | .beydinPortDown .. => true
  | .pciePortDown .. => true
  | .registerWrite .. => true
  | .wordNotAnInstruction _ => true
  | .instructionFetchFault _ _ => true
  | .streamReadAhead _ _ => true
  | .peerReply .. => true
  | .controlHartReload _ _ => true
  | .standbyExit => true

/-- Well formed, as a proposition. -/
abbrev WellFormed (i : Instr) : Prop := i.wf = true

end Sys2Proof
end

