-- ==== Sys2Proof/Certificates/Slice0/Obligations.lean ====
section
/-! DEFINITION. The statements for the provers. -/

open Sys2Proof Sys2Proof.Machine

/-- The register-register arithmetic of major 0x01 (05 R175): wrapping sums, products, and quotients and remainders with the
corners of 02 R64. The immediate forms (05 R176): majors 0x02 to 0x05. -/
def Obligations.ScalarIntegerOperations : Prop :=
  (WritesOfTwo Instr.add (fun x y v => v.toNat = (x.toNat + y.toNat) % 2 ^ 64) ∧
   WritesOfTwo Instr.sub (fun x y v => (v.toNat + y.toNat) % 2 ^ 64 = x.toNat) ∧
   WritesOfTwo Instr.mul (fun x y v => v.toNat = x.toNat * y.toNat % 2 ^ 64) ∧
   WritesOfTwo Instr.mulh (fun x y v => v.toInt = x.toInt * y.toInt / 2 ^ 64) ∧
   WritesOfTwo Instr.mulhu (fun x y v => v.toNat = x.toNat * y.toNat / 2 ^ 64) ∧
   WritesOfTwo Instr.div (fun x y v =>
     (y = 0 → v.toInt = if x.toInt < 0 then 1 else -1) ∧
     (y ≠ 0 → ¬ (x.toInt = -2 ^ 63 ∧ y.toInt = -1) → v.toInt = x.toInt.tdiv y.toInt) ∧
     (x.toInt = -2 ^ 63 ∧ y.toInt = -1 → v.toInt = -2 ^ 63)) ∧
   WritesOfTwo Instr.divu (fun x y v =>
     (y = 0 → v = BitVec.allOnes 64) ∧ (y ≠ 0 → v.toNat = x.toNat / y.toNat)) ∧
   WritesOfTwo Instr.rem (fun x y v => (y = 0 → v = x) ∧ (y ≠ 0 → v.toInt = x.toInt.tmod y.toInt)) ∧
   WritesOfTwo Instr.remu (fun x y v => (y = 0 → v = x) ∧ (y ≠ 0 → v.toNat = x.toNat % y.toNat))) ∧
  (WritesOfImm 16 Instr.addi (fun x i v => v = x + BitVec.ofInt 64 i.toInt) ∧
   WritesOfImm 13 Instr.andi (fun x i v => v = x &&& BitVec.ofInt 64 i.toInt) ∧
   WritesOfImm 13 Instr.ori (fun x i v => v = x ||| BitVec.ofInt 64 i.toInt) ∧
   WritesOfImm 13 Instr.xori (fun x i v => v = x ^^^ BitVec.ofInt 64 i.toInt) ∧
   WritesOfImm 13 Instr.slti (fun x i v => v.toNat = if x.toInt < i.toInt then 1 else 0) ∧
   WritesOfImm 13 Instr.sltiu (fun x i v => v.toNat = if x.toNat < (BitVec.ofInt 64 i.toInt).toNat then 1 else 0) ∧
   WritesOfImm 6 Instr.shli (fun x i v => v.toNat = x.toNat * 2 ^ i.toNat % 2 ^ 64) ∧
   WritesOfImm 6 Instr.shri (fun x i v => v.toNat = x.toNat / 2 ^ i.toNat) ∧
   WritesOfImm 6 Instr.sari (fun x i v => v.toInt = x.toInt / 2 ^ i.toNat) ∧
   (∀ s d q i, ∃ v, exec (.ldhi d q i) s = .next (s.setS d v).past ∧ ∀ k < 64,
     v.getLsbD k = if k / 16 = q.toNat then i.getLsbD (k % 16) else (s.hart.readS d).getLsbD k) ∧
   (∀ s d i, exec (.addpc d i) s = .next (s.setS d (s.hart.pc + BitVec.ofInt 64 (4 * i.toInt))).past))

/-- The bitwise operations, shifts and rotations of major 0x01 (05 R175, 02 R65), bit by bit. Minimum, maximum, comparison and
SHADD of major 0x01 (05 R175), and SEL, which reads the old s_d. Counting, reversing and extending bits (05 R175). -/
def Obligations.ScalarBitOperations : Prop :=
  (WritesOfTwo Instr.and (fun x y v => ∀ i, v.getLsbD i = (x.getLsbD i && y.getLsbD i)) ∧
   WritesOfTwo Instr.or (fun x y v => ∀ i, v.getLsbD i = (x.getLsbD i || y.getLsbD i)) ∧
   WritesOfTwo Instr.xor (fun x y v => ∀ i, v.getLsbD i = (x.getLsbD i != y.getLsbD i)) ∧
   WritesOfTwo Instr.andn (fun x y v => ∀ i < 64, v.getLsbD i = (x.getLsbD i && !y.getLsbD i)) ∧
   WritesOfTwo Instr.shl (fun x y v => ∀ i < 64, v.getLsbD i = (decide (y.toNat % 256 ≤ i) && x.getLsbD (i - y.toNat % 256))) ∧
   WritesOfTwo Instr.shr (fun x y v => ∀ i < 64, v.getLsbD i = x.getLsbD (i + y.toNat % 256)) ∧
   WritesOfTwo Instr.sar (fun x y v =>
     ∀ i < 64, v.getLsbD i = if i + y.toNat % 256 < 64 then x.getLsbD (i + y.toNat % 256) else x.msb) ∧
   WritesOfTwo Instr.rotr (fun x y v => ∀ i < 64, v.getLsbD i = x.getLsbD ((i + y.toNat % 256) % 64))) ∧
  (WritesOfTwo Instr.min (fun x y v => v.toInt = min x.toInt y.toInt) ∧
   WritesOfTwo Instr.max (fun x y v => v.toInt = max x.toInt y.toInt) ∧
   WritesOfTwo Instr.minu (fun x y v => v.toNat = min x.toNat y.toNat) ∧
   WritesOfTwo Instr.maxu (fun x y v => v.toNat = max x.toNat y.toNat) ∧
   WritesOfTwo Instr.seq (fun x y v => v.toNat = if x = y then 1 else 0) ∧
   WritesOfTwo Instr.sne (fun x y v => v.toNat = if x = y then 0 else 1) ∧
   WritesOfTwo Instr.slt (fun x y v => v.toNat = if x.toInt < y.toInt then 1 else 0) ∧
   WritesOfTwo Instr.sltu (fun x y v => v.toNat = if x.toNat < y.toNat then 1 else 0) ∧
   (∀ s d a b, exec (.sel d a b) s =
     .next (s.setS d (if s.hart.readS d = 0 then s.hart.readS b else s.hart.readS a)).past) ∧
   (∀ k, WritesOfTwo (fun d a b => Instr.shadd d a b k) (fun x y v => v.toNat = (x.toNat * 2 ^ k.toNat + y.toNat) % 2 ^ 64))) ∧
  (WritesOfOne Instr.clz (fun x v => (x = 0 → v.toNat = 64) ∧
     (x ≠ 0 → v.toNat < 64 ∧ 2 ^ (63 - v.toNat) ≤ x.toNat ∧ x.toNat < 2 ^ (64 - v.toNat))) ∧
   WritesOfOne Instr.ctz (fun x v => (x = 0 → v.toNat = 64) ∧
     (x ≠ 0 → x.getLsbD v.toNat = true ∧ ∀ i < v.toNat, x.getLsbD i = false)) ∧
   WritesOfOne Instr.popc (fun x v => v.toNat = ((List.range 64).filter fun i => x.getLsbD i).length) ∧
   WritesOfOne Instr.brev (fun x v => ∀ i < 64, v.getLsbD i = x.getLsbD (63 - i)) ∧
   WritesOfOne Instr.sextB (fun x v => ∀ i < 64, v.getLsbD i = x.getLsbD (min i 7)) ∧
   WritesOfOne Instr.sextH (fun x v => ∀ i < 64, v.getLsbD i = x.getLsbD (min i 15)) ∧
   WritesOfOne Instr.sextW (fun x v => ∀ i < 64, v.getLsbD i = x.getLsbD (min i 31)) ∧
   WritesOfOne Instr.zextB (fun x v => v.toNat = x.toNat % 2 ^ 8) ∧
   WritesOfOne Instr.zextH (fun x v => v.toNat = x.toNat % 2 ^ 16) ∧
   WritesOfOne Instr.zextW (fun x v => v.toNat = x.toNat % 2 ^ 32))

/-- The conditional branches of major 0x08 (05 R180). The branches on the bits of a predicate below VL (05 R181): with VL 0,
BPANY falls through and the other two branch. -/
def Obligations.Branches : Prop :=
  (BranchesOn Instr.beq (fun x y => x = y) ∧
   BranchesOn Instr.bne (fun x y => x ≠ y) ∧
   BranchesOn Instr.blt (fun x y => x.toInt < y.toInt) ∧
   BranchesOn Instr.bge (fun x y => y.toInt ≤ x.toInt) ∧
   BranchesOn Instr.bltu (fun x y => x.toNat < y.toNat) ∧
   BranchesOn Instr.bgeu (fun x y => y.toNat ≤ x.toNat)) ∧
  (BranchesOnBits Instr.bpany (fun bit n => ∃ i < n, bit i = true) ∧
   BranchesOnBits Instr.bpall (fun bit n => ∀ i < n, bit i = true) ∧
   BranchesOnBits Instr.bpnone (fun bit n => ∀ i < n, bit i = false))

/-- JAL writes PC + 4 to s31 and jumps to PC + sext(disp) × 4; JALR computes its target from s_a before it writes PC + 4 to s_d
(05 R182). -/
def Obligations.JumpAndLink : Prop :=
  (∀ s i, exec (.jal i) s =
    .next (((s.setS 31 (s.hart.pc + 4)).retire 1).setPc (s.hart.pc + BitVec.ofInt 64 (4 * i.toInt)))) ∧
  (∀ s d a i, ∃ target : Word, target.toNat % 4 = 0 ∧
    target.toNat / 4 = (s.hart.readS a + BitVec.ofInt 64 i.toInt).toNat / 4 ∧
    exec (.jalr d a i) s = .next (((s.setS d (s.hart.pc + 4)).retire 1).setPc target))

/-- s0 and p0 read as constants and ignore writes; a write to another register is read back and changes no other register (01
R24). -/
def Obligations.RegisterFiles : Prop :=
  (∀ (h : Hart) v, h.readS 0 = 0 ∧ h.writeS 0 v = h) ∧
  (∀ (h : Hart) v i, i < 16384 → (h.readP 0).getLsbD i = true ∧ h.writeP 0 v = h) ∧
  (∀ (h : Hart) r v q, r ≠ 0 → (h.writeS r v).readS q = if q = r then v else h.readS q) ∧
  (∀ (h : Hart) r v q, r ≠ 0 → (h.writeP r v).readP q = if q = r then v else h.readP q) ∧
  (∀ (h : Hart) r v q, r < 32 → q < 32 → (h.writeV r v).readV q = if q = r then v else h.readV q) ∧
  (∀ (h : Hart) r t q, r < 32 → q < 32 → (h.setTag r t).tag q = if q = r then t else h.tag q)

/-- The rounding scalar operations (05 R177, R178): with an assigned rounding mode each writes its value rounded once, as 02
computes it, and raises its flags. The scalar operations that do not round look at no rounding mode (01 R35; 05 R177 to R179). A
rounding scalar operation with an unassigned rounding mode traps ILLEGAL, and XTVAL holds MODE (01 R35, R54). -/
def Obligations.ScalarFloatingPoint : Prop :=
  (FloatWrites Instr.fadd (fun h p x y _ => roundFp h p false (FVal.add h.rm x y)) ∧
   FloatWrites Instr.fsub (fun h p x y _ => roundFp h p false (FVal.add h.rm x y.negate)) ∧
   FloatWrites Instr.fmul (fun h p x y _ => roundFp h p false (FVal.mul x y)) ∧
   FloatWrites Instr.fma (fun h p x y z => roundFp h p false (FVal.fma h.rm x y z)) ∧
   FloatWrites Instr.fnma (fun h p x y z => roundFp h p false (FVal.fma h.rm x.negate y z)) ∧
   FloatWrites Instr.fdiv (fun h p x y _ => roundFp h p false (FVal.div x y)) ∧
   FloatWrites (fun d a _ p => Instr.fsqrt d a p) (fun h p x _ _ => roundFp h p false x.sqrt) ∧
   FloatConverts (fun d a => Instr.fcvtFf d a 1) (fun h x => roundFp h 1 h.sat
     (FFmt.fp64.unpack false x.toNat, { nv := (FFmt.fp64.unpack false x.toNat).isSig })) ∧
   (∀ p, FloatConverts (fun d a => Instr.fcvtFs d a p) (fun h x => toWord h true ((fpFmt p).unpack false x.toNat))) ∧
   (∀ p, FloatConverts (fun d a => Instr.fcvtFu d a p) (fun h x => toWord h false ((fpFmt p).unpack false x.toNat))) ∧
   (∀ p, FloatConverts (fun d a => Instr.fcvtSf d a p) (fun h x => roundFp h p false (FVal.ofInt x.toInt, {}))) ∧
   (∀ p, FloatConverts (fun d a => Instr.fcvtUf d a p) (fun h x => roundFp h p false (FVal.ofInt x.toNat, {})))) ∧
  (FloatPlain Instr.fmin (fun p x y => minmaxFp p false x.toNat y.toNat) ∧
   FloatPlain Instr.fmax (fun p x y => minmaxFp p true x.toNat y.toNat) ∧
   FloatPlain Instr.feq (fun p x y =>
     compareFp false (· == 0) ((fpFmt p).unpack false x.toNat) ((fpFmt p).unpack false y.toNat)) ∧
   FloatPlain Instr.flt (fun p x y =>
     compareFp true (· < 0) ((fpFmt p).unpack false x.toNat) ((fpFmt p).unpack false y.toNat)) ∧
   FloatPlain Instr.fle (fun p x y =>
     compareFp true (· ≤ 0) ((fpFmt p).unpack false x.toNat) ((fpFmt p).unpack false y.toNat)) ∧
   (∀ s d a p, ∃ k, k < 10 ∧ k = (fpFmt p).cls false (s.hart.readS a).toNat ∧
     exec (.fclass d a p) s = .next (s.setS d (BitVec.twoPow 64 k)).past) ∧
   (∀ s d a, exec (.fcvtFf d a 0) s = .next (s.setF d
     (BitVec.ofNat 64 (FFmt.fp64.exact (FFmt.fp32.unpack false (s.hart.readS a).toNat)),
       { nv := (FFmt.fp32.unpack false (s.hart.readS a).toNat).isSig })).past)) ∧
  (∀ s d a b p i, s.hart.rm? = none → s.hart.xt = false →
     i ∈ [Instr.fadd d a b p, .fsub d a b p, .fmul d a b p, .fma d a b p, .fnma d a b p, .fdiv d a b p, .fsqrt d a p,
       .fcvtFf d a 1, .fcvtFs d a p, .fcvtFu d a p, .fcvtSf d a p, .fcvtUf d a p] →
     ∃ t, exec i s = .next t ∧ t.hart.xcause = 0x001 ∧ t.hart.xtval = s.hart.mode ∧ t.hart.xepc = s.hart.pc ∧
       t.hart.pc = s.hart.xvec ∧ t.hart.regs = s.hart.regs ∧ t.hart.fflags = s.hart.fflags)

/-- Rounding a value that a format represents gives its own code and raises nothing, in every rounding mode (02 R66 to R72).
Rounding of a finite value that is not zero (02 R74, R76): it is rounded once, at the last place that the format keeps for its
magnitude; a result within the largest finite value is the code of the rounded value, with NX where it differs from the exact
one, and one beyond it overflows with OF and NX as the table of R76 says. (A tiny result under FTZ16 is not stated here.) An infinity
is exact where the format has one, and elsewhere overflows by the rounding mode, MODE.SAT or not (R76); a NaN is the canonical one (R67,
R68). The values before rounding, exact or with one more bit that says where a value that is not dyadic lies: sums, products,
quotients and roots, with their NaNs, infinities and signs of zero (R67 to R69). Minimum and maximum by the order of codes (R75), and
the class of a code (R66, R67). -/
def Obligations.RoundingKeepsRepresentable : Prop :=
  (∀ (f : FFmt) (rm : RM) (sat : Bool) w, w < 2 ^ f.bits → (f.unpack false w).isFin = true →
    f.round ⟨rm, false, sat⟩ (f.unpack false w) = (w, {})) ∧
  (∀ (f : FFmt) (c : FEnv) (s : Bool) (m : Nat) (e : Int), 0 < m → c.ftz = false →
    ∃ (n : Nat) (q : Int), q = max f.qmin (e + bitLen m - (f.frac + 1)) ∧
      (q ≤ e → n = m * 2 ^ (e - q).toNat) ∧
      (e < q → Rounded c.rm (if s then -(m : Int) else m) (q - e).toNat (if s then -(n : Int) else n)) ∧
      let units := n * 2 ^ (q - f.qmin).toNat
      let most := (f.largest % 2 ^ f.frac + 2 ^ f.frac) * 2 ^ (f.largest / 2 ^ f.frac - 1)
      let r := f.round c (.fin s m e)
      let big := f.signBit s + f.largest
      let past := if f.hasInf then f.signBit s + f.largest + 1 else f.nan
      (units ≤ most → r.2.nx = decide (e < q ∧ n * 2 ^ (q - e).toNat ≠ m) ∧ r.2.of = false ∧
        ∃ (k : Nat) (x : Int), f.unpack false r.1 = .fin s k x ∧ f.qmin ≤ x ∧ k * 2 ^ (x - f.qmin).toNat = units) ∧
      (most < units → r.2 = { of := true, nx := true, sat := f == .e2m1 || c.sat } ∧
        r.1 = if f = .e2m1 ∨ c.sat = true then big
          else match c.rm with
            | .rne => past
            | .rmm => past
            | .rtz => big
            | .rdn => if s then past else big
            | .rup => if s then big else past)) ∧
  (∀ (f : FFmt) (c : FEnv) s b,
     f.round c (.nan b) = (f.nan, { nv := f == .e2m1 }) ∧
     (f.hasInf = true → f.round c (.inf s) = (f.signBit s + f.largest + 1, {})) ∧
     FFmt.round .e2m1 c (.inf s) = (if s then 15 else 7, { of := true, nx := true, sat := true }) ∧
     FFmt.round .e4m3 c (.inf s) =
       (if c.rm = .rne ∨ c.rm = .rmm ∨ c.rm = (if s then .rdn else .rup) then 0x7F else if s then 0xFE else 0x7E,
         { of := true, nx := true })) ∧
  (NaNsAndInfinities ∧ FiniteSums ∧ FiniteQuotients ∧ FiniteRoots ∧
   (∀ s m e t n f, FVal.mul (.fin s m e) (.fin t n f) = (.fin (s != t) (m * n) (e + f), {})) ∧
   (∀ rm a b c, FVal.fma rm a b c =
     ((FVal.add rm (FVal.mul a b).1 c).1, (FVal.mul a b).2.or (FVal.add rm (FVal.mul a b).1 c).2))) ∧
  (∀ (f : FFmt) (most : Bool) a b, a < 2 ^ f.bits → b < 2 ^ f.bits →
     let r := f.minmax false most a b
     let x := f.unpack false a
     let y := f.unpack false b
     r.2 = { nv := x.isSig || y.isSig } ∧ (x.isNan = true → y.isNan = true → r.1 = f.nan) ∧
     (x.isNan = true → y.isNan = false → r.1 = b) ∧ (x.isNan = false → y.isNan = true → r.1 = a) ∧
     (x.isNan = false → y.isNan = false → (r.1 = a ∨ r.1 = b) ∧
       f.place r.1 = if most then max (f.place a) (f.place b) else min (f.place a) (f.place b))) ∧
  (∀ (f : FFmt) (ftz : Bool) w, w < 2 ^ f.bits →
     let a := w % 2 ^ (f.bits - 1)
     let s := decide (2 ^ (f.bits - 1) ≤ w)
     f.cls ftz w =
       if f.largest < a then
         (if f.hasInf = true ∧ a = f.largest + 1 then (if s then 0 else 7)
          else if f.hasInf = true ∧ a % 2 ^ f.frac < 2 ^ (f.frac - 1) then 8 else 9)
       else if a = 0 ∨ (a < 2 ^ f.frac ∧ ftz = true ∧ f.bits ≤ 16) then (if s then 3 else 4)
       else if a < 2 ^ f.frac then (if s then 2 else 5)
       else if s then 1 else 6)

/-- The scalar loads (05 R184, R185) and LDACQ (05 R187). The scalar stores (05 R184, R185) and STREL, which waits until its
release may perform (05 R187, 03 R127): while it may not, STREL stores nothing, marks where the release began (03 R137), and
its word runs again. -/
def Obligations.ScalarLoadsAndStores : Prop :=
  (LoadsBytes 1 Instr.ldb (toS 8) ∧ LoadsBytes 1 Instr.ldbu (fun v => v) ∧
   LoadsBytes 2 Instr.ldh (toS 16) ∧ LoadsBytes 2 Instr.ldhu (fun v => v) ∧
   LoadsBytes 4 Instr.ldw (toS 32) ∧ LoadsBytes 4 Instr.ldwu (fun v => v) ∧
   LoadsBytes 8 Instr.ldd (fun v => v) ∧
   (∀ s d a w c, c.toNat < 6 →
     ((s.hart.readS a).toNat % 2 ^ w.toNat ≠ 0 →
       exec (.ldacq d a w c) s = .next (s.trapOf (.ldacq d a w c) (.misalign (s.hart.readS a)))) ∧
     ((s.hart.readS a).toNat % 2 ^ w.toNat = 0 → ∀ v t, s.loadN (s.hart.readS a) (2 ^ w.toNat) = .ok v t →
       exec (.ldacq d a w c) s = .next (t.setS d (BitVec.ofNat 64 v)).past))) ∧
  (StoresBytes 1 Instr.stb ∧ StoresBytes 2 Instr.sth ∧ StoresBytes 4 Instr.stw ∧ StoresBytes 8 Instr.std ∧
   (∀ s a b w c, c.toNat < 6 →
     ((s.hart.readS a).toNat % 2 ^ w.toNat ≠ 0 →
       exec (.strel a b w c) s = .next (s.trapOf (.strel a b w c) (.misalign (s.hart.readS a)))) ∧
     ((s.hart.readS a).toNat % 2 ^ w.toNat = 0 → s.releaseReady c.toNat = false →
       exec (.strel a b w c) s = .next s.beginRelease.waits) ∧
     ((s.hart.readS a).toNat % 2 ^ w.toNat = 0 → s.releaseReady c.toNat = true →
       ∀ v t, s.storeN (s.hart.readS a) (2 ^ w.toNat) (s.hart.readS b).toNat = .ok v t →
       exec (.strel a b w c) s = .next t.past)))

/-- An access of plain memory (00 R5): a load gives the bytes little-endian and changes nothing, and a store sets its own bytes
and no other one; neither touches a hart. Memory operations read back what they wrote, touch no other byte, and keep the
canonical form. -/
def Obligations.MemoryReadsBack : Prop :=
  (∀ (s : State) va n k h p, s.claimed k n = false → s.fenced k = false →
     (s.access s.hart.env .load va n = .ok [⟨va, n, .mem k h p⟩] → s.readCheck k n = (s, none) →
       s.loadN va n = .ok (Memory.readLE s.mem k n) s) ∧
     (s.access s.hart.env .store va n = .ok [⟨va, n, .mem k h p⟩] → Memory.wf s.mem = true → ∀ v,
       ∃ t, s.storeN va n v = .ok 0 t ∧ t.hart = s.hart ∧ t.parked = s.parked ∧ Memory.wf t.mem = true ∧
         (∀ i < n, Memory.read t.mem (k + i) = BitVec.ofNat 8 (v / 256 ^ i)) ∧
         ∀ a, a < k ∨ k + n ≤ a → Memory.read t.mem a = Memory.read s.mem a)) ∧
  (∀ m, Memory.wf m = true → ∀ k,
     (∀ b, Memory.wf (Memory.write m k b) = true ∧ Memory.read (Memory.write m k b) k = b ∧
       ∀ a, a ≠ k → Memory.read (Memory.write m k b) a = Memory.read m a) ∧
     (∀ n v, Memory.wf (Memory.writeLE m k n v) = true ∧ Memory.readLE (Memory.writeLE m k n v) k n = v % 256 ^ n) ∧
     (∀ m', Memory.wf m' = true → (∀ a, Memory.read m a = Memory.read m' a) → m = m'))

/-- The integer atomics (05 R189, R191): AMOCAS writes only where memory equals s_d. The floating atomics (05 R190, 02 R75): the
addition rounds by MODE.RM. An atomic that is not naturally aligned traps MISALIGN (05 R189). -/
def Obligations.Atomics : Prop :=
  (AtomicOf Instr.amoadd (fun n _ x y => some ((x + y) % 256 ^ n)) ∧
   AtomicOf Instr.amoand (fun _ _ x y => some (x &&& y)) ∧
   AtomicOf Instr.amoor (fun _ _ x y => some (x ||| y)) ∧
   AtomicOf Instr.amoxor (fun _ _ x y => some (x ^^^ y)) ∧
   AtomicOf Instr.amomin (fun n _ x y => some (if toS (8 * n) y < toS (8 * n) x then y else x)) ∧
   AtomicOf Instr.amomax (fun n _ x y => some (if toS (8 * n) x < toS (8 * n) y then y else x)) ∧
   AtomicOf Instr.amominu (fun _ _ x y => some (if y < x then y else x)) ∧
   AtomicOf Instr.amomaxu (fun _ _ x y => some (if x < y then y else x)) ∧
   AtomicOf Instr.amoswap (fun _ _ _ y => some y) ∧
   AtomicOf Instr.amocas (fun n d x y => if x = d.toNat % 256 ^ n then some y else none)) ∧
  (FloatAtomicOf Instr.amofadd true (fun f e x y => (f.add e x y).1) ∧
   FloatAtomicOf Instr.amofmin false (fun f e x y => (f.minmax e.ftz false x y).1) ∧
   FloatAtomicOf Instr.amofmax false (fun f e x y => (f.minmax e.ftz true x y).1)) ∧
  (∀ mk ∈ [Instr.amoadd, Instr.amoand, Instr.amoor, Instr.amoxor, Instr.amomin, Instr.amomax, Instr.amominu, Instr.amomaxu,
      Instr.amoswap, Instr.amocas], AtomicAligned mk false 0 4 ∧ AtomicAligned mk false 1 8) ∧
  (∀ mk rounds, (mk, rounds) ∈ [(Instr.amofadd, true), (Instr.amofmin, false), (Instr.amofmax, false)] →
    AtomicAligned mk rounds 0 4 ∧ AtomicAligned mk rounds 1 8 ∧ AtomicAligned mk rounds 2 4)

/-- FENCE, YIELD and VSYNC change no architectural state but the program counter and RETIRED (05 R188, R198, R199); YIELD gives the
hart's next turn to the next RUNNING hart of its core, if there is one, and to itself elsewhere (R198; log 68). A FENCE of the
kind EC waits while an engine command of the hart has not registered its claims. That every older access has performed rests on log 1.
WAITW (05 R197): MISALIGN, a wait while the doubleword equals s_d, and its value in s_d once it differs. -/
def Obligations.FencesHintsWaits : Prop :=
  ((∀ s k c, c.toNat < 6 → ¬ (k.getLsbD 0 = true ∧ s.unregistered = true) → exec (.fence k c) s = .next s.past) ∧
   (∀ s k c, c.toNat < 6 → k.getLsbD 0 = true → s.unregistered = true →
     exec (.fence k c) s = .next { s with hart := { s.hart with st := .waiting } }) ∧
   (∀ s, exec .vsync s = .next s.past) ∧
   (∀ s, (∃ y, exec .yield s = .next (State.past { s with hart := { s.hart with yielded := y } }) ∧
       (y = true ↔ s.hart.yielded = true ∨ (s.hart.isCtl = false ∧
         ∃ n, n ≠ s.hart.num ∧ n / 4 = s.hart.num / 4 ∧ (s.hartAt n).st = .running))) ∧
     (s.hart.yielded = true → ∀ n, s.nextRunning = some n →
       (s.givenTurn.hart = s.hartAt n ∧ n ≠ s.hart.num) ∧ s.givenTurn.hartAt s.hart.num = { s.hart with yielded := false }) ∧
     (s.hart.yielded = false → s.givenTurn = s))) ∧
  (∀ s d a,
     ((s.hart.readS a).toNat % 8 ≠ 0 →
       exec (.waitw d a) s = .next (s.trapOf (.waitw d a) (.misalign (s.hart.readS a)))) ∧
     ((s.hart.readS a).toNat % 8 = 0 → ∀ v t, s.loadN (s.hart.readS a) 8 = .ok v t →
       (BitVec.ofNat 64 v ≠ s.hart.readS d → exec (.waitw d a) s = .next (t.setS d (BitVec.ofNat 64 v)).past) ∧
       (BitVec.ofNat 64 v = s.hart.readS d →
         exec (.waitw d a) s = .next { t with hart := { t.hart with st := .waiting } })))

/-- What CSRR reads (01 R27, R39, R48; 05 R194): every user CSR in either mode, the supervisor CSRs in supervisor mode, and a
sample of CLOCK, which counts on by the clocks that Config.elapsed, a free value, gives this sample, in the power states in which it
counts (01 R39; 16 R431; log 5). -/
def Obligations.CsrReads : Prop :=
  ∀ s : State,
    (s.Reads 0x000 (s.hart.vl.setWidth 64) ∧ s.Reads 0x001 (s.hart.vlmax.setWidth 64) ∧
     s.Reads 0x002 (s.hart.vstart.setWidth 64) ∧ s.Reads 0x003 s.hart.vcfg ∧ s.Reads 0x004 s.hart.mode ∧
     s.Reads 0x005 (s.hart.fflags.setWidth 64) ∧ s.Reads 0x006 s.hart.vcommit ∧ s.Reads 0x007 (s.hart.mstart.setWidth 64) ∧
     s.Reads 0x008 (s.hart.repidx.setWidth 64) ∧ s.Reads 0x013 (s.hart.ctxid.setWidth 64) ∧ s.Reads 0x014 s.hart.blklo ∧
     s.Reads 0x015 s.hart.blkhi ∧ s.Reads 0x016 (BitVec.ofNat 64 (s.hart.slot.toNat * 2 ^ 16 + s.hart.node.toNat)) ∧
     s.Reads 0x017 (s.hart.gen.setWidth 64) ∧ s.Reads 0x019 s.hart.retired) ∧
    (1152 ≤ s.hart.num → s.Reads 0x010 (BitVec.ofNat 64 (s.hart.num - 1152)) ∧ s.Reads 0x011 0 ∧
      s.Reads 0x012 (BitVec.ofNat 64 (s.fab.device.toNat * 2 ^ 8 + 12))) ∧
    (s.hart.num < 1152 →
      s.Reads 0x010 (BitVec.ofNat 64 (s.hart.num % 4)) ∧
      s.Reads 0x011 (BitVec.ofNat 64 (s.hart.num / 4 % 24 + s.hart.num / 4 % 24 / 4 * 2 ^ 5)) ∧
      s.Reads 0x012 (BitVec.ofNat 64 (s.fab.device.toNat * 2 ^ 8 + s.hart.num / 96))) ∧
    (∀ n : Nat, n < 4 → ∃ v : Word, s.Reads (BitVec.ofNat 12 (0x00C + n)) v ∧
      ∀ k < 8, v.toNat / 2 ^ (8 * k) % 256 = (s.hart.tag (8 * n + k)).toNat) ∧
    (s.hart.inX = true →
      s.Reads 0x100 (s.hart.xstatus.setWidth 64) ∧ s.Reads 0x101 (s.hart.xcause.setWidth 64) ∧ s.Reads 0x102 s.hart.xepc ∧
      s.Reads 0x103 s.hart.xtval ∧ s.Reads 0x104 s.hart.xvec ∧ s.Reads 0x105 s.hart.xscratch ∧
      s.Reads 0x110 s.hart.heapbase ∧ s.Reads 0x111 s.hart.heaplim ∧ s.Reads 0x112 s.hart.heapoff ∧
      s.Reads 0x113 s.hart.ptroot ∧ s.Reads 0x114 s.hart.ctxcfg ∧ s.Reads 0x118 s.hart.atmem ∧
      s.Reads 0x119 s.hart.atscr ∧ s.Reads 0x11A s.hart.atiod ∧ s.Reads 0x11B s.hart.atport) ∧
    (∀ d n, n = (if s.pow.st = .run ∨ s.pow.st = .idle then Config.elapsed s.ticks else 0) → exec (.csrr d 0x018) s =
      .next (({ s with clock := s.clock + BitVec.ofNat 64 n, ticks := s.ticks + 1 } : State).setS d
        (s.clock + BitVec.ofNat 64 n)).past)

/-- What CSRW and CSRX write (01 R27, R30, R34 to R36, R38, R48 to R50; 05 R194): each writable field, nothing in a reserved bit or a
register that is read only; of MODE every assigned bit, PROT also where PROTREQ keeps it set, with what a change of PROT does to
the configuration and the vector registers. CSRX answers the old value. -/
def Obligations.CsrWrites : Prop :=
  ∀ s : State,
    (s.Writes 0x002 (fun v => { s.hart with vstart := v.setWidth 15 }) ∧
     s.Writes 0x005 (fun v => { s.hart with fflags := v.setWidth 7 }) ∧
     s.Writes 0x007 (fun v => { s.hart with mstart := v.setWidth 9 }) ∧
     s.Writes 0x008 (fun v => { s.hart with repidx := v.setWidth 6 })) ∧
    (∃ f : Word → Hart, s.Writes 0x004 f ∧ ∀ v,
      (∀ k < 64, (f v).mode.getLsbD k =
        (decide (k < 20 ∧ k ≠ 15) && v.getLsbD k || (k == 12 && s.hart.prot && s.hart.ctxcfg.getLsbD 0))) ∧
      { f v with mode := s.hart.mode, vcfg := s.hart.vcfg, vlmax := s.hart.vlmax, vl := s.hart.vl,
                 vregs := s.hart.vregs } = s.hart ∧
      ((f v).prot = s.hart.prot → (f v).vcfg = s.hart.vcfg ∧ (f v).vlmax = s.hart.vlmax ∧ (f v).vl = s.hart.vl) ∧
      ((f v).prot ≠ s.hart.prot → (f v).vcfg = 0x8000000000000000 ∧ (f v).vlmax = 0 ∧ (f v).vl = 0) ∧
      ∀ n < 32, ∀ k < 8192, ((f v).readV n).getLsbD k =
        (s.hart.readV n).getLsbD (if (f v).prot = true ∧ s.hart.prot = false then k % 4096 else k)) ∧
    (∀ n : Nat, n < 4 → ∀ a, ∃ h : Hart, exec (.csrw a (BitVec.ofNat 12 (0x00C + n))) s =
        .next ({ s with hart := h } : State).past ∧ { h with tags := s.hart.tags } = s.hart ∧
      ∀ r < 32, h.tag r = if r / 8 = n then (s.hart.readS a).extractLsb' (8 * (r % 8)) 6 else s.hart.tag r) ∧
    (∀ n ∈ [(0x000 : BitVec 12), 0x001, 0x003, 0x006, 0x010, 0x011, 0x012, 0x013, 0x014, 0x015, 0x016, 0x017, 0x018, 0x019],
      s.Writes n (fun _ => s.hart)) ∧
    (s.hart.inX = true →
      s.Writes 0x100 (fun v => { s.hart with
        xstatus := BitVec.ofBool (v.getLsbD 2) ++ BitVec.ofBool (v.getLsbD 1) ++ BitVec.ofBool (s.hart.xstatus.getLsbD 0) }) ∧
      s.Writes 0x101 (fun v => { s.hart with xcause := v.setWidth 12 }) ∧
      s.Writes 0x102 (fun v => { s.hart with xepc := v - v % 4 }) ∧
      s.Writes 0x103 (fun v => { s.hart with xtval := v }) ∧
      s.Writes 0x104 (fun v => { s.hart with xvec := v - v % 4 }) ∧
      s.Writes 0x105 (fun v => { s.hart with xscratch := v }) ∧
      ∀ n ∈ [(0x110 : BitVec 12), 0x111, 0x112, 0x113, 0x114, 0x118, 0x119, 0x11A, 0x11B], s.Writes n (fun _ => s.hart)) ∧
    (∀ d a n, csrExists n.toNat = true → (0x100 ≤ n.toNat → s.hart.inX = true) → n ≠ 0x018 →
      ∃ h : Hart, exec (.csrw a n) s = .next ({ s with hart := h } : State).past ∧
        exec (.csrx d a n) s = .next ({ s with hart := h.writeS d (s.csr n.toNat) } : State).past) ∧
    (∀ d a n, n = (if s.pow.st = .run ∨ s.pow.st = .idle then Config.elapsed s.ticks else 0) → exec (.csrx d a 0x018) s =
      .next (({ s with clock := s.clock + BitVec.ofNat 64 n, ticks := s.ticks + 1 } : State).setS d
        (s.clock + BitVec.ofNat 64 n)).past)

/-- A CSR instruction that names a number that is not implemented traps ILLEGAL at any privilege; in user mode one that names a
number of 0x100 to 0x1FF, implemented or not, traps PRIV (01 R28). -/
def Obligations.CsrNotImplementedTraps : Prop :=
  ∀ s d a n i, i ∈ [Instr.csrr d n, .csrw a n, .csrx d a n] →
    ((9 ≤ n.toNat ∧ n.toNat ≤ 0x00B ∨ 0x01A ≤ n.toNat ∧ n.toNat ≤ 0x0FF ∨ 0x200 ≤ n.toNat) →
      exec i s = .next (s.trapOf i .illegal)) ∧
    (s.hart.inX = false → 0x100 ≤ n.toNat → n.toNat ≤ 0x1FF → exec i s = .next (s.trapOf i (.privCsr n.toNat))) ∧
    (s.hart.inX = true → 0x100 ≤ n.toNat → n.toNat ≤ 0x1FF → csrExists n.toNat = false → exec i s = .next (s.trapOf i .illegal))

/-- Trap entry with XT clear (01 R50, R54, R55): XEPC, XCAUSE, XTVAL and XSTATUS, the jump to XVEC, and what it leaves; it is
the whole change, but for an arming, replies and the mark of a release that are dropped and a WAITING hart that runs; VCOMMIT
names a word of the vector queue that traps (R52; log 65). A trap while XT is set halts a compute hart with XEPC, XCAUSE and
XTVAL unchanged, counts a CONTAINED error in its core's bank, and fails its context (01 R56); no hart of another core
changes. A control hart halts likewise, with a FATAL record 0x35 in the bank of IOD0, and with the primary the take-over
begins (01 R56; 14 R395); where no standby is left to take over is not stated here. -/
def Obligations.TrapEntry : Prop :=
  (∀ (s : State) (i : TrapInfo) (c : Cause), s.hart.xt = false → ∃ h : Hart, s.takeTrap i c = { s with hart := h } ∧
     h.xepc = s.hart.pc ∧ h.xtval = c.xtval i.word s.hart.mode s.hart.vcfg ∧ h.pc = s.hart.xvec ∧
     h.xcause.toNat = c.code + i.vec.toNat * 2 ^ 8 + i.mat.toNat * 2 ^ 9 + i.rep.toNat * 2 ^ 10 + i.fetch.toNat * 2 ^ 11 ∧
     h.inX = true ∧ h.xt = true ∧ h.xstatus.getLsbD 1 = s.hart.inX ∧ h.st = .running ∧ h.arming = none ∧
     h.vcommit = (if i.vec = true then s.hart.pc else s.hart.vcommit) ∧ h.relMark = none ∧
     { h with xepc := s.hart.xepc, xtval := s.hart.xtval, pc := s.hart.pc, xcause := s.hart.xcause, xstatus := s.hart.xstatus,
              st := s.hart.st, arming := s.hart.arming, asked := s.hart.asked, replies := s.hart.replies,
              vcommit := s.hart.vcommit, relMark := s.hart.relMark } = s.hart) ∧
  (∀ (s : State) (i : TrapInfo) (c : Cause), s.hart.xt = true → s.hart.isCtl = false →
     ∃ t, s.takeTrap i c = t ∧ t.hart.st = .halted ∧ t.hart.xepc = s.hart.xepc ∧ t.hart.xcause = s.hart.xcause ∧
       t.hart.xtval = s.hart.xtval ∧ t.hart.regs = s.hart.regs ∧ t.mem = s.mem ∧
       (t.bank s.hart.core).ncont = (s.bank s.hart.core).ncont + 1 ∧
       (∀ x, Table.find? s.cx.ctxs s.hart.ctxid.toNat = some x →
         ∃ y, Table.find? t.cx.ctxs s.hart.ctxid.toNat = some y ∧ y.st = 4) ∧
       (∀ k x, k ≠ s.hart.ctxid.toNat → Table.find? s.cx.ctxs k = some x → Table.find? t.cx.ctxs k = some x) ∧
       (∀ n h, Table.find? s.parked n = some h →
         (∀ x, Table.find? s.cx.ctxs s.hart.ctxid.toNat = some x → h.core ∉ x.live.cores) → Table.find? t.parked n = some h)) ∧
  (∀ (s : State) (i : TrapInfo) (c : Cause), s.hart.xt = true → s.hart.isCtl = true →
     (s.hart.num = 1152 + s.fe.primary → s.fe.standby ≠ 3) →
     (s.hart.num = 1152 + s.fe.primary ∨ s.hart.num = 1152 + s.fe.standby → s.fe.takeover = false) →
     ∃ t, s.takeTrap i c = t ∧ t.hart = { s.hart with st := .halted } ∧ t.parked = s.parked ∧ t.mem = s.mem ∧ t.cx = s.cx ∧
       (t.bank 708).nfatal = (s.bank 708).nfatal + 1 ∧
       (∀ k, (s.bank 708).slot = some k → ∃ r, Table.find? (t.bank 708).recs k = some r ∧ r.valid = true ∧ r.cls = 2 ∧ r.code = 0x35 ∧
         r.unit = BitVec.ofNat 8 (s.hart.num - 1152) ∧ r.synd = BitVec.ofNat 64 (s.hart.num - 1152 + c.code * 256)) ∧
       (s.hart.num = 1152 + s.fe.primary → t.fe.takeover = true ∧ t.fe.hold = true))

/-- TRAP and BRK take their traps with the immediate in XTVAL and their own address in XEPC; with XT set either halts its hart
(05 R195; 01 R56). ERET in supervisor mode restores the program counter and the mode and clears XT; in user mode it traps PRIV
(01 R57, 05 R196). That VCOMMIT shows no uncommitted instruction after an ERET is the model's reading (DEDUCED, log 65). -/
def Obligations.TrapAndReturn : Prop :=
  (∀ s n, s.hart.xt = false →
     (∃ t, exec (.trap n) s = .next t ∧ t.hart.xcause = 0x016 ∧ t.hart.xtval = n.setWidth 64 ∧ t.hart.xepc = s.hart.pc ∧
       t.hart.pc = s.hart.xvec ∧ t.hart.inX = true ∧ t.hart.regs = s.hart.regs ∧ t.mem = s.mem) ∧
     (∃ t, exec (.brk n) s = .next t ∧ t.hart.xcause = 0x015 ∧ t.hart.xtval = n.setWidth 64 ∧ t.hart.xepc = s.hart.pc ∧
       t.hart.pc = s.hart.xvec ∧ t.hart.inX = true ∧ t.hart.regs = s.hart.regs ∧ t.mem = s.mem)) ∧
  (∀ s n i, i ∈ [Instr.trap n, .brk n] → s.hart.xt = true → ∃ t, exec i s = .next t ∧ t.hart.st = .halted ∧
     t.hart.xepc = s.hart.xepc ∧ t.hart.xcause = s.hart.xcause ∧ t.hart.xtval = s.hart.xtval ∧ t.mem = s.mem) ∧
  (∀ s,
     (s.hart.inX = true → s.hart.isCtl = false → ∃ h : Hart,
       exec .eret s = .next { s with hart := h } ∧ h.pc = s.hart.xepc ∧ h.inX = s.hart.xstatus.getLsbD 1 ∧ h.xt = false ∧
       h.xstatus.getLsbD 1 = s.hart.xstatus.getLsbD 1 ∧ h.retired = s.hart.retired + 1 ∧
       h.vcommit = 1 ∧
       { h with pc := s.hart.pc, xstatus := s.hart.xstatus, retired := s.hart.retired, vcommit := s.hart.vcommit } = s.hart) ∧
     (s.hart.inX = false → exec .eret s = .next (s.trapOf .eret .priv)))

/-- VSETL and VSETLI (01 R33, 05 R200): a supported request sets VCFG, VLMAX and VL, an unsupported one sets ILL with VL and
VLMAX 0; s_d takes VL, and nothing traps. SETMODE and SETMODEV (01 R34, R35; 05 R201): s_d takes the old MODE; a change of PROT
clears the configuration, setting PROT copies the lower half of every vector register into its upper half, and PROTREQ keeps
PROT set. -/
def Obligations.ConfigurationAndMode : Prop :=
  (∀ (s : State) d (g e f : BitVec 3) (avl : Nat) i, s.hart.isCtl = false →
     ((∃ a, i = Instr.vsetl d a g e f ∧ avl = (s.hart.readS a).toNat) ∨
       (∃ v, i = Instr.vsetli d v g e f ∧ avl = v.toNat)) →
     (configOk g.toNat e.toNat f.toNat = true →
       ∃ m l : BitVec 15, m.toNat = 8192 * 2 ^ g.toNat / 8 / ewBits f.toNat / (if s.hart.prot then 2 else 1) ∧
         l.toNat = min avl m.toNat ∧
         exec i s = .next (State.past (State.setS { s with hart := { s.hart with
           vcfg := BitVec.ofNat 64 (f.toNat + e.toNat * 2 ^ 3 + g.toNat * 2 ^ 6), vlmax := m, vl := l } } d (l.setWidth 64)))) ∧
     (configOk g.toNat e.toNat f.toNat = false →
       exec i s = .next (State.past (State.setS { s with hart := { s.hart with
         vcfg := 0x8000000000000000, vlmax := 0, vl := 0 } } d 0)))) ∧
  (∀ (s : State) d (v : Word) i, s.hart.isCtl = false →
     ((∃ l m, i = Instr.setmode d l m ∧ v.toNat = l.toNat * 2 ^ 16 + m.toNat) ∨ (∃ a, i = Instr.setmodev d a ∧ v = s.hart.readS a)) →
     (v.getLsbD 12 = s.hart.prot →
       exec i s = .next (State.past (State.setS { s with hart := { s.hart with mode := v &&& 0xF7FFF } } d s.hart.mode))) ∧
     (v.getLsbD 12 = true → s.hart.prot = false →
       ∃ vr, exec i s = .next (State.past (State.setS { s with hart := { s.hart with
           mode := v &&& 0xF7FFF, vcfg := 0x8000000000000000, vlmax := 0, vl := 0, vregs := vr } } d s.hart.mode)) ∧
         ∀ n < 32, ∀ k < 8192, (vr.getD n 0).getLsbD k = (s.hart.readV n).getLsbD (k % 4096)) ∧
     (v.getLsbD 12 = false → s.hart.prot = true → s.hart.ctxcfg.getLsbD 0 = false →
       exec i s = .next (State.past (State.setS { s with hart := { s.hart with
         mode := v &&& 0xF7FFF, vcfg := 0x8000000000000000, vlmax := 0, vl := 0 } } d s.hart.mode))) ∧
     (v.getLsbD 12 = false → s.hart.prot = true → s.hart.ctxcfg.getLsbD 0 = true →
       exec i s = .next (State.past (State.setS { s with hart := { s.hart with
         mode := v &&& 0xF7FFF ||| 0x1000 } } d s.hart.mode))))

/-- A word of the vector queue on a control hart traps ILLEGAL (14 R394): of majors 0x10 to 0x37 and 0x39. A vector or matrix
word of majors 0x10 to 0x19, 0x20 to 0x25 and 0x28 to 0x2A traps VCFG_ILL while ILL is set, whatever its other fields hold (04
R161); with no active element, an element-wise word of 0x10 to 0x15 only clears VSTART and MSTART (01 R30, 04 R160). An
instruction that holds a reserved code traps ILLEGAL and changes nothing else, on a compute hart whose VCFG is set and where an
element is active (04 R160, R162). A fetched word that is no instruction (04 R158 to R162): it traps ILLEGAL, but a word of a
lane-governed class traps VCFG_ILL first, and does nothing but restart VSTART and MSTART without an active lane. A fetch that
faults traps PAGE_LOAD or ACCESS with FETCH set (01 R54). -/
def Obligations.WordsThatDoNotRun : Prop :=
  (∀ (s : State) i w, encode i = some w → s.hart.isCtl = true →
     (0x10 ≤ w.toNat / 2 ^ 26 ∧ w.toNat / 2 ^ 26 ≤ 0x37 ∨ w.toNat / 2 ^ 26 = 0x39) →
     exec i s = .next (s.takeTrap (wordInfo true w) .illegal)) ∧
  (∀ (s : State) i w, encode i = some w → s.hart.isCtl = false →
     (s.hart.ill = true → (0x10 ≤ w.toNat / 2 ^ 26 ∧ w.toNat / 2 ^ 26 ≤ 0x19 ∨ 0x20 ≤ w.toNat / 2 ^ 26 ∧ w.toNat / 2 ^ 26 ≤ 0x25 ∨
         0x28 ≤ w.toNat / 2 ^ 26 ∧ w.toNat / 2 ^ 26 ≤ 0x2A) →
       exec i s = .next (s.takeTrap (wordInfo false w) .vcfgIll)) ∧
     (s.hart.ill = false → s.hart.anyActive = false → (0x10 ≤ w.toNat / 2 ^ 26 ∧ w.toNat / 2 ^ 26 ≤ 0x15) →
       exec i s = .next (State.past { s with hart := { s.hart with vstart := 0, mstart := 0 } }))) ∧
  (∀ (s : State) (i : Instr), i.wf = false → s.hart.isCtl = false → s.hart.ill = false → s.hart.anyActive = true →
     exec i s = .next (s.trapOf i .illegal)) ∧
  ((∀ (s : State) (w : IWord), s.hart.isCtl = false → isWiden w.toNat = false →
     let lane := (0x10 ≤ majorOf w ∧ majorOf w ≤ 0x19) ∨ (0x20 ≤ majorOf w ∧ majorOf w ≤ 0x25) ∨
       (0x28 ≤ majorOf w ∧ majorOf w ≤ 0x2A) ∨ (majorOf w = 0x31 ∧ bitsOf w.toNat 5 6 = 1)
     (lane → s.hart.ill = true → exec (.wordNotAnInstruction w) s = .next (s.takeTrap (wordInfo false w) .vcfgIll)) ∧
     (lane → s.hart.ill = false → strayLanes w.toNat s.hart = false →
       exec (.wordNotAnInstruction w) s = .next (State.past { s with hart := s.hart.restart })) ∧
     (lane → s.hart.ill = false → strayLanes w.toNat s.hart = true →
       exec (.wordNotAnInstruction w) s = .next (s.takeTrap (wordInfo false w) .illegal)) ∧
     (¬ lane → ¬ (majorOf w = 0x35 ∧ bitsOf w.toNat 5 6 < 2) → ¬ (majorOf w = 0x39 ∧ bitsOf w.toNat 19 2 = 0) →
       majorOf w ≠ 0x38 → exec (.wordNotAnInstruction w) s = .next (s.takeTrap (wordInfo false w) .illegal))) ∧
   (∀ (s : State) (w : IWord), s.hart.isCtl = true → majorOf w ≠ 0x38 →
     exec (.wordNotAnInstruction w) s = .next (s.takeTrap (wordInfo true w) .illegal)) ∧
   (∀ (s : State) va,
     exec (.instructionFetchFault true va) s = .next (s.takeTrap ⟨0, true, false, false, false⟩ (.access va)) ∧
     exec (.instructionFetchFault false va) s = .next (s.takeTrap ⟨0, true, false, false, false⟩ (.page false va))))

/-- The integer operations of majors 0x10 and 0x11 (06 R211, 02 R64): arithmetic modulo 2^EW, signed or unsigned. The bitwise
operations and VSEL are untyped and leave the tag RAW (06 R211, R213); the shifts take the low 8 bits of an untyped amount, also
at EW1 = 4 where a scalar or an immediate gives it (02 R65); the saturating operations raise SAT where they clamp (02 R63). -/
def Obligations.VectorIntegerOperations : Prop :=
  (ElementwiseOf Instr.vadd (intOp fun _ a b _ => a + b) ∧
   ElementwiseOf Instr.vsub (intOp fun _ a b _ => a - b) ∧
   ElementwiseOf Instr.vrsub (intOp fun _ a b _ => b - a) ∧
   ElementwiseOf Instr.vmul (intOp fun _ a b _ => a * b) ∧
   ElementwiseOf Instr.vmulh (intOp fun w a b _ => toS w a * toS w b / 2 ^ w) ∧
   ElementwiseOf Instr.vmulhu (intOp fun w a b _ => a * b / 2 ^ w) ∧
   ElementwiseOf Instr.vmadd { intOp (fun _ a b d => a * b + d) with addend := true } ∧
   ElementwiseOf Instr.vdiv (intOp fun w a b _ =>
     if b = 0 then (if toS w a < 0 then 1 else -1) else (toS w a).tdiv (toS w b)) ∧
   ElementwiseOf Instr.vdivu (intOp fun _ a b _ => if b = 0 then -1 else a / b) ∧
   ElementwiseOf Instr.vrem (intOp fun w a b _ => if b = 0 then a else (toS w a).tmod (toS w b)) ∧
   ElementwiseOf Instr.vmin (intOp fun w a b _ => min (toS w a) (toS w b)) ∧
   ElementwiseOf Instr.vmax (intOp fun w a b _ => max (toS w a) (toS w b)) ∧
   ElementwiseOf Instr.vminu (intOp fun _ a b _ => min (a : Int) b) ∧
   ElementwiseOf Instr.vmaxu (intOp fun _ a b _ => max (a : Int) b) ∧
   ElementwiseOne Instr.vabs (intOp fun w a _ _ => (toS w a).natAbs) ∧
   ElementwiseOne Instr.vclz (intOp fun w a _ _ => clzN w a) ∧
   ElementwiseOne Instr.vpopc (intOp fun w a _ _ => ((List.range w).filter fun i => a.testBit i).length)) ∧
  (ElementwiseOf Instr.vand ⟨.raw, .raw, fun _ _ => 0, false, false, fun _ _ _ a b _ => (a &&& b, {})⟩ ∧
   ElementwiseOf Instr.vor ⟨.raw, .raw, fun _ _ => 0, false, false, fun _ _ _ a b _ => (a ||| b, {})⟩ ∧
   ElementwiseOf Instr.vxor ⟨.raw, .raw, fun _ _ => 0, false, false, fun _ _ _ a b _ => (a ^^^ b, {})⟩ ∧
   (∀ p, ElementwiseOf (fun d a b sh => .vsel d a b sh p)
     ⟨.raw, .raw, fun _ _ => 0, false, false, fun h _ i a b _ => (if (h.readP p).getLsbD i then a else b, {})⟩) ∧
   ElementwiseOf Instr.vshl ⟨.int, .amount, fun _ w => intTag w, false, false, fun _ _ _ a b _ => (a * 2 ^ (b % 2 ^ 8), {})⟩ ∧
   ElementwiseOf Instr.vshr ⟨.int, .amount, fun _ w => intTag w, false, false, fun _ _ _ a b _ => (a / 2 ^ (b % 2 ^ 8), {})⟩ ∧
   ElementwiseOf Instr.vsar ⟨.int, .amount, fun _ w => intTag w, false, false,
     fun _ w _ a b _ => (ofS w (toS w a / 2 ^ (b % 2 ^ 8)), {})⟩ ∧
   (∀ (signed : Bool) mk (f : Int → Int → Int),
     (mk, signed, f) ∈ [(Instr.vsadd, true, (· + ·)), (Instr.vsaddu, false, (· + ·)), (Instr.vssub, true, (· - ·)),
       (Instr.vssubu, false, (· - ·))] →
     ElementwiseOf mk ⟨.int, .int, fun _ w => intTag w, false, false, fun _ w _ a b _ =>
       let v := if signed then f (toS w a) (toS w b) else f a b
       let lo : Int := if signed then -2 ^ (w - 1) else 0
       let hi : Int := if signed then 2 ^ (w - 1) - 1 else 2 ^ w - 1
       (ofS w (max lo (min hi v)), { sat := decide (v < lo ∨ hi < v) })⟩))

/-- The floating operations of major 0x13 (06 R218 to R220): one rounding of each element by MODE, minimum and maximum by 02
R75, signs moved bit by bit. The four approximations answer their own function of the element (log 7), which on the special operands
is as the table of R221 says. -/
def Obligations.VectorFloat : Prop :=
  ElementwiseOf Instr.vfadd (floatOp fun r a b _ => FVal.add r a b) ∧
  ElementwiseOf Instr.vfsub (floatOp fun r a b _ => FVal.add r a b.negate) ∧
  ElementwiseOf Instr.vfmul (floatOp fun _ a b _ => FVal.mul a b) ∧
  ElementwiseOf Instr.vfma { floatOp (fun r a b d => FVal.fma r a b d) with addend := true } ∧
  ElementwiseOf Instr.vfnma { floatOp (fun r a b d => FVal.fma r a.negate b d) with addend := true } ∧
  ElementwiseOf Instr.vfms { floatOp (fun r a b d => FVal.fma r a b d.negate) with addend := true } ∧
  ElementwiseOf Instr.vfdiv (floatOp fun _ a b _ => FVal.div a b) ∧
  ElementwiseOne Instr.vfsqrt (floatOp fun _ a _ _ => a.sqrt) ∧
  ElementwiseOf Instr.vfmin ⟨.fp, .fp, fun h w => h.fpTag w, false, false, fun h w _ a b _ => (h.fmt w).minmax h.ftz false a b⟩ ∧
  ElementwiseOf Instr.vfmax ⟨.fp, .fp, fun h w => h.fpTag w, false, false, fun h w _ a b _ => (h.fmt w).minmax h.ftz true a b⟩ ∧
  (∀ k : BitVec 3, k.toNat < 3 → ElementwiseOf (fun d a b sh => .vfsgn d a b sh k)
    ⟨.fp, .fp, fun h w => h.fpTag w, false, false, fun _ w _ a b _ =>
      (a % 2 ^ (w - 1) + (if k = 0 then b / 2 ^ (w - 1) else if k = 1 then 1 - b / 2 ^ (w - 1)
        else (a / 2 ^ (w - 1) + b / 2 ^ (w - 1)) % 2) * 2 ^ (w - 1), {})⟩) ∧
  ElementwiseOne Instr.vfclass ⟨.fp, .raw, fun _ w => intTag w, false, false, fun h w _ a _ _ =>
    (if 16 ≤ w then 2 ^ (h.fmt w).cls h.ftz a else (h.fmt w).cls h.ftz a, {})⟩ ∧
  (∀ mk x, (mk, x) ∈ [(Instr.vfrcp, Approx.rcp), (Instr.vfrsq, Approx.rsq), (Instr.vfexp2, Approx.exp2),
      (Instr.vflog2, Approx.log2)] →
    ElementwiseOne mk ⟨.fp, .raw, fun h w => h.fpTag w, false, true, fun h w _ a _ _ => x.apply (h.fmt w) h.ftz a⟩) ∧
  (∀ (f : FFmt) (ftz : Bool),
     let one := f.bias * 2 ^ f.frac
     let top := 2 ^ (f.bits - 1)
     Approx.rcp.apply f ftz one = (one, {}) ∧ Approx.rsq.apply f ftz one = (one, {}) ∧
     Approx.exp2.apply f ftz one = (one + 2 ^ f.frac, {}) ∧ Approx.log2.apply f ftz one = (0, {}) ∧
     Approx.exp2.apply f ftz 0 = (one, {}) ∧ Approx.exp2.apply f ftz top = (one, {}) ∧
     (f.hasInf = true →
       let inf := f.largest + 1
       (∀ x ∈ [Approx.rcp, .rsq], x.apply f ftz 0 = (inf, { dz := true }) ∧ x.apply f ftz top = (top + inf, { dz := true }) ∧
         x.apply f ftz inf = (0, {})) ∧
       Approx.log2.apply f ftz 0 = (top + inf, { dz := true }) ∧ Approx.log2.apply f ftz top = (top + inf, { dz := true }) ∧
       Approx.exp2.apply f ftz inf = (inf, {}) ∧ Approx.log2.apply f ftz inf = (inf, {}) ∧
       Approx.rcp.apply f ftz (top + inf) = (top, {}) ∧ Approx.exp2.apply f ftz (top + inf) = (0, {}) ∧
       (∀ x ∈ [Approx.rsq, .log2], ∀ w, top + 2 ^ f.frac ≤ w → w ≤ top + inf → x.apply f ftz w = (f.nan, { nv := true })) ∧
       (∀ (x : Approx) w, inf < w → w < top → x.apply f ftz w = (f.nan, { nv := decide (w % 2 ^ f.frac < 2 ^ (f.frac - 1)) }))) ∧
     (f = .e4m3 → Approx.rcp.apply f ftz 0 = (f.nan, { dz := true, of := true, nx := true }) ∧
       ∀ x : Approx, x.apply f ftz 0x7F = (f.nan, {})) ∧
     (f = .e2m1 → Approx.rcp.apply f ftz 0 = (f.largest, { dz := true, of := true, nx := true, sat := true }) ∧
       ∀ w, 9 ≤ w → w < 16 → Approx.rsq.apply f false w = (0, { nv := true }))) ∧
  Approx.rcp.apply .fp32 false 1 = (0x7F800000, { of := true, nx := true })

/-- An element-wise instruction whose destination is a write stream (07 R247, R249, R250), shown on VMV: the active elements are
stored in ascending order, each at its own address, BASE plus its coordinates times the strides, little-endian and of the
stream's width; the stream moves on by VL, its fault bit stays, and no vector register and no tag changes. Where the elements lie
in plain memory each byte there is that of the last element stored over it, and every other byte stays. SBIND binds an unbound
register to a legal descriptor at a 16-byte boundary and traps STREAM for a bound one; SUNBIND leaves the register zero and RAW;
SPOS reads position and fault bit (07 R247, R248). -/
def Obligations.Streams : Prop :=
  (∀ (s : State) d b sh r t, s.Lanes → s.hart.groupOk d s.hart.ew1 = true → s.hart.srcOk sh b s.hart.ew1 = true →
     Delivered s (s.hart.src sh b s.hart.ew1 .raw).opnds [s.hart.opnd d s.hart.ew1 []] s →
     s.hart.writeStream? (s.hart.opnd d s.hart.ew1 []) = some r →
     ∀ (x : Stream) base w dims (f : Nat → State), x = s.hart.stream r → x.bind = .affine base w dims →
     let is := s.hart.activeList
     let len := 2 ^ x.ewc
     let at_ := fun i => base + BitVec.ofInt 64 (affineOffset dims (x.pos + i))
     let val := fun i => s.hart.srcElem (s.hart.src sh b s.hart.ew1 .raw) i
     (∀ i ∈ is, ∃ ps, s.check s.hart.env s.hart.num .store (at_ i) len = .ok ps) →
     f 0 = s.renew (s.storeCover len (is.map at_)) →
     (∀ (j : Nat) (hj : j < is.length), (f j).storeN (at_ is[j]) len (val is[j] % 2 ^ s.hart.ew1) = .ok 0 (f (j + 1))) →
     (f is.length).hart = s.hart → t = f is.length →
     exec (.vmv d b sh) s = .next (State.past { t with hart := (s.hart.setStream r { x with pos := x.pos + s.hart.vl.toNat }).restart }) ∧
     ({ s.hart.setStream r { x with pos := x.pos + s.hart.vl.toNat } with streams := s.hart.streams } = s.hart) ∧
     (Memory.wf s.mem = true → ∀ key : Nat → Nat,
       (∀ (j : Nat) (hj : j < is.length), ∃ h p, (f j).check s.hart.env s.hart.num .store (at_ is[j]) len =
         .ok [⟨at_ is[j], len, .mem (key j) h p⟩] ∧ (f j).fenced (key j) = false) →
       (∀ a, (∀ j < is.length, a < key j ∨ key j + len ≤ a) → Memory.read t.mem a = Memory.read s.mem a) ∧
       ∀ (j : Nat) (hj : j < is.length), (∀ k, j < k → k < is.length → key k + len ≤ key j ∨ key j + len ≤ key k) →
         Memory.readLE t.mem (key j) len = val is[j] % 2 ^ s.hart.ew1)) ∧
  ((∀ (s t : State) (d : BitVec 2) a w dims, s.hart.isCtl = false → s.hart.bound d.toNat = false →
     (s.hart.readS a).toNat % 16 = 0 → s.loadN (s.hart.readS a) 80 = .ok w t →
     fmtOk (bitsOf w 64 8) = true → bitsOf w 72 8 < 4 → bitsOf w 80 8 < 2 → 1 ≤ bitsOf w 88 8 → bitsOf w 88 8 ≤ 4 →
     bitsOf w 96 32 = 0 → descDims w (bitsOf w 88 8) = some dims →
     ∀ x : Stream, x = ⟨.affine (BitVec.ofNat 64 (bitsOf w 0 64)) (bitsOf w 80 8 == 1) dims, s.hart.readS a,
       BitVec.ofNat 5 (bitsOf w 64 8), bitsOf w 72 8, 0, false, 0, 0⟩ →
     exec (.sbind d a) s = .next (State.past { t with hart := t.hart.setStream d.toNat x })) ∧
   (∀ (s : State) (d : BitVec 2) a, s.hart.isCtl = false → s.hart.bound d.toNat = true →
     exec (.sbind d a) s = .next (s.trapOf (.sbind d a) (.stream (28 + d.toNat)))) ∧
   (∀ (s : State) (d : BitVec 2), s.hart.isCtl = false → s.hart.bound d.toNat = true →
     ∃ k : Hart, exec (.sunbind d) s = .next (State.past { s with hart := k }) ∧ k.readV (28 + d.toNat) = 0 ∧
       k.tag (28 + d.toNat) = 0 ∧ k.bound d.toNat = false ∧
       (∀ n < 32, n ≠ 28 + d.toNat → k.readV n = s.hart.readV n ∧ k.tag n = s.hart.tag n) ∧
       { k with vregs := s.hart.vregs, tags := s.hart.tags, streams := s.hart.streams } = s.hart) ∧
   (∀ (s : State) (d : BitVec 2), s.hart.isCtl = false → s.hart.bound d.toNat = false →
     exec (.sunbind d) s = .next s.past) ∧
   (∀ (s : State) d (a : BitVec 2), s.hart.isCtl = false →
     exec (.spos d a) s = .next (s.setS d (if s.hart.bound a.toNat then
       BitVec.ofNat 64 ((s.hart.stream a.toNat).pos % 2 ^ 63 + (s.hart.stream a.toNat).fault.toNat * 2 ^ 63) else 0)).past))

/-- VMV, VID, VEXT and VINS (06 R214, R215): VEXT takes element idx of the group of va, and traps ILLEGAL where the group is not legal
or va no multiple of it (01 R25; 06 R206); VINS leaves every other element and every tag.
The fill of VEXT by the format tag of va (06 R215): FP32 in ones, integers and RAW
sign-extended, other formats in zeros. -/
def Obligations.VectorMoves : Prop :=
  ((∀ (s : State) d b sh v, s.Lanes → s.hart.groupOk d s.hart.ew1 = true → s.hart.srcOk sh b s.hart.ew1 = true →
     Delivered s (s.hart.src sh b s.hart.ew1 .raw).opnds [s.hart.opnd d s.hart.ew1 []] v →
     v.hart.writeStream? (s.hart.opnd d s.hart.ew1 []) = none →
     ∃ t, exec (.vmv d b sh) s = .next t ∧
       VecWritten v t (s.hart.opnd d s.hart.ew1 []) 0 (v.hart.srcElem (s.hart.src sh b s.hart.ew1 .raw)) {}) ∧
   (∀ (s : State) d v, s.Lanes → s.hart.groupOk d s.hart.ew1 = true → Delivered s [] [s.hart.opnd d s.hart.ew1 []] v →
     v.hart.writeStream? (s.hart.opnd d s.hart.ew1 []) = none →
     ∃ t, exec (.vid d) s = .next t ∧
       VecWritten v t (s.hart.opnd d s.hart.ew1 []) (intTag s.hart.ew1) (fun i => i) {}) ∧
   (∀ (s : State) d a b (sh : BitVec 2) n v, s.hart.isCtl = false → s.hart.ill = false →
     (sh = 1 ∧ n = (s.hart.readS b).toNat ∨ sh = 2 ∧ n = b.toNat) → s.hart.active n = true →
     (s.hart.groupOk a s.hart.ew1 = true → Delivered s [s.hart.opnd a s.hart.ew1 []] [] v →
       exec (.vext d a b sh) s = .next (v.scalarOut d
         (extFill (v.hart.tag a.toNat) s.hart.ew1 (v.hart.elems (s.hart.opnd a s.hart.ew1 []) n)))) ∧
     (s.hart.groupOk a s.hart.ew1 = false → exec (.vext d a b sh) s = .next (s.trapOf (.vext d a b sh) .illegal))) ∧
   (∀ (s : State) d a b (sh : BitVec 2) n v, s.hart.isCtl = false → s.hart.ill = false →
     (sh = 1 ∧ n = (s.hart.readS b).toNat ∨ sh = 2 ∧ n = b.toNat) → s.hart.active n = true →
     n < s.hart.places (s.hart.opnd d s.hart.ew1 []) →
     s.hart.groupOk d s.hart.ew1 = true → Delivered s [] [s.hart.opnd d s.hart.ew1 []] v →
     v.hart.writeStream? (s.hart.opnd d s.hart.ew1 []) = none →
     ∃ t, ∃ k : Hart, exec (.vins d a b sh) s = .next t ∧ t = { v with hart := k } ∧
       GroupChanged v.hart k (s.hart.opnd d s.hart.ew1 []) {} ∧ k.tags = v.hart.tags ∧
       ∀ i < s.hart.places (s.hart.opnd d s.hart.ew1 []), k.elems (s.hart.opnd d s.hart.ew1 []) i =
         if i = n then (s.hart.readS a).toNat % 2 ^ s.hart.ew1 else v.hart.elems (s.hart.opnd d s.hart.ew1 []) i)) ∧
  (∀ (t : BitVec 6) (w v : Nat), w ∈ [4, 8, 16, 32, 64] → v < 2 ^ w →
     (t = 9 → w = 32 → (extFill t w v).toNat = v + 0xFFFFFFFF00000000) ∧
     (t ∈ [(0 : BitVec 6), 1, 2, 3, 4, 5] → (extFill t w v).toInt = if v < 2 ^ (w - 1) then (v : Int) else v - 2 ^ w) ∧
     (t ∈ [(8 : BitVec 6), 10, 11, 12, 13, 14, 15, 16, 17] → (extFill t w v).toNat = v))

/-- VCMP and VFCMP (06 R212, R224): a NaN fails every comparison but UNORDERED, and raises NV where it is signalling or the
comparison is one of order. VWIDEN, VMULM and VFMAM: sources at EW1 or EW2, exact or rounded once into the destination's width
(06 R216, R225, R226). VNSHR (06 R217): x / 2^n, with n the low 8 bits of the amount, rounded once to an integer by MODE.RM; with
MODE.SAT it is clamped to the range of EW1 and raises SAT where that changes it, and without it wraps modulo 2^EW1. VFCVT (06
R222; 02 R78): float to float is one rounding, in the saturating column while MODE.SAT is set (of finite values, R76), with NV for a
signalling NaN; float
to integer rounds by MODE.RM, clamps with NV, gives 0 with NV for a NaN and raises NX where it is inexact; integer to float is
one rounding. -/
def Obligations.ComparisonsAndMixedWidths : Prop :=
  ((∀ c : BitVec 3, ComparesInto (fun d a b sh => .vcmp d a b sh c) .int (fun _ w x y =>
     ((if c = 0 then decide (x = y) else if c = 1 then decide (x ≠ y)
       else if c = 2 then decide (toS w x < toS w y) else if c = 3 then decide (toS w x ≤ toS w y)
       else if c = 4 then decide (x < y) else if c = 5 then decide (x ≤ y)
       else if c = 6 then decide (toS w y < toS w x) else decide (y < x)), {}))) ∧
   (∀ c : BitVec 3, ComparesInto (fun d a b sh => .vfcmp d a b sh c) .fp (fun h w x y =>
     let p := (h.fmt w).unpack h.ftz x
     let q := (h.fmt w).unpack h.ftz y
     let nan := p.isNan || q.isNan
     let ordered := decide (2 ≤ c.toNat ∧ c.toNat ≤ 5)
     ((if c = 0 then !nan && p.cmp q == 0 else if c = 1 then !nan && p.cmp q != 0
       else if c = 2 then !nan && decide (p.cmp q < 0) else if c = 3 then !nan && decide (p.cmp q ≤ 0)
       else if c = 4 then !nan && decide (p.cmp q > 0) else if c = 5 then !nan && decide (p.cmp q ≥ 0)
       else if c = 6 then nan else !nan),
       { nv := nan && (ordered || p.isSig || q.isSig) })))) ∧
  ((∀ (s : State) d b (k : BitVec 3) v, s.Lanes → k.toNat < 3 → s.hart.ew2 < s.hart.ew1 → s.hart.groupOk d s.hart.ew1 = true →
     s.hart.groupOk b s.hart.ew2 = true →
     let ob := s.hart.opnd b s.hart.ew2 (if k = 2 then [s.hart.fpTag s.hart.ew2] else [intTag s.hart.ew2])
     let od := s.hart.opnd d s.hart.ew1 []
     Delivered s [ob] [od] v → v.hart.Tagged [ob] → v.hart.writeStream? od = none →
     ∃ t, exec (.vwiden d b k) s = .next t ∧
       VecWritten v t od (if k = 2 then s.hart.fpTag s.hart.ew1 else intTag s.hart.ew1)
         (fun i => if k = 0 then ofS s.hart.ew1 (toS s.hart.ew2 (v.hart.elems ob i)) else if k = 1 then v.hart.elems ob i
           else (v.hart.fmt s.hart.ew1).exact ((v.hart.fmt s.hart.ew2).unpack v.hart.ftz (v.hart.elems ob i)))
         { nv := k == 2 && v.hart.activeList.any fun i =>
             ((v.hart.fmt s.hart.ew2).unpack v.hart.ftz (v.hart.elems ob i)).isSig }) ∧
   (∀ (s : State) d a b sh (k : BitVec 3) v, s.Lanes → s.hart.rounds? true → k.toNat < 2 → s.hart.ew1 < s.hart.ew2 →
     s.hart.groupOk d s.hart.ew1 = true → s.hart.groupOk a s.hart.ew2 = true → s.hart.srcOk sh b s.hart.ew2 = true →
     let oa := s.hart.opnd a s.hart.ew2 [intTag s.hart.ew2]
     let x := s.hart.src sh b s.hart.ew2 .raw
     let od := s.hart.opnd d s.hart.ew1 []
     Delivered s (oa :: x.opnds) [od] v → v.hart.Tagged (oa :: x.opnds) → v.hart.writeStream? od = none →
     let value := fun i => if k = 0 then toS s.hart.ew2 (v.hart.elems oa i) else (v.hart.elems oa i : Int)
     let lo := lowEnd (k == 0) s.hart.ew1
     let hi := highEnd (k == 0) s.hart.ew1
     ∃ q : Nat → Int, (∀ i, Rounded v.hart.rm (value i) (v.hart.srcElem x i % 256) (q i)) ∧
     ∃ t, exec (.vnshr d a b sh k) s = .next t ∧
       VecWritten v t od (intTag s.hart.ew1)
         (fun i => ofS s.hart.ew1 (if v.hart.sat then max lo (min hi (q i)) else q i))
         { sat := v.hart.sat && v.hart.activeList.any fun i => decide (q i < lo ∨ hi < q i) }) ∧
   (∀ (s : State) d a (k : BitVec 3) v, s.Lanes → s.hart.rounds? true → k.toNat < 5 →
     s.hart.groupOk d s.hart.ew1 = true → s.hart.groupOk a s.hart.ew2 = true →
     let oa := s.hart.opnd a s.hart.ew2 (if k.toNat < 3 then [s.hart.fpTag s.hart.ew2] else [intTag s.hart.ew2])
     let od := s.hart.opnd d s.hart.ew1 []
     Delivered s [oa] [od] v → v.hart.Tagged [oa] → v.hart.writeStream? od = none →
     let float := fun i => (v.hart.fmt s.hart.ew2).unpack v.hart.ftz (v.hart.elems oa i)
     let whole := fun i => if k = 3 then toS s.hart.ew2 (v.hart.elems oa i) else (v.hart.elems oa i : Int)
     let rounded := fun i => if k = 0 then (v.hart.fmt s.hart.ew1).round ⟨v.hart.rm, v.hart.ftz, v.hart.sat⟩ (float i)
       else (v.hart.fmt s.hart.ew1).round ⟨v.hart.rm, v.hart.ftz, false⟩ (.fin (decide (whole i < 0)) (whole i).natAbs 0)
     ∃ c : Nat → Int × Flags,
       (k = 1 ∨ k = 2 → ∀ i, ConvertedToInt v.hart.rm (k == 1) s.hart.ew1 (float i) (c i).1 (c i).2) ∧
     ∃ t, exec (.vfcvt d a k) s = .next t ∧
       (k = 1 ∨ k = 2 → VecWritten v t od (intTag s.hart.ew1) (fun i => ofS s.hart.ew1 (c i).1)
         (joinFlags (v.hart.activeList.map fun i => (c i).2))) ∧
       (k ≠ 1 → k ≠ 2 → VecWritten v t od (s.hart.fpTag s.hart.ew1) (fun i => (rounded i).1)
         (joinFlags (v.hart.activeList.map fun i =>
           ({ nv := k == 0 && (float i).isSig } : Flags).or (rounded i).2)))) ∧
   (∀ (s : State) d a b sh (k : BitVec 3) v, s.Lanes → k.toNat < 3 →
     let w := 2 * max s.hart.ew1 s.hart.ew2
     w ≤ 64 → s.hart.groupOk d w = true → s.hart.groupOk a s.hart.ew1 = true → s.hart.srcOk sh b s.hart.ew2 = true →
     let oa := s.hart.opnd a s.hart.ew1 [intTag s.hart.ew1]
     let x := s.hart.src sh b s.hart.ew2 .int
     let od := s.hart.opnd d w []
     Delivered s (oa :: x.opnds) [od] v → v.hart.Tagged (oa :: x.opnds) → v.hart.writeStream? od = none →
     ∃ t, exec (.vmulm d a b sh k) s = .next t ∧
       VecWritten v t od (intTag w)
         (fun i => ofS w ((if k = 1 then (v.hart.elems oa i : Int) else toS s.hart.ew1 (v.hart.elems oa i)) *
           (if k = 0 then toS s.hart.ew2 (v.hart.srcElem x i) else (v.hart.srcElem x i : Int)))) {}) ∧
   (∀ (s : State) d a b sh v, s.Lanes → s.hart.rounds? true → max s.hart.ew1 s.hart.ew2 ≤ 32 →
     let w := if max s.hart.ew1 s.hart.ew2 ≤ 16 then 32 else 64
     s.hart.groupOk d w = true → s.hart.groupOk a s.hart.ew1 = true → s.hart.srcOk sh b s.hart.ew2 = true →
     let oa := s.hart.opnd a s.hart.ew1 [s.hart.fpTag s.hart.ew1]
     let x := s.hart.src sh b s.hart.ew2 .fp
     let od := s.hart.opnd d w [s.hart.fpTag w]
     let op := fun i => (v.hart.fmt w).deliver v.hart false (FVal.fma v.hart.rm
       ((v.hart.fmt s.hart.ew1).unpack v.hart.ftz (v.hart.elems oa i))
       ((v.hart.fmt s.hart.ew2).unpack v.hart.ftz (v.hart.srcElem x i)) ((v.hart.fmt w).unpack v.hart.ftz (v.hart.elems od i)))
     Delivered s (oa :: x.opnds ++ [od]) [od] v → v.hart.Tagged (oa :: x.opnds ++ [od]) → v.hart.writeStream? od = none →
     ∃ t, exec (.vfmam d a b sh) s = .next t ∧
       VecWritten v t od (s.hart.fpTag w) (fun i => (op i).1) (allFlags (v.hart.activeList.map op))))

/-- The reductions (06 R227): integer sums wrap, minima and maxima compare signed or unsigned, floating sums follow the tree or
the sequence of 02 R91, and floating minima and maxima are by 02 R75. Each of the eleven completes on every compute hart whose VCFG is set,
with VL above 0 and VSTART 0 (06 R227), a legal group, accepted tags and no bound stream. -/
def Obligations.Reductions : Prop :=
  (∀ mk (f : Nat → Nat → Nat → Nat), (mk, f) ∈ [(Instr.vredsum, fun w x y => (x + y) % 2 ^ w),
      (Instr.vredmin, fun w x y => if toS w y < toS w x then y else x),
      (Instr.vredmax, fun w x y => if toS w x < toS w y then y else x),
      (Instr.vredminu, fun _ x y => min x y), (Instr.vredmaxu, fun _ x y => max x y),
      (Instr.vredand, fun _ x y => x &&& y), (Instr.vredor, fun _ x y => x ||| y), (Instr.vredxor, fun _ x y => x ^^^ y)] →
    ReducesBy mk .int false (fun _ w s xs => (xs.foldl (f w) s, {}))) ∧
  (∃ g : Hart → Nat → Nat → List Nat → Nat × Flags,
    (∀ h w s xs, xs.length ≤ 2 ^ 15 → SumsByR91 (h.fmt w) (h.fenv false) h.ordered s xs (g h w s xs).1 (g h w s xs).2) ∧
    ReducesBy Instr.vfredsum .fp true g) ∧
  (∀ mk most, (mk, most) ∈ [(Instr.vfredmin, false), (Instr.vfredmax, true)] →
    ReducesBy mk .fp false (fun h w s xs =>
      xs.foldl (fun r x => (((h.fmt w).minmax h.ftz most r.1 x).1, r.2.or ((h.fmt w).minmax h.ftz most r.1 x).2)) (s, {}))) ∧
  (∀ mk fp, (mk, fp) ∈ [(Instr.vredsum, false), (Instr.vredmin, false), (Instr.vredmax, false), (Instr.vredminu, false),
      (Instr.vredmaxu, false), (Instr.vredand, false), (Instr.vredor, false), (Instr.vredxor, false), (Instr.vfredsum, true),
      (Instr.vfredmin, true), (Instr.vfredmax, true)] →
    ∀ (s : State) d a b (sh : BitVec 1) tag, tag = (if fp then s.hart.fpTag s.hart.ew1 else intTag s.hart.ew1) →
      s.hart.isCtl = false → s.hart.ill = false → s.hart.Unbound → 0 < s.hart.vl.toNat → s.hart.vstart = 0 →
      s.hart.groupOk a s.hart.ew1 = true → (mk = Instr.vfredsum → s.hart.rm?.isSome = true) →
      s.hart.tag a.toNat ∈ [0, tag] → (sh = 0 → s.hart.tag b.toNat ∈ [0, tag]) →
      ∃ t, exec (mk d a b sh) s = .next t ∧ t.hart.pc = s.hart.pc + 4 ∧ t.hart.retired = s.hart.retired + 1)

/-- The slides and VPERM (06 R228, R229): an offset or index at or beyond the group gives 0, and VSLIDEUP keeps the elements
below its offset. VCOMPRESS packs the active elements to the front, VEXPAND spreads consecutive elements to the active places,
VSCAN gives the running sums of the active elements (06 R230, R231; 02 R93). VTOPK (06 R232, R233) on integer elements: vd takes
the largest active elements in descending order, equal ones by ascending index, and the group from v(d + 8) on their indices as 32-bit
integers; a shorter list ends in the most negative value and 0xFFFFFFFF, and what lies above is tail. vd takes the format of va, the
index group INT32, and no other register changes. Each of the seven completes on every
compute hart whose VCFG is set, with an active element, or for VCOMPRESS, VEXPAND, VSCAN and VTOPK VSTART 0 and an element below
VL in the guard predicate (06 R207), with legal groups, accepted tags and no bound stream. -/
def Obligations.CrossElementOperations : Prop :=
  ((∀ (s : State) d a b (sh : BitVec 2) i, s.hart.isCtl = false → s.hart.ill = false → s.hart.Unbound → s.hart.anyActive = true →
     s.hart.groupOk d s.hart.ew1 = true → s.hart.groupOk a s.hart.ew1 = true →
     (i ∈ [Instr.vslideup d a b sh, .vslidedn d a b sh] ∧ s.hart.srcOk sh b s.hart.ew1 = true ∨
       i = .vperm d a b ∧ s.hart.groupOk b s.hart.ew2 = true) →
     ∃ t, exec i s = .next t ∧ t.hart.pc = s.hart.pc + 4 ∧ t.hart.retired = s.hart.retired + 1) ∧
   (∀ (s : State) d a b k i, s.hart.isCtl = false → s.hart.ill = false → s.hart.Unbound → s.hart.anyGuarded = true →
     s.hart.vstart = 0 → s.hart.groupOk d s.hart.ew1 = true → s.hart.groupOk a s.hart.ew1 = true →
     (i = .vcompress d a ∨ i = .vexpand d a ∨
       i = .vscan d a 0 ∧ s.hart.tag a.toNat ∈ [0, intTag s.hart.ew1] ∨
       i = .vscan d a 1 ∧ s.hart.tag a.toNat ∈ [0, s.hart.fpTag s.hart.ew1] ∧ s.hart.rm?.isSome = true ∨
       i = .vtopk d a b k ∧ fmtOnly (s.hart.tag a.toNat) ∈ [0, intTag s.hart.ew1, s.hart.fpTag s.hart.ew1] ∧
         ∃ g, s.hart.group8 32 = some g ∧ d.toNat + 8 + max 1 (g / 8) ≤ 32 ∧ (g ≤ 8 ∨ (d.toNat + 8) % (g / 8) = 0)) →
     ∃ t, exec i s = .next t ∧ t.hart.pc = s.hart.pc + 4 ∧ t.hart.retired = s.hart.retired + 1)) ∧
  ((∀ (s : State) d a b (sh : BitVec 2), s.hart.srcOk sh b s.hart.ew1 = true →
     let others := if sh = 0 then [s.hart.opnd b s.hart.ew1 []] else []
     let off := fun (v : State) => if sh = 0 then v.hart.elems (s.hart.opnd b s.hart.ew1 []) 0
       else if sh = 1 then (v.hart.readS b).toNat else b.toNat
     MovesElements s (.vslideup d a b sh) d a others (fun v i =>
       if off v ≤ i then v.hart.elems (s.hart.opnd a s.hart.ew1 []) (i - off v)
       else v.hart.elems (s.hart.opnd d s.hart.ew1 []) i) ∧
     MovesElements s (.vslidedn d a b sh) d a others (fun v i =>
       if i + off v < v.hart.vlmax.toNat then v.hart.elems (s.hart.opnd a s.hart.ew1 []) (i + off v) else 0)) ∧
   (∀ (s : State) d a b, s.hart.groupOk b s.hart.ew2 = true →
     MovesElements s (.vperm d a b) d a [s.hart.opnd b s.hart.ew2 []] (fun v i =>
       if v.hart.elems (s.hart.opnd b s.hart.ew2 []) i < v.hart.vlmax.toNat then
         v.hart.elems (s.hart.opnd a s.hart.ew1 []) (v.hart.elems (s.hart.opnd b s.hart.ew2 []) i) else 0))) ∧
  ((∀ (s : State) d a v, s.Cross v d a [] →
     ∃ t, exec (.vcompress d a) s = .next t ∧
       CrossWritten v t (s.hart.opnd d s.hart.ew1 []) (fmtOnly (v.hart.tag a.toNat)) (fun i =>
         match v.hart.activeList[i]? with
         | some j => v.hart.elems (s.hart.opnd a s.hart.ew1 []) j
         | none => if v.hart.tailZero then 0 else v.hart.elems (s.hart.opnd d s.hart.ew1 []) i) {}) ∧
   (∀ (s : State) d a v, s.Cross v d a [] →
     ∃ t, exec (.vexpand d a) s = .next t ∧
       CrossWritten v t (s.hart.opnd d s.hart.ew1 []) (fmtOnly (v.hart.tag a.toNat)) (v.hart.looped (s.hart.opnd d s.hart.ew1 []) fun i =>
         v.hart.elems (s.hart.opnd a s.hart.ew1 []) ((v.hart.activeList.filter (· < i)).length)) {}) ∧
   (∀ (s : State) d a v, s.Cross v d a [intTag s.hart.ew1] →
     ∃ t, exec (.vscan d a 0) s = .next t ∧
       CrossWritten v t (s.hart.opnd d s.hart.ew1 []) (intTag s.hart.ew1) (v.hart.looped (s.hart.opnd d s.hart.ew1 []) fun i =>
         ((v.hart.activeList.filter (· ≤ i)).map (v.hart.elems (s.hart.opnd a s.hart.ew1 []))).sum) {}) ∧
   (∀ (s : State) d a v, s.hart.rounds? true → s.Cross v d a [s.hart.fpTag s.hart.ew1] →
     ∃ t fl, exec (.vscan d a 1) s = .next t ∧
       CrossWritten v t (s.hart.opnd d s.hart.ew1 []) (v.hart.fpTag s.hart.ew1) (v.hart.looped (s.hart.opnd d s.hart.ew1 []) fun i =>
         match (v.hart.activeList.filter (· ≤ i)).map (v.hart.elems (s.hart.opnd a s.hart.ew1 [])) with
         | [] => 0
         | x :: xs => xs.foldl (fun p y => ((v.hart.fmt s.hart.ew1).add (v.hart.fenv false) p y).1) x) fl)) ∧
  (∀ (s : State) d a b (k : BitVec 1) v g, s.hart.isCtl = false → s.hart.ill = false → s.hart.anyGuarded = true →
     s.hart.vstart = 0 → s.hart.groupOk d s.hart.ew1 = true → s.hart.groupOk a s.hart.ew1 = true →
     s.hart.group8 32 = some g → d.toNat + 8 + max 1 (g / 8) ≤ 32 → (g ≤ 8 ∨ (d.toNat + 8) % (g / 8) = 0) →
     let oa := s.hart.opnd a s.hart.ew1 []
     let od := s.hart.opnd d s.hart.ew1 []
     let oi : Opnd := ⟨d.toNat + 8, max 1 (g / 8), 32, []⟩
     Delivered s [oa] [od, oi] v → v.hart.writeStream? od = none → v.hart.writeStream? oi = none →
     fmtOnly (v.hart.tag a.toNat) ∈ [0, intTag s.hart.ew1] →
     let n := min (s.hart.readS b).toNat s.hart.vl.toNat
     ∃ t, ∃ c : List Nat, exec (.vtopk d a b k) s = .next t ∧
       c.length ≤ n ∧ (∀ i ∈ c, i ∈ v.hart.activeList ∧ (k = 1 → v.hart.elems oa i ≠ 0)) ∧ c.Nodup ∧
       c.Pairwise (fun i j => toS s.hart.ew1 (v.hart.elems oa j) < toS s.hart.ew1 (v.hart.elems oa i) ∨
         toS s.hart.ew1 (v.hart.elems oa j) = toS s.hart.ew1 (v.hart.elems oa i) ∧ i < j) ∧
       (∀ j ∈ v.hart.activeList, (k = 1 → v.hart.elems oa j ≠ 0) → j ∉ c →
         c.length = n ∧ ∀ i ∈ c, toS s.hart.ew1 (v.hart.elems oa j) ≤ toS s.hart.ew1 (v.hart.elems oa i)) ∧
       (∀ i < v.hart.places od, t.hart.elems od i =
         if i < c.length then v.hart.elems oa (c.getD i 0) else if i < n then 2 ^ (s.hart.ew1 - 1)
         else if v.hart.tailZero then 0 else v.hart.elems od i) ∧
       (∀ i < v.hart.places oi, t.hart.elems oi i =
         if i < c.length then c.getD i 0 else if i < n then 0xFFFFFFFF else if v.hart.tailZero then 0 else v.hart.elems oi i) ∧
       (∀ r < 32, (od.reg ≤ r ∧ r < od.reg + od.regs → t.hart.tag r = fmtOnly (v.hart.tag a.toNat)) ∧
         (oi.reg ≤ r ∧ r < oi.reg + oi.regs → t.hart.tag r = intTag 32) ∧
         (¬ (od.reg ≤ r ∧ r < od.reg + od.regs) → ¬ (oi.reg ≤ r ∧ r < oi.reg + oi.regs) →
           t.hart.readV r = v.hart.readV r ∧ t.hart.tag r = v.hart.tag r)) ∧
       t.hart.pc = v.hart.pc + 4 ∧ t.hart.vstart = 0 ∧ t.hart.regs = v.hart.regs ∧ t.mem = v.mem)

/-- The operations on predicates (06 R234 to R236): logic bit by bit under the guard, counting and finding among active bits,
and moves between predicates and vector registers. PLD and PST move the bits of a predicate from VSTART to VL, a byte for eight
of them (07 R246). -/
def Obligations.Predicates : Prop :=
  ((∀ mk (f : Bool → Bool → Bool), (mk, f) ∈ [(Instr.pand, fun x y => x && y), (Instr.por, fun x y => x || y),
       (Instr.pxor, fun x y => x != y), (Instr.pandn, fun x y => x && !y)] →
     ∀ (s : State) d a b, s.Lanes → ∃ t, exec (mk d a b) s = .next t ∧
       PredWritten s t d (fun i => f ((s.hart.readP a).getLsbD i) ((s.hart.readP b).getLsbD i)) {}) ∧
   (∀ (s : State) d a, s.Lanes → ∃ t, exec (.pmovPp d a) s = .next t ∧
     PredWritten s t d (fun i => (s.hart.readP a).getLsbD i) {}) ∧
   (∀ (s : State) d a, s.Lanes → ∃ t, exec (.psetn d a) s = .next t ∧
     PredWritten s t d (fun i => decide (i < (s.hart.readS a).toNat)) {}) ∧
   (∀ (s : State) d a, s.Lanes → exec (.pcnt d a) s = .next (s.scalarOut d
     (BitVec.ofNat 64 ((s.hart.activeList.filter fun i => (s.hart.readP a).getLsbD i).length)))) ∧
   (∀ (s : State) d a, s.Lanes → ∃ v : Word, exec (.pfirst d a) s = .next (s.scalarOut d v) ∧
     (∀ i, s.hart.active i = true → (s.hart.readP a).getLsbD i = true →
       v.toNat ≤ i ∧ s.hart.active v.toNat = true ∧ (s.hart.readP a).getLsbD v.toNat = true) ∧
     ((∀ i, s.hart.active i = true → (s.hart.readP a).getLsbD i = false) → v = BitVec.allOnes 64)) ∧
   (∀ (s : State) d a v, s.Lanes → s.hart.pairOk d = true →
     Delivered s [] [{ s.hart.predPair d with want := [] }] v →
     v.hart.writeStream? { s.hart.predPair d with want := [] } = none →
     ∃ t, exec (.pmovPv d a) s = .next t ∧
       VecWritten v t { s.hart.predPair d with want := [] } tagPred (fun i => ((v.hart.readP a).getLsbD i).toNat) {}) ∧
   (∀ (s : State) d a v, s.Lanes → s.hart.pairOk a = true → Delivered s [s.hart.predPair a] [] v →
     v.hart.Tagged [s.hart.predPair a] → ∃ t, exec (.pmovVp d a) s = .next t ∧
       PredWritten v t d (fun i => (v.hart.bitsOfOpnd (v.hart.predPair a)).testBit i) {})) ∧
  ((∀ (s u : State) d a o r c vs, s.hart.isCtl = false → s.hart.ill = false → s.hart.vstart.toNat < s.hart.vl.toNat →
     s.Ordered r c →
     ReadsAll s u 1 (s.hart.predBytes.map fun k =>
       (k, [s.hart.readS a + BitVec.ofInt 64 (64 * o.toInt) + BitVec.ofNat 64 k])) vs →
     ∃ t, exec (.pld d a o r c) s = .next t ∧ t.hart.pc = s.hart.pc + 4 ∧ t.hart.vstart = 0 ∧ t.hart.vregs = s.hart.vregs ∧
       (∀ q, q ≠ d → t.hart.readP q = s.hart.readP q) ∧
       ∀ i < 16384, d ≠ 0 → (t.hart.readP d).getLsbD i =
         if i < s.hart.vstart.toNat then (s.hart.readP d).getLsbD i
         else if i < s.hart.vl.toNat then (fieldOf vs 0 (i / 8)).testBit (i % 8)
         else if s.hart.tailZero then false else (s.hart.readP d).getLsbD i) ∧
   (∀ (s u : State) d a o r c xs, s.hart.isCtl = false → s.hart.ill = false → s.hart.vstart.toNat < s.hart.vl.toNat →
     s.Ordered r c →
     s.plan .store 1 (s.hart.predBytes.map fun k =>
       (k, [s.hart.readS a + BitVec.ofInt 64 (64 * o.toInt) + BitVec.ofNat 64 k])) = .ok xs →
     u = s.storeAll 8 xs (fun k => [(s.hart.readP d).toNat % 2 ^ s.hart.vl.toNat / 256 ^ k % 256]) →
     exec (.pst d a o r c) s = .next (State.past { u with hart := u.hart.restart })))

/-- The vector loads (07 R238 to R240): unit, strided, indexed and fault-only-first addresses; VLDFF behaves as VLD where
nothing faults. The vector stores (07 R238 to R240). The addresses of the vector memory forms, for an element of whole bytes (07
R238). -/
def Obligations.VectorLoadsAndStores : Prop :=
  ((∀ s d a o r c, LoadsElements (.vld d a o r c) s true d none (fun h _ i => h.unitAddr a o i) r c) ∧
   (∀ s d a o r c, LoadsElements (.vldff d a o r c) s true d none (fun h _ i => h.unitAddr a o i) r c) ∧
   (∀ s d a b r c, LoadsElements (.vlds d a b r c) s (s.hart.ew1 != 4) d none (fun h _ i => h.strideAddr a b i) r c) ∧
   (∀ s d a b r c, LoadsElements (.vldx d a b r c) s (s.hart.ew1 != 4 && s.hart.ew2 != 4) d (some b)
     (fun h x i => h.indexAddr a x i) r c)) ∧
  ((∀ s d a o r c, StoresElements (.vst d a o r c) s true d none (fun h _ i => h.unitAddr a o i) r c) ∧
   (∀ s d a b r c, StoresElements (.vsts d a b r c) s (s.hart.ew1 != 4) d none (fun h _ i => h.strideAddr a b i) r c) ∧
   (∀ s d a b r c, StoresElements (.vstx d a b r c) s (s.hart.ew1 != 4 && s.hart.ew2 != 4) d (some b)
     (fun h x i => h.indexAddr a x i) r c)) ∧
  (∀ (h : Hart) a b (o : BitVec 5) (x : Nat → Nat) i e n f, h.ew1 = 8 * e →
     h.unitAddr a o i = h.readS a + BitVec.ofInt 64 (64 * o.toInt) + BitVec.ofNat 64 (i * e) ∧
     h.strideAddr a b i = h.readS a + BitVec.ofNat 64 i * h.readS b ∧
     h.indexAddr a x i = h.readS a + BitVec.ofNat 64 (x i * e) ∧
     h.segAddr a o n f i = h.readS a + BitVec.ofInt 64 (64 * o.toInt) + BitVec.ofNat 64 ((i * n + f) * e))

/-- VLD and VST on plain memory (07 R240): each active element is the little-endian bytes at its place; VST changes exactly the
bytes of active elements. -/
def Obligations.VectorPlainMemory : Prop :=
  ∀ (s : State) d a o (key : Nat → Nat) e, s.Lanes → s.hart.groupOk d s.hart.ew1 = true → s.hart.ew1 = 8 * e → 0 < e →
    (∀ r, s.hart.bound r = false) → Memory.wf s.mem = true →
    ((∀ i ∈ s.hart.activeList, ∃ h p, s.check s.hart.env s.hart.num .load (s.hart.unitAddr a o i) e =
        .ok [⟨s.hart.unitAddr a o i, e, .mem (key i) h p⟩] ∧ s.readCheck (key i) e = (s, none)) →
      ∃ t, exec (.vld d a o 0 0) s = .next t ∧
        VecWritten s t (s.hart.opnd d s.hart.ew1 []) 0 (fun i => Memory.readLE s.mem (key i) e) {}) ∧
    ((∀ i ∈ s.hart.activeList, ∃ h p, s.check s.hart.env s.hart.num .store (s.hart.unitAddr a o i) e =
        .ok [⟨s.hart.unitAddr a o i, e, .mem (key i) h p⟩] ∧ s.fenced (key i) = false) →
      ∃ t, exec (.vst d a o 0 0) s = .next t ∧ t.hart.vregs = s.hart.vregs ∧ t.hart.regs = s.hart.regs ∧
        t.hart.pc = s.hart.pc + 4 ∧
        (∀ x, (∀ i ∈ s.hart.activeList, x < key i ∨ key i + e ≤ x) → Memory.read t.mem x = Memory.read s.mem x) ∧
        (∀ i ∈ s.hart.activeList, (∀ j ∈ s.hart.activeList, i < j → key j + e ≤ key i ∨ key i + e ≤ key j) →
          Memory.readLE t.mem (key i) e = s.hart.elems (s.hart.opnd d s.hart.ew1 []) i))

/-- A fault of VLDFF above its lowest active element ends the load there: VL takes the element's index and no trap is taken, unless
an element, below the fault or above it, holds poison (07 R243).
VLDG and VSTG move n fields of each active element between consecutive groups and memory (07 R242). -/
def Obligations.FaultOnlyFirstAndSegments : Prop :=
  (∀ (s u w : State) d a o r c xs vs i cause, s.Lanes → s.Ordered r c → s.hart.groupOk d s.hart.ew1 = true →
     (∀ r, s.hart.bound r = false) →
     let es := s.hart.activeList.map fun k => (k, [s.hart.unitAddr a o k])
     s.plan .load (elemBytes s.hart.ew1) es = .fault xs i cause s →
     (cause.code = 0x06 ∨ cause.code = 0x08 ∨ cause.code = 0x09) → s.hart.activeList.head? ≠ some i →
     s.readElems xs = (u, vs, none) → u.poisonAfter (elemBytes s.hart.ew1) (es.drop (xs.length + 1)) = (w, none) →
     ∃ t, exec (.vldff d a o r c) s = .next t ∧ t.hart.vl = BitVec.ofNat 15 i ∧ t.hart.pc = s.hart.pc + 4 ∧
       t.hart.vstart = 0 ∧ t.hart.xcause = s.hart.xcause ∧
       ∀ k ∈ s.hart.activeList, k < i → k < s.hart.places (s.hart.opnd d s.hart.ew1 []) →
         t.hart.elems (s.hart.opnd d s.hart.ew1 []) k = nibbleOf s.hart.ew1 k (fieldOf vs 0 k) % 2 ^ s.hart.ew1) ∧
  ((∀ (s v u : State) d a o (f : BitVec 3) r c vs, s.Lanes → s.hart.segOk d f r c = true → (r = 3 → s.releaseReady c.toNat = true) →
     Delivered s [] (s.hart.segOpnds d (f.toNat + 1)) v →
     (∀ x ∈ s.hart.segOpnds d (f.toNat + 1), v.hart.writeStream? x = none) →
     ReadsAll v u (elemBytes v.hart.ew1) (v.hart.activeList.map fun i =>
       (i, (List.range (f.toNat + 1)).map fun k => v.hart.segAddr a o (f.toNat + 1) k i)) vs →
     ∃ t, exec (.vldg d a o f r c) s = .next t ∧ t.hart.pc = v.hart.pc + 4 ∧ t.hart.vstart = 0 ∧ t.mem = u.mem ∧
       t.hart.regs = v.hart.regs ∧
       ∀ x k, (x, k) ∈ (s.hart.segOpnds d (f.toNat + 1)).zipIdx →
         (∀ i < v.hart.places x, t.hart.elems x i = v.hart.looped x (fieldOf vs k) i) ∧
         ∀ n, x.reg ≤ n → n < x.reg + x.regs → t.hart.tag n = 0) ∧
   (∀ (s v u : State) d a o (f : BitVec 3) r c xs, s.Lanes → s.hart.segOk d f r c = true → (r = 3 → s.releaseReady c.toNat = true) →
     Delivered s (s.hart.segOpnds d (f.toNat + 1)) [] v →
     v.plan .store (elemBytes v.hart.ew1) (v.hart.activeList.map fun i =>
       (i, (List.range (f.toNat + 1)).map fun k => v.hart.segAddr a o (f.toNat + 1) k i)) = .ok xs →
     u = v.storeAll v.hart.ew1 xs (fun k => (s.hart.segOpnds d (f.toNat + 1)).map fun y => v.hart.elems y k) →
     exec (.vstg d a o f r c) s = .next (State.past { u with hart := u.hart.restart })))

/-- The scatter-adds (07 R244, R245), and one element of each on plain memory: VSTXA leaves the sum, integer or rounded, and
changes no other byte; of the elements of VSTXC that name one location one, the same for each of them, adds its value, and the others
write back what they read. -/
def Obligations.ScatterAdds : Prop :=
  (∀ s d a b r c, ScattersElements (.vstxa d a b r c) s d a b r c true [.atomic] vstxaOne) ∧
  (∀ s d a b r c, ScattersElements (.vstxc d a b r c) s d a b r c false [.load, .store] vstxcOne) ∧
  (∀ (s : State) draw (va : Nat → Word) val fp i key h p e, s.hart.ew1 = 8 * e → 0 < e →
    (va i).toNat % e = 0 → Memory.wf s.mem = true →
    s.check s.hart.env s.hart.num .atomic (va i) e = .ok [⟨va i, e, .mem key h p⟩] → s.fenced key = false →
    s.readCheck key e = (s, none) →
    ∃ t, vstxaOne s.hart draw va val fp s i = .next t ∧ t.hart = s.hart ∧
      Memory.readLE t.mem key e = (if fp then ((s.hart.fmt s.hart.ew1).add (s.hart.fenv false)
        (Memory.readLE s.mem key e) (val i)).1 else Memory.readLE s.mem key e + val i) % 256 ^ e ∧
      ∀ x, x < key ∨ key + e ≤ x → Memory.read t.mem x = Memory.read s.mem x) ∧
  (∀ (h : Hart) draw (va : Nat → Word), ∃ adds : Word → Nat,
    (∀ i ∈ h.guardedList, adds (va i) ∈ h.guardedList ∧ va (adds (va i)) = va i) ∧
    ∀ (s : State) val fp i key e m p m' p', s.hart = h → i ∈ h.guardedList → h.ew1 = 8 * e → 0 < e → Memory.wf s.mem = true →
      s.check h.env h.num .load (va i) e = .ok [⟨va i, e, .mem key m p⟩] →
      s.check h.env h.num .store (va i) e = .ok [⟨va i, e, .mem key m' p'⟩] → s.fenced key = false →
      s.readCheck key e = (s, none) →
      ∃ t, vstxcOne h draw va val fp s i = .next t ∧ t.hart = h ∧
        Memory.readLE t.mem key e = (if adds (va i) ≠ i then Memory.readLE s.mem key e
          else if fp then ((h.fmt h.ew1).add (h.fenv false) (Memory.readLE s.mem key e) (val i)).1
          else Memory.readLE s.mem key e + val i) % 256 ^ e ∧
        ∀ x, x < key ∨ key + e ≤ x → Memory.read t.mem x = Memory.read s.mem x)

/-- MMA (09 R304 to R309): one step of every accumulator in an active column of the rows from MSTART on, with the exact
values of the elements of A and B, and the accumulator format's tag. The accumulator of a product of integers wraps modulo
2^32, or clamps with SAT while MODE.SAT is set (02 R89). An arming adds its term to the first step of its element, which
stays there where no check catches it and is recorded where one does (09 R319; 15 R412). MMA completes on every tile and
operands that R304 to R307 allow, without a bound stream, in formats whose tags name no list and, where they need scales,
with a side register that holds them. -/
def Obligations.MatrixMultiply : Prop :=
  (∀ (s : State) d a b rows row oa ob, s.Tiled d rows → s.hart.Unbound →
     let ca := (fmtOnly (s.hart.tag a.toNat)).toNat
     let cb := (fmtOnly (s.hart.tag b.toNat)).toNat
     (cb = 0 ∨ codeBits cb = s.hart.ew2) →
     let fb := if cb = 0 then (s.hart.fpTag s.hart.ew2).toNat else cb
     matRow s.hart.ew1 fb false = some row → s.hart.rounds? (row.acc != 3) →
     let wa := if s.hart.ew2 = 4 ∧ (ca = 1 ∨ ca = 12 ∨ ca = 13) then 8 else s.hart.ew2
     let fa := if ca = 0 then (if row.acc = 3 then intTag wa else s.hart.fpTag wa).toNat else ca
     fa ∈ row.a →
     s.hart.matOpnd a wa (rows * row.k * wa) fa = some oa →
     s.hart.matOpnd b s.hart.ew2 (row.k * s.hart.ew2 * s.hart.vl.toNat) fb = some ob →
     let od := s.hart.accOpnd d [BitVec.ofNat 6 row.acc]
     od.meets oa (hasSide fa).toNat = false → od.meets ob (hasSide fb).toNat = false → s.hart.Tagged [od] →
     (s.hart.tag a.toNat).getLsbD 5 = false → (s.hart.tag b.toNat).getLsbD 5 = false →
     (fa = 15 → s.hart.tag oa.side = tagE8M0) → (fb = 15 → s.hart.tag ob.side = tagE8M0) →
     ∃ t, exec (.mma d a b) s = .next t ∧ t.hart.pc = s.hart.pc + 4 ∧ t.hart.retired = s.hart.retired + 1) ∧
  (∀ (s v v1 v2 v3 v4 : State) d a b rows row oa ob xa xb ga gb as bs, s.Tiled d rows →
     let ca := (fmtOnly (s.hart.srcTag a.toNat)).toNat
     let cb := (fmtOnly (s.hart.srcTag b.toNat)).toNat
     (cb = 0 ∨ codeBits cb = s.hart.ew2) →
     let fb := if cb = 0 then (s.hart.fpTag s.hart.ew2).toNat else cb
     matRow s.hart.ew1 fb false = some row → s.hart.rounds? (row.acc != 3) →
     let wa := if s.hart.ew2 = 4 ∧ (ca = 1 ∨ ca = 12 ∨ ca = 13) then 8 else s.hart.ew2
     let wantA := if row.acc = 3 then intTag wa else s.hart.fpTag wa
     let fa := if ca = 0 then wantA.toNat else ca
     fa ∈ row.a →
     s.hart.matOpnd a wa (rows * row.k * wa) fa = some oa →
     s.hart.matOpnd b s.hart.ew2 (row.k * s.hart.ew2 * s.hart.vl.toNat) fb = some ob →
     let od := s.hart.accOpnd d [BitVec.ofNat 6 row.acc]
     od.meets oa (hasSide fa).toNat = false → od.meets ob (hasSide fb).toNat = false →
     Delivered s [oa, ob, od] [od] v → v.hart.Tagged [od] →
     Act.sideUse oa fa (decide (row.acc = 3)) wantA none v = (.ok xa, v1) →
     Act.sideUse ob fb (decide (row.acc = 3)) (s.hart.fpTag s.hart.ew2) none v1 = (.ok xb, v2) →
     Act.listOf xa v2 = (.ok ga, v3) → Act.listOf xb v3 = (.ok gb, v4) →
     valuesOf v4.hart fa xa ga (v4.hart.elems oa) row.k (fun i k => i * row.k + k)
       ((List.range rows).drop v4.hart.mstart.toNat) = some as →
     ((List.range v4.hart.vl.toNat).mapM fun j =>
       if v4.hart.guard j then
         (valuesOf v4.hart fb xb gb (v4.hart.elems ob) row.k (fun j k => k * v4.hart.vl.toNat + j) [j]).map List.flatten
       else some []) = some bs →
     v4.hart.mstart.toNat < rows →
     ∃ t, exec (.mma d a b) s = .next t ∧
       ProductEnds v4 t od rows row.acc (fun i j c =>
         accSteps v4.hart row.acc row.k 1 c (as.getD (i - v4.hart.mstart.toNat) []) (bs.getD j []))) ∧
  (∀ (h : Hart) c (xs ys : List Int), xs.length = ys.length →
     let v := toS 32 c + (List.zipWith (· * ·) xs ys).sum
     (h.sat = false → accStep h 3 c (xs.map FVal.ofInt) (ys.map FVal.ofInt) [] = (ofS 32 v, {})) ∧
     (h.sat = true → accStep h 3 c (xs.map FVal.ofInt) (ys.map FVal.ofInt) [] =
       (ofS 32 (max (-2 ^ 31) (min (2 ^ 31 - 1) v)), { sat := decide (v < -2 ^ 31 ∨ 2 ^ 31 ≤ v) })))

/-- MMAM (09 R311 to R314): every step of the tile with A and B in memory, read through their descriptors, and what an arming does to
it (09 R319; 15 R412). It completes wherever
the descriptors are legal and name no list, no stream is bound, and every byte of the rows can be read. -/
def Obligations.MatrixMultiplyMemory : Prop :=
  (∀ (s w : State) d a b rows row wx wy xs vs, s.Tiled d rows → s.hart.Unbound →
    (s.hart.readS a).toNat % 64 = 0 → (s.hart.readS b).toNat % 64 = 0 →
    s.loadN (s.hart.readS a) 64 = .ok wx s → s.loadN (s.hart.readS b) 64 = .ok wy s →
    let x := MatDesc.ofNat wx
    let y := MatDesc.ofNat wy
    matRow s.hart.ew1 y.fmt true = some row → s.hart.rounds? (row.acc != 3) →
    (x.ok && y.ok && x.ktot == y.ktot && x.ktot % row.k == 0 && row.a.contains x.fmt) = true →
    x.grouta = 0 → y.grouta = 0 → s.hart.Tagged [s.hart.accOpnd d [BitVec.ofNat 6 row.acc]] →
    let lo := s.hart.mstart.toNat
    s.planRows ((lo, s.firstReads x y lo) :: ((List.range rows).drop (lo + 1)).map fun i => (i, x.reads i)) = .ok xs →
    s.readElems xs = (w, vs, none) → w.hart = s.hart →
    ∃ t, exec (.mmam d a b) s = .next t ∧ t.hart.pc = s.hart.pc + 4 ∧ t.hart.retired = s.hart.retired + 1) ∧
  (∀ (s s1 s2 v w w1 w2 : State) d a b rows row wx wy xs vs first rest ga gb as bs, s.Tiled d rows →
    (s.hart.readS a).toNat % 64 = 0 → (s.hart.readS b).toNat % 64 = 0 →
    s.loadN (s.hart.readS a) 64 = .ok wx s1 → s1.loadN (s.hart.readS b) 64 = .ok wy s2 →
    let x := MatDesc.ofNat wx
    let y := MatDesc.ofNat wy
    matRow s.hart.ew1 y.fmt true = some row → s.hart.rounds? (row.acc != 3) →
    (x.ok && y.ok && x.ktot == y.ktot && x.ktot % row.k == 0 && row.a.contains x.fmt) = true →
    let od := s.hart.accOpnd d [BitVec.ofNat 6 row.acc]
    Delivered s2 [od] [od] v → v.hart.Tagged [od] → v.hart.mstart.toNat < rows →
    let lo := v.hart.mstart.toNat
    v.planRows ((lo, v.firstReads x y lo) :: ((List.range rows).drop (lo + 1)).map fun i => (i, x.reads i)) = .ok xs →
    v.readElems xs = (w, vs, none) → vs = (lo, first) :: rest →
    let na := (x.reads 0).length
    let nb := (y.reads 0).length
    let lists := first.drop (na + nb * v.hart.columns.length)
    Act.listFrom x.grouta lists w = (.ok ga, w1) →
    Act.listFrom y.grouta (lists.drop (v.listReads x.grouta).length) w1 = (.ok gb, w2) →
    ((List.range v.hart.vl.toNat).mapM fun j =>
      if v.hart.guard j then
        y.values v.hart.ftz gb j ((first.drop (na + nb * v.hart.columns.idxOf j)).take nb)
      else some []) = some bs →
    (((lo, first.take na) :: rest).mapM fun p => x.values v.hart.ftz ga p.1 p.2) = some as → as.length = rows - lo →
    ∃ t, exec (.mmam d a b) s = .next t ∧
      ProductEnds w2 t od rows row.acc (fun i j c =>
        accSteps w2.hart row.acc row.k (x.ktot / row.k) c (as.getD (i - lo) []) (bs.getD j [])))

/-- MZERO clears the active columns of the rows from MSTART on and tags the tile RAW (09 R308); MPERT arms a perturbation, in
supervisor mode with INJEN, and traps PRIV elsewhere and ILLEGAL for a reserved bit (09 R319). MDRAIN (09 R316, R317): the rows
from MSTART on go to memory, converted, at base + row × stride + column × size; with a maximum word the largest magnitude is
merged into it, as a release at device scope: while that may not perform, nothing is stored and the word runs again (09 R317; 03
R127). MZERO, and MDRAIN without a maximum word, complete on every legal tile without a bound stream, MDRAIN where every row can
be stored. -/
def Obligations.MatrixZeroPerturbDrain : Prop :=
  ((∀ (s : State) d rows, s.Tiled d rows → s.hart.Unbound →
     ∃ t, exec (.mzero d) s = .next t ∧ t.hart.pc = s.hart.pc + 4 ∧ t.hart.retired = s.hart.retired + 1) ∧
   (∀ (s : State) d a b f rows xs, s.Tiled d rows → s.hart.Unbound →
     let acc := if s.hart.tag d.toNat = 3 ∧ s.hart.ew1 = 32 then 3 else (s.hart.fpTag s.hart.ew1).toNat
     (drainFormats acc).contains f.toNat = true → (acc ≠ 3 → f ≠ 0 → s.hart.rm?.isSome = true) →
     s.hart.Tagged [s.hart.accOpnd d [BitVec.ofNat 6 acc]] →
     let n := (if f = 0 then s.hart.ew1 else codeBits f.toNat) / 8
     s.plan .store n (((List.range rows).drop s.hart.mstart.toNat).map fun i =>
       (i, s.hart.columns.map fun j => s.hart.readS a + BitVec.ofNat 64 i * s.hart.readS b + BitVec.ofNat 64 (j * n))) = .ok xs →
     ∃ t, exec (.mdrain d a b f 0) s = .next t ∧ t.hart.pc = s.hart.pc + 4 ∧ t.hart.retired = s.hart.retired + 1)) ∧
  ((∀ (s v : State) d rows, s.Tiled d rows → Delivered s [] [s.hart.accOpnd d []] v →
     v.hart.writeStream? (s.hart.accOpnd d []) = none → s.hart.mstart.toNat < rows →
     ∃ t, exec (.mzero d) s = .next t ∧ t.hart.arming = v.hart.arming ∧
       TileWritten v t (s.hart.accOpnd d []) rows 0 (fun _ _ _ => (0, {}))) ∧
   (∀ (s : State) a b, s.hart.isCtl = false →
     (s.hart.readS a &&& 0xFFFFFFFF7F00FE00 ≠ 0 → exec (.mpert a b) s = .next (s.trapOf (.mpert a b) .illegal)) ∧
     (s.hart.readS a &&& 0xFFFFFFFF7F00FE00 = 0 → (s.hart.inX = false ∨ s.hart.ctxcfg.getLsbD 2 = false) →
       exec (.mpert a b) s = .next (s.trapOf (.mpert a b) .priv)) ∧
     (s.hart.readS a &&& 0xFFFFFFFF7F00FE00 = 0 → s.hart.inX = true → s.hart.ctxcfg.getLsbD 2 = true →
       ∀ x : Arming, x = ⟨(s.hart.readS a).toNat % 2 ^ 9, (s.hart.readS a).toNat / 2 ^ 16 % 2 ^ 8, (s.hart.readS a).getLsbD 31,
         s.hart.readS b⟩ →
       exec (.mpert a b) s = .next (State.past { s with hart := { s.hart with arming := some x } })))) ∧
  (∀ (s v u : State) d a b f m rows xs, s.Tiled d rows →
     let acc := if s.hart.srcTag d.toNat = 3 ∧ s.hart.ew1 = 32 then 3 else (s.hart.fpTag s.hart.ew1).toNat
     (drainFormats acc).contains f.toNat = true → (acc ≠ 3 → f ≠ 0 → s.hart.rm?.isSome = true) →
     let od := s.hart.accOpnd d [BitVec.ofNat 6 acc]
     Delivered s [od] [] v → v.hart.Tagged [od] →
     let n := (if f = 0 then s.hart.ew1 else codeBits f.toNat) / 8
     let elem := fun (i j : Nat) => v.hart.elems od (i * v.hart.vl.toNat + j)
     v.plan .store n (((List.range rows).drop v.hart.mstart.toNat).map fun i =>
       (i, v.hart.columns.map fun j =>
         s.hart.readS a + BitVec.ofNat 64 i * s.hart.readS b + BitVec.ofNat 64 (j * n))) = .ok xs →
     u = v.storeAll (8 * n) xs (fun i => v.hart.columns.map fun j => (drainElem v.hart acc f.toNat (elem i j)).1) →
     let fl := joinFlags ((xs.flatMap fun x => v.hart.columns.map (elem x.1)).map fun c => (drainElem v.hart acc f.toNat c).2)
     (m = 0 ∨ (s.hart.readS m).toNat % (s.hart.ew1 / 8) = 0 ∧
         largestOf ((xs.flatMap fun x => v.hart.columns.map (elem x.1)).map (magnitude acc)) = none →
       exec (.mdrain d a b f m) s = .next (State.past { u with hart := (u.hart.raise fl).restart })) ∧
     (m ≠ 0 → (s.hart.readS m).toNat % (s.hart.ew1 / 8) = 0 → v.releaseReady 4 = false →
       largestOf ((xs.flatMap fun x => v.hart.columns.map (elem x.1)).map (magnitude acc)) ≠ none →
       exec (.mdrain d a b f m) s = .next s.beginRelease.waits) ∧
     (m ≠ 0 → (s.hart.readS m).toNat % (s.hart.ew1 / 8) = 0 → v.releaseReady 4 = true →
       ∀ best ps old old' v' w', largestOf ((xs.flatMap fun x => v.hart.columns.map (elem x.1)).map (magnitude acc)) = some best →
       v.check v.hart.env v.hart.num .atomic (s.hart.readS m) (s.hart.ew1 / 8) = .ok ps → v.readNat ps = .ok old v' →
       u.atomicN (s.hart.readS m) (s.hart.ew1 / 8) (fun x => some (mergeMax v.hart acc best x)) = .ok old' w' →
       exec (.mdrain d a b f m) s = .next (State.past { w' with hart := (w'.hart.raise fl).restart })))

/-- VDEQ and VSCALE (09 R324, R325): the exact value of each element under its scale, or its escape's entry of the list, rounded
into EW1; and each element times a power of two. VQUANT (09 R321, R322; 02 R86 to R88): the units from VSTART on are quantised
in ascending order, elections going to the list, and the destination, its side register, its tag and the flags take what the
units give. The scale of a unit (02 R88): a unit of zeros takes 2^0, one with a value that is not finite the NaN code, and any
other the code E + 127 of the exponent of its largest magnitude M: ⌊log2 M⌋ less that of the format's largest value, or ⌈log2 (M / 7)⌉ for
INT4G, clamped to −127 to 127. Each of the three completes on legal groups
without a bound stream, with a legal descriptor that can be read and names no list, and accepted tags. -/
def Obligations.NarrowFormats : Prop :=
  ((∀ (s : State) d a b w, s.Lanes → s.hart.Unbound → s.hart.rounds? true → s.hart.ew1 ∈ [8, 4] → s.hart.ew2 ∈ [16, 32, 64] →
     s.hart.groupOk d s.hart.ew1 = true → s.hart.groupOk a s.hart.ew2 = true →
     let oa := s.hart.opnd a s.hart.ew2 [s.hart.fpTag s.hart.ew2]
     let od := s.hart.opnd d s.hart.ew1 []
     od.side ≤ 31 → oa.meets od 1 = false → s.hart.vstart.toNat % 32 = 0 → s.hart.Tagged [oa] →
     (s.hart.readS b).toNat % 32 = 0 → s.loadN (s.hart.readS b) 32 = .ok w s →
     (NarrowDesc.ofNat w).quantOk s.hart.ew1 s.hart.vstart.toNat = true → (NarrowDesc.ofNat w).grouta = 0 →
     ∃ t, exec (.vquant d a b) s = .next t ∧ t.hart.pc = s.hart.pc + 4 ∧ t.hart.retired = s.hart.retired + 1) ∧
   (∀ (s : State) d a b w, s.Lanes → s.hart.Unbound → s.hart.rounds? true → s.hart.ew1 ∈ [16, 32, 64] → s.hart.ew2 ∈ [8, 4] →
     s.hart.groupOk d s.hart.ew1 = true → s.hart.groupOk a s.hart.ew2 = true →
     let oa := s.hart.opnd a s.hart.ew2 []
     let t := s.hart.tag a.toNat
     oa.side ≤ 31 → t.getLsbD 5 = false → (t = 0 ∨ hasSide t.toNat = true ∧ codeBits t.toNat = s.hart.ew2) →
     (t = 15 → s.hart.tag oa.side = tagE8M0) →
     (s.hart.readS b).toNat % 32 = 0 → s.loadN (s.hart.readS b) 32 = .ok w s →
     (NarrowDesc.ofNat w).deqOk = true → (NarrowDesc.ofNat w).grouta = 0 →
     ∃ t, exec (.vdeq d a b) s = .next t ∧ t.hart.pc = s.hart.pc + 4 ∧ t.hart.retired = s.hart.retired + 1) ∧
   (∀ (s : State) d a b w, s.Lanes → s.hart.Unbound → s.hart.rounds? true → s.hart.ew1 ∈ [16, 32, 64] →
     s.hart.groupOk d s.hart.ew1 = true → s.hart.groupOk a s.hart.ew1 = true →
     let oa := s.hart.opnd a s.hart.ew1 [s.hart.fpTag s.hart.ew1]
     oa.side ≤ 31 → s.hart.Tagged [oa] → s.hart.tag oa.side = tagE8M0 →
     (s.hart.readS b).toNat % 32 = 0 → s.loadN (s.hart.readS b) 32 = .ok w s → (NarrowDesc.ofNat w).scaleOk = true →
     ∃ t, exec (.vscale d a b) s = .next t ∧ t.hart.pc = s.hart.pc + 4 ∧ t.hart.retired = s.hart.retired + 1)) ∧
  ((∀ (s s1 v v1 v2 : State) d a b x y g, s.Lanes → s.hart.rounds? true →
     let oa := s.hart.opnd a s.hart.ew2 []
     let od := s.hart.opnd d s.hart.ew1 []
     s.hart.ew1 ∈ [16, 32, 64] → s.hart.ew2 ∈ [8, 4] → s.hart.groupOk d s.hart.ew1 = true →
     s.hart.groupOk a s.hart.ew2 = true → oa.side ≤ 31 →
     Act.narrowDesc b NarrowDesc.deqOk s = (.ok x, s1) → Delivered s1 [oa] [od] v → v.hart.writeStream? od = none →
     let t := s.hart.srcTag oa.reg
     let c := (fmtOnly t).toNat
     (t = 0 ∨ hasSide c = true ∧ codeBits c = v.hart.ew2) →
     let f := if c = 0 then (v.hart.fpTag v.hart.ew2).toNat else c
     Act.sideUse oa f false (v.hart.fpTag v.hart.ew2) (if x.grouta = 0 then none else some (x.grouta, x.tbase)) v = (.ok y, v1) →
     Act.listOf y v1 = (.ok g, v2) → v2.hart = v.hart →
     let value := fun i => exactElem v.hart.ftz f g (y.at i) (y.tbase + i) (v.hart.elems oa i)
     (∀ i ∈ v.hart.activeList, (value i).isSome = true) →
     let op := fun i => (v.hart.fmt v.hart.ew1).deliver v.hart v.hart.sat
       ((value i).getD (.nan false), { nv := ((value i).getD (.nan false)).isSig })
     ∃ t, exec (.vdeq d a b) s = .next t ∧
       VecWritten v2 t od (v.hart.fpTag v.hart.ew1) (fun i => (op i).1) (allFlags (v.hart.activeList.map op))) ∧
   (∀ (s s1 v : State) d a b x, s.Lanes → s.hart.rounds? true →
     let oa := s.hart.opnd a s.hart.ew1 [s.hart.fpTag s.hart.ew1]
     let od := s.hart.opnd d s.hart.ew1 []
     s.hart.ew1 ∈ [16, 32, 64] → s.hart.groupOk d s.hart.ew1 = true → s.hart.groupOk a s.hart.ew1 = true → oa.side ≤ 31 →
     Act.narrowDesc b NarrowDesc.scaleOk s = (.ok x, s1) → Delivered s1 [oa] [od] v → v.hart.Tagged [oa] →
     v.hart.writeStream? od = none → v.hart.tag oa.side = tagE8M0 →
     let code := fun i => bitsOf (v.hart.side oa.side).scales (8 * (i / x.bl)) 8
     let e := fun i => (v.hart.fmt v.hart.ew1).unpack v.hart.ftz (v.hart.elems oa i)
     let y := fun i => (e i).scaleBy (if code i = 255 then 255 else if x.neg then 254 - code i else code i)
     let op := fun i => (v.hart.fmt v.hart.ew1).deliver v.hart false (y i, { nv := (e i).isSig || (y i).isSig })
     ∃ t, exec (.vscale d a b) s = .next t ∧
       VecWritten v t od (v.hart.fpTag v.hart.ew1) (fun i => (op i).1) (allFlags (v.hart.activeList.map op)))) ∧
  (∀ (s s1 v v1 u : State) d a b x (g : Option Grout) rs, s.Lanes → s.hart.rounds? true →
     let oa := s.hart.opnd a s.hart.ew2 [s.hart.fpTag s.hart.ew2]
     let od := s.hart.opnd d s.hart.ew1 []
     s.hart.ew1 ∈ [8, 4] → s.hart.ew2 ∈ [16, 32, 64] → s.hart.groupOk d s.hart.ew1 = true →
     s.hart.groupOk a s.hart.ew2 = true → od.side ≤ 31 → oa.meets od 1 = false → s.hart.vstart.toNat % 32 = 0 →
     Act.narrowDesc b (fun x => x.quantOk s.hart.ew1 s.hart.vstart.toNat) s = (.ok x, s1) →
     Delivered s1 [oa] [od] v → v.hart.Tagged [oa] → v.hart.writeStream? od = none →
     (x.grouta = 0 ∧ g = none ∧ v1 = v ∨ x.grouta ≠ 0 ∧ ∃ y, g = some y ∧ Act.groutHeader x.grouta v = (.ok y, v1)) →
     let q : Quant := ⟨fun i => (v.hart.fmt v.hart.ew2).unpack v.hart.ftz (v.hart.elems oa i), x.dfmt, x.bl, x.tbase,
       FFmt.fp32.unpack false x.thresh, v.hart.mode.toNat / 2 ^ 16 % 16, v.hart.mode.getLsbD 14, g⟩
     let first := v.hart.vstart.toNat / x.bl
     q.run ((v.hart.vl.toNat + x.bl - 1) / x.bl - first)
       ⟨(g.map Grout.count).getD 0, none, (g.map Grout.clamped).getD false⟩ first v1 = (.ok (rs, none), u) →
     exec (.vquant d a b) s = .next (State.past { u with hart := (v.hart.quantised od
       (v.hart.vstart ≠ 0 ∧ v.hart.tag od.reg = BitVec.ofNat 6 (x.dfmt + 32)) x first rs none).restart })) ∧
  (∀ (dfmt : Nat) (vs : List FVal),
     ((∃ v ∈ vs, v.isFin = false) → scaleCode dfmt vs = 0xFF) ∧
     ((∀ v ∈ vs, ∃ s e, v = .fin s 0 e) → scaleCode dfmt vs = 0x7F) ∧
     ((∀ v ∈ vs, v.isFin = true) → scaleCode dfmt vs ≤ 254) ∧
     (∀ s m e, FVal.fin s m e ∈ vs → m ≠ 0 →
       (∀ v ∈ vs, ∃ t n f, v = .fin t n f ∧ ∀ q, q ≤ e → q ≤ f → n * 2 ^ (f - q).toNat ≤ m * 2 ^ (e - q).toNat) →
       ∃ x : Int, scaleCode dfmt vs = (max (-127) (min 127 x) + 127).toNat ∧
         (∀ emax : Int, (dfmt, emax) ∈ [(14, 2), (12, 8), (13, 15)] → ∀ q, q ≤ e → q ≤ x + emax →
           2 ^ (x + emax - q).toNat ≤ m * 2 ^ (e - q).toNat ∧ m * 2 ^ (e - q).toNat < 2 ^ (x + emax + 1 - q).toNat) ∧
         (dfmt = 15 → ∀ q, q ≤ e → q < x →
           7 * 2 ^ (x - 1 - q).toNat < m * 2 ^ (e - q).toNat ∧ m * 2 ^ (e - q).toNat ≤ 7 * 2 ^ (x - q).toNat)))

/-- TLDEF, TLEXP, TLWAIT and TLREL (07 R251; 03 R112 to R116): a tile is defined, expects bytes, is waited for and removed; a
tile that is FILLING traps TILE_STATE for TLEXP and TLREL, and one that is DRAINING makes them wait. TILE_WATCHDOG_EXPIRY puts a
FILLING tile into FAULT and touches nothing else. -/
def Obligations.TileInstructions : Prop :=
  (∀ (s : State) a b lv base, s.hart.isCtl = false → windowOf (s.hart.readS a) = some (lv, base) →
    base % 64 = 0 → (s.hart.readS b).toNat % 64 = 0 → 0 < (s.hart.readS b).toNat →
    base + (s.hart.readS b).toNat ≤ levelSize lv →
    (∀ u ∈ s.tileTable lv (levelInst lv s.hart.core),
      u.base + u.size ≤ base ∨ base + (s.hart.readS b).toNat ≤ u.base) →
    (s.tileTable lv (levelInst lv s.hart.core)).length < tileCapacity lv →
    exec (.tldef a b) s = .next (State.past { s with
      tiles := s.tiles ++ [⟨lv, levelInst lv s.hart.core, base, (s.hart.readS b).toNat, .empty, false, 0, 0, armOf lv s.hart.num,
        false, false, 0, s.hart.ctxid.toNat⟩] })) ∧
  (∀ (s : State) a b t, s.hart.isCtl = false → s.namedTile (s.hart.readS a) = .ok t →
    (t.st = .empty ∨ t.st = .ready → 0 < (s.hart.readS b).toNat → (s.hart.readS b).toNat < 2 ^ 26 →
      exec (.tlexp a b) s = .next (s.setTile { t with
        st := .filling, ph := !t.ph, count := (s.hart.readS b).toNat, arm := armOf t.lv s.hart.num, timer := 0 }).past) ∧
    (t.st = .filling → exec (.tlexp a b) s = .next (s.trapOf (.tlexp a b) (.tileState t.va))) ∧
    (t.st = .draining → 0 < (s.hart.readS b).toNat → (s.hart.readS b).toNat < 2 ^ 26 →
      exec (.tlexp a b) s = .next s.waits) ∧
    (t.st = .ready ∨ t.st = .draining → t.ph = (s.hart.readS b).getLsbD 0 → exec (.tlwait a b) s = .next s.past) ∧
    (t.st = .empty ∨ t.st = .filling → exec (.tlwait a b) s = .next s.waits) ∧
    (t.st = .empty ∨ t.st = .ready → ∃ u : State, exec (.tlrel a) s = .next u.past ∧
      u = { s with tiles := u.tiles } ∧
      ∀ x, x ∈ u.tiles ↔ x ∈ s.tiles ∧ ¬ (x.lv = t.lv ∧ x.inst = t.inst ∧ x.base = t.base)) ∧
    (t.st = .filling → exec (.tlrel a) s = .next (s.trapOf (.tlrel a) (.tileState t.va))) ∧
    (t.st = .draining → exec (.tlrel a) s = .next s.waits)) ∧
  (∀ (s : State) lv k base, ∃ u : State, exec (.tileWatchdogExpiry lv k base) s = .next u ∧ u = { s with tiles := u.tiles } ∧
    u.tiles.length = s.tiles.length ∧
    ∀ (i : Nat) (t : Tile), s.tiles[i]? = some t → ∃ t', u.tiles[i]? = some t' ∧
      (t.lv = lv ∧ t.inst = k ∧ t.base = base ∧ t.st = .filling →
        t'.st = .fault ∧ t'.why = true ∧ t'.rep = false ∧ { t' with st := t.st, why := t.why, rep := t.rep, timer := t.timer } = t) ∧
      (¬ (t.lv = lv ∧ t.inst = k ∧ t.base = base ∧ t.st = .filling) → t' = t))

/-- TEND ends the block of a hart whose armed tiles are settled and whose engine commands have registered (07 R260): the hart is
IDLE without a block, an arming or a bound stream, and its launch runs one block fewer; a tile that is still FILLING traps
TILE_STATE. TAGSET and TAGTEST on a tag argument of the hart's own launch (07 R261, R262; 10 R334, R339): the entries of the tag
become set, and s_d takes 1 where the tag is set or, on a fallback edge, the producer has completed, and else 0; a stale argument aborts the
replay, and the hart takes the trap without its block (10 R338).
BLOCK_DISPATCH (10 R330; 01 R14; 10 R329): a hart that a launch can serve starts its block in user mode, with s1 holding the parameter,
every other register, predicate and vector register 0, every tag RAW and no stream bound, VCFG illegal, MODE 0 but for the context's
PROTREQ, XVEC from the context record, the other control and exception registers and RETIRED 0, the pc at the entry, whose bits [1:0]
the model clears (log 72), and BLKLO, BLKHI, NODEID and GEN those of the block; one that none can serve waits, and a hart
that is not IDLE is left alone. -/
def Obligations.TasksAndBlocks : Prop :=
  ((∀ s : State, s.hart.isCtl = false →
     (∀ t ∈ s.tiles, t.ctx = s.hart.ctxid.toNat → t.inst = levelInst t.lv s.hart.core → t.arm = armOf t.lv s.hart.num →
       t.st ≠ .filling ∧ t.st ≠ .fault) →
     (∀ k ∈ s.cmds, k.hart = s.hart.num → k.claimed = true) →
     ∃ u : State, exec .tend s = .next u ∧
       u.hart = { s.hart with st := .idle, block := none, arming := none, relMark := none,
                              streams := Vector.replicate 4 Stream.unbound, retired := s.hart.retired + 1, pc := s.hart.pc + 4 } ∧
       u.fe = { s.fe with launches := u.fe.launches, waiting := s.fe.waiting ++ [s.hart.num] } ∧
       (s.launchOf s.hart = none → u.fe.launches = s.fe.launches) ∧
       (∀ l, s.launchOf s.hart = some l →
         u.fe.launches = s.fe.launches.map fun k => if k.same l then { l with running := l.running - 1 } else k) ∧
       { u with hart := s.hart, fe := s.fe } = s) ∧
   (∀ (s : State) t r, s.hart.isCtl = false → s.armedTiles = t :: r → t.st = .filling →
     exec .tend s = .next (s.trapOf .tend (.tileState t.va))) ∧
   (∀ s : State, s.hart.isCtl = false → s.armedTiles = [] → s.unregistered = true → exec .tend s = .next s.waits)) ∧
  ((∀ (s : State) a l d, s.hart.isCtl = false → s.namedTag true (s.hart.readS a) = some (l, d) → s.fe.takeover = false →
     s.unregistered = false →
     ∃ u : State, exec (.tagset a) s = .next u.past ∧ u = { s with fe := { s.fe with mortar := u.fe.mortar } } ∧
       u.fe.mortar.length = s.fe.mortar.length ∧
       ∀ (i : Nat) (m : Mortar), s.fe.mortar[i]? = some m → u.fe.mortar[i]? = some
         { m with isSet := m.isSet ||
           m.isFor l.slot l.node d.idx (bitsOf (s.hart.readS a).toNat 0 32) l.gen }) ∧
   (∀ (s : State) d a l e, s.hart.isCtl = false → s.namedTag false (s.hart.readS a) = some (l, e) →
     ∃ v : Word, exec (.tagtest d a) s = .next (s.setS d v).past ∧ (v = 0 ∨ v = 1) ∧
       (v = 1 ↔
         (e.edge = 1 ∧ ∃ m ∈ s.fe.mortar, m.isFor l.slot e.pnode e.pdecl (bitsOf (s.hart.readS a).toNat 0 32) l.gen = true ∧
           m.isSet = true) ∨
         (e.edge = 2 ∧ ∃ r, s.replayOf l.slot l.gen = some r ∧ r.done e.pnode = true))) ∧
   (∀ (s : State) d a i w b, (i, w) ∈ [(Instr.tagset a, true), (.tagtest d a, false)] → s.hart.isCtl = false →
     s.namedTag w (s.hart.readS a) = none → s.hart.xt = false → s.hart.block = some b →
     ∃ u : State, exec i s = .next u ∧ u.hart.block = none ∧ u.hart.pc = s.hart.xvec ∧ u.hart.xepc = s.hart.pc ∧
       u.hart.xtval = s.hart.readS a ∧ u.hart.regs = s.hart.regs ∧ s.hart.num ∉ u.fe.waiting ∧
       ((∀ k ∈ s.cmds, k.isOf b.slot b.gen = false) → u.mem = s.mem) ∧
       ∀ r ∈ u.fe.replays, r.slot = b.slot → r.gen = b.gen → r.st ≠ 0 → r.fault.isSome = true)) ∧
  ((∀ (s : State) n, (1152 ≤ n ∨ (s.hartAt n).st ≠ .idle) → exec (.blockDispatch n) s = .next s) ∧
   (∀ (s : State) n b l c r, n < 1152 → (s.hartAt n).st = .idle → (s.hartAt n).num = n → s.powered = true →
     (∀ m ∈ (s.fe.waiting.filter fun m => m / 96 == n / 96).takeWhile (· != n), s.serve m = none) → s.serve n = some (b, l, c, r) →
     ∃ u : State, exec (.blockDispatch n) s = .next u ∧ u.mem = s.mem ∧ n ∉ u.fe.waiting ∧
       (∀ m, m ≠ n → u.hartAt m = s.hartAt m) ∧
       (u.hartAt n).st = .running ∧ (u.hartAt n).pc = l.entry &&& ~~~3#64 ∧ (u.hartAt n).readS 1 = l.param ∧
       (u.hartAt n).retired = 0 ∧
       (∀ x : SReg, x ≠ 1 → (u.hartAt n).readS x = 0) ∧ (∀ x < 32, (u.hartAt n).readV x = 0 ∧ (u.hartAt n).tag x = 0) ∧
       (∀ x : PReg, x ≠ 0 → (u.hartAt n).readP x = 0) ∧ (∀ x < 4, (u.hartAt n).bound x = false) ∧
       (u.hartAt n).vcfg = 0x8000000000000000 ∧ (u.hartAt n).vl = 0 ∧ (u.hartAt n).vlmax = 0 ∧
       (u.hartAt n).mode = (if r.ctxcfg.getLsbD 0 then 0x1000 else 0) ∧ (u.hartAt n).fflags = 0 ∧ (u.hartAt n).vstart = 0 ∧
       (u.hartAt n).mstart = 0 ∧ (u.hartAt n).repidx = 0 ∧ (u.hartAt n).xvec = r.xvec &&& ~~~3#64 ∧ (u.hartAt n).xstatus = 0 ∧
       (u.hartAt n).xcause = 0 ∧ (u.hartAt n).xepc = 0 ∧ (u.hartAt n).xtval = 0 ∧ (u.hartAt n).xscratch = 0 ∧
       (u.hartAt n).slot = BitVec.ofNat 10 l.slot ∧ (u.hartAt n).node = BitVec.ofNat 16 l.node ∧
       (u.hartAt n).gen = BitVec.ofNat 16 l.gen ∧
       (u.hartAt n).block = some ⟨l.slot, l.node, l.gen, b.g0, b.g1⟩ ∧
       (u.hartAt n).blklo = BitVec.ofInt 64 (l.lo + b.g0 * l.grain) ∧
       (u.hartAt n).blkhi = BitVec.ofInt 64 (min l.hi (l.lo + b.g1 * l.grain))) ∧
   (∀ (s : State) n, n < 1152 → (s.hartAt n).st = .idle → s.powered = true →
     (∀ m ∈ (s.fe.waiting.filter fun m => m / 96 == n / 96).takeWhile (· != n), s.serve m = none) → s.serve n = none →
     ∃ u : State, exec (.blockDispatch n) s = .next u ∧ n ∈ u.fe.waiting ∧ u = { s with fe := { s.fe with waiting := u.fe.waiting } }))

/-- CPY, CPYP, CPYG and CPYS (07 R253 to R257): the command block, its dimensions and indices are read and checked, and the
core's copy engine takes the command; a queue of 32 commands makes the hart wait, and a misaligned block traps. The order of a
copy's writes in one dimension (07 R254, R255): element i goes to DSTA + i × DSTRIDE from SRCA + (i + SOFF) × SSTRIDE where its
source coordinate lies inside SCOUNT, and elsewhere takes the padding or, without the padding flag, is not written. Each of the
four completes wherever its block, dimensions and indices can be read and are legal, no check of its ranges fails, and the queue
has room: its core's copy engine then has one command more, and memory is unchanged. -/
def Obligations.CopyIssue : Prop :=
  (∀ (s : State) (op : Nat) mk a b h (dim ix : Nat → Nat) k,
     (op, mk) ∈ [(0, Instr.cpy), (1, .cpyp), (2, .cpyg), (3, .cpys)] → s.hart.isCtl = false →
     let va := s.hart.readS a
     let done := if b = 0 then none else some (s.hart.readS b)
     let ds := (List.range (copyDims h)).map dim
     let c := CopyBlock.ofNat h ds
     let idx := if indexed op then (List.range c.nidx).map ix else []
     va.toNat % 64 = 0 → done.all (fun w => w.toNat % 8 == 0) = true → s.loadN va 64 = .ok h s →
     (∀ k < copyDims h, s.loadN (plus va (64 + 32 * k)) 32 = .ok (dim k) s) → c.ok op = true →
     (indexed op = true → c.idx % 2 ^ c.idxw = 0 ∧
       ∀ j < c.nidx, s.loadN (plus (BitVec.ofNat 64 c.idx) (j * 2 ^ c.idxw)) (2 ^ c.idxw) = .ok (ix j) s) →
     s.copyCheck op va done c idx = .ok k → (s.copyQueue s.hart.core).length < 32 →
     ∃ t, exec (mk a b) s = .next t ∧ t.hart.pc = s.hart.pc + 4 ∧ t.hart.retired = s.hart.retired + 1 ∧
       t.cmds.length = s.cmds.length + 1 ∧ t.mem = s.mem) ∧
  (∀ (s s1 s2 s3 : State) (op : Nat) mk a b h ds idx k,
     (op, mk) ∈ [(0, Instr.cpy), (1, .cpyp), (2, .cpyg), (3, .cpys)] → s.hart.isCtl = false →
     let va := s.hart.readS a
     let done := if b = 0 then none else some (s.hart.readS b)
     (va.toNat % 64 ≠ 0 → exec (mk a b) s = .next (s.trapOf (mk a b) (.misalign va))) ∧
     (va.toNat % 64 = 0 → done.all (fun w => w.toNat % 8 == 0) = true → s.loadN va 64 = .ok h s1 →
       (List.range (copyDims h)).mapM (m := Act) (fun k => Act.load (plus va (64 + 32 * k)) 32) s1 = (.ok ds, s2) →
       let c := CopyBlock.ofNat h ds
       c.ok op = true →
       (if indexed op then c.idx % 2 ^ c.idxw = 0 ∧ Act.indices c s2 = (.ok idx, s3) else idx = [] ∧ s3 = s2) →
       s3.copyCheck op va done c idx = .ok k →
       ((s3.copyQueue s3.hart.core).length < 32 →
         exec (mk a b) s = .next (s3.enqueue { k with extra := copyWords h ds idx }).past) ∧
       (32 ≤ (s3.copyQueue s3.hart.core).length → exec (mk a b) s = .next s.waits))) ∧
  (∀ (c : CopyBlock) (x : CopyDim), c.ndim = 1 → c.dims = [x] →
     c.moves 0 [] = (List.range x.dcount).filterMap fun (i : Nat) =>
       let dst := wordOfInt (c.dsta + (i : Int) * x.dstride)
       if 0 ≤ (i : Int) + x.soff ∧ (i : Int) + x.soff < x.scount then
         some (dst, some (wordOfInt (c.srca + ((i : Int) + x.soff) * x.sstride)))
       else if c.flags = 1 then some (dst, none) else none)

/-- The issue of a mesh, colouring or binning command (08 R280, R281): where no check fails, no tile that it reads holds it back
and the queue holds fewer than 64, the engine of the hart's die takes one more command, and no hart and no byte of memory
changes. MSHREF, MSHCRS, MSHREN, MSHMIG, MSHGL and MSHCUT (08 R281, R288, R290, R295, R296): a legal command block whose mesh is
of this die goes to the topology engine with the ranges that it reads and writes. -/
def Obligations.TopologyIssue : Prop :=
  ((∀ (s : State) (i : Issue), i.causes = [] → i.bad = false →
     let e := s.hart.engineEnv i.kind
     let src := i.reads.map fun r => s.pinEngine e .load r.1.toNat r.2
     let dst := i.writes.map fun rs => rs.map fun r => s.pinEngine e .store r.1.toNat r.2
     let fin := i.fin.map fun r => s.pinEngine e .store r.1.toNat r.2
     (∀ p ∈ src ++ dst.flatten ++ fin, p.2 = []) →
     (∀ t ∈ s.sourceTiles e.ctx (src.flatMap Prod.fst), t.st = .empty ∨ t.st = .ready ∨ t.st = .draining) →
     (s.queueOf i.kind s.hart.die).length < 64 →
     Issues i s (s.enqueue {
       id := s.stamp, kind := i.kind, unit := s.hart.die, op := i.op, blockVa := i.va, block := i.block, done := none, env := e,
       hart := s.hart.num, launch := s.hart.block.map fun b => (b.slot, b.node, b.gen), stamp := none,
       src := src.flatMap Prod.fst, dst := dst.map fun d => d.flatMap Prod.fst, fin := fin.flatMap Prod.fst, claimed := false,
       tiles := [], status := none, extra := i.extra })) ∧
   (∀ (s : State) (k : Command), k.claimed = false → k.stamp = none → (∀ c ∈ s.cmds, c.id ≠ k.id) →
     ∃ k' u, s.enqueue k = u ∧ u.cmds = s.cmds ++ [k'] ∧ u.hart = s.hart ∧ u.parked = s.parked ∧ u.mem = s.mem ∧ u.fe = s.fe ∧
       { k' with stamp := none, claimed := false, tiles := k.tiles, status := k.status } = k)) ∧
  ((∀ (s s1 s2 s3 t : State) (op : Nat) mk a w d tab owners,
     (op, mk) ∈ [(2, Instr.mshref), (3, .mshcrs), (4, .mshren)] → s.hart.isCtl = false → (s.hart.readS a).toNat % 64 = 0 →
     s.loadN (s.hart.readS a) 128 = .ok w s1 → Act.meshDesc (dword w 16) s1 = (.ok (some (d, true)), s2) → rewriteBad op w = false →
     (if bitsOf w 704 32 = 0 then tab = 0 ∧ s3 = s2 else s2.loadN (dword w 80) (16 * bitsOf w 704 32) = .ok tab s3) →
     partEntries tab (bitsOf w 704 32) = some owners → areasMeet d w = false → d.die = s.hart.die →
     d.device = s.fab.device.toNat → (∀ e ∈ owners, e.1 = s.fab.device.toNat) →
     Issues ⟨.topology, op, s.hart.readS a, leBytes 128 w, false, [],
       (dword w 16, 256) :: (dword w 80, 16 * bitsOf w 704 32) :: (if op = 4 then [] else [(dword w 24, 64 * (d.nbrick + d.ngbrick))]),
       [[(dword w 16, 256)], [(dword w 32, 8192 * bitsOf w 320 32)], [(dword w 48, 16 * bitsOf w 352 32)],
         [(dword w 56, 16 + 16 * bitsOf w 512 32)]], [(s.hart.readS a, 8)], []⟩ s3 t →
     exec (mk a) s = .next t.past) ∧
   (∀ (s s1 s2 s3 t : State) a w d d', s.hart.isCtl = false → (s.hart.readS a).toNat % 64 = 0 →
     s.loadN (s.hart.readS a) 128 = .ok w s1 →
     Act.meshDesc (dword w 16) s1 = (.ok (some (d, true)), s2) → Act.meshDesc (dword w 24) s2 = (.ok (some (d', true)), s3) →
     (d'.device = s.fab.device.toNat ∨ s.hart.ctxcfg.getLsbD 1 = true) → d'.die < 12 → headerBad 6 w = false →
     (∀ x ∈ [(40, 8192), (48, 16), (56, 8192), (64, 16), (88, 64), (96, 64)], (dword w x.1).toNat % x.2 = 0) →
     bitsOf w 288 32 = 0 → bitsOf w 864 32 = 0 → d.die = s.hart.die → d.device = s.fab.device.toNat →
     Issues ⟨.topology, 6, s.hart.readS a, leBytes 128 w, false, [], [],
       [[(dword w 16, 256)], [(dword w 24, 256)], [(dword w 40, 8192 * bitsOf w 576 32)], [(dword w 48, 16 * bitsOf w 640 32)],
         [(dword w 56, 8192 * bitsOf w 608 32)], [(dword w 64, 16 * bitsOf w 672 32)], [(dword w 88, 16 + 16 * bitsOf w 832 32)],
         [(dword w 96, 16 + 16 * bitsOf w 832 32)]], [(s.hart.readS a, 8)], []⟩ s3 t →
     exec (.mshmig a) s = .next t.past) ∧
   (∀ (s s1 s2 s3 t : State) a w d g, s.hart.isCtl = false → (s.hart.readS a).toNat % 64 = 0 →
     s.loadN (s.hart.readS a) 64 = .ok w s1 → Act.meshDesc (dword w 16) s1 = (.ok (some (d, true)), s2) → headerBad 1 w = false →
     (dword w 24).toNat % 64 = 0 → s2.loadN (dword w 24) 64 = .ok g s3 → listBad g = false → bitsOf w 320 32 ≠ 0 →
     bitsOf w 352 16 ≤ 3 → bitsOf w 368 16 = 0 → bitsOf w 448 64 = 0 → d.die = s.hart.die → d.device = s.fab.device.toNat →
     Issues ⟨.topology, 1, s.hart.readS a, leBytes 64 w, false, [], [(dword w 16, 256)],
       [[(dword w 24, 64)], [(dword g 16, bitsOf g 320 32 * entryBytes g)], [(dword g 24, bitsOf g 320 32 * entryBytes g)],
         [(dword g 32, bitsOf g 320 32 * 4)]], [(s.hart.readS a, 8)], [g]⟩ s3 t →
     exec (.mshgl a) s = .next t.past) ∧
   (∀ (s s1 s2 t : State) a w d, s.hart.isCtl = false → (s.hart.readS a).toNat % 64 = 0 →
     s.loadN (s.hart.readS a) 128 = .ok w s1 → Act.meshDesc (dword w 16) s1 = (.ok (some (d, true)), s2) → headerBad 5 w = false →
     1 ≤ bitsOf w 384 32 → bitsOf w 384 32 ≤ 65536 → bitsOf w 416 32 = 0 → bitsOf w 640 384 = 0 → d.die = s.hart.die →
     d.device = s.fab.device.toNat →
     Issues ⟨.topology, 5, s.hart.readS a, leBytes 128 w, false, [],
       [(dword w 16, 256), (dword w 24, 256 * (d.nbrick + d.ngbrick))],
       [[(dword w 16, 256)], [(dword w 56, 8 * bitsOf w 384 32)], [(dword w 64, 8 * bitsOf w 384 32)], [(d.bricka, 8192 * d.nbrick)]],
       [(s.hart.readS a, 8)], []⟩ s2 t →
     exec (.mshcut a) s = .next t.past))

/-- CLRGEN, BINAPP and BINPLAY (08 R298, R301, R302) hand their commands to the colouring and binning engines; BINPLAY takes the
bin's chain with it and leaves the bin empty. MSHQ binds an
unbound register to a legal query of a mesh of this die (08 R286), and traps STREAM for a bound one; MSHWAIT and BINWAIT wait
for a completion word, complete when it says so without an error, and trap MESH with one (08 R297). -/
def Obligations.ColouringBinningAndQueries : Prop :=
  ((∀ (s s1 s2 t : State) a w g, s.hart.isCtl = false → (s.hart.readS a).toNat % 64 = 0 →
     s.loadN (s.hart.readS a) 64 = .ok w s1 → headerBad 0 w = false → (dword w 16).toNat % 64 = 0 →
     s1.loadN (dword w 16) 64 = .ok g s2 → listBad g = false → 1 ≤ bitsOf w 320 8 → bitsOf w 320 8 ≤ 16 → bitsOf w 328 56 = 0 →
     bitsOf w 384 64 ≤ 2 ^ 32 → bitsOf w 448 64 = 0 →
     Issues ⟨.colouring, 0, s.hart.readS a, leBytes 64 w, false, [],
       [(dword w 16, 64), (dword g 16, bitsOf g 0 32 * entryBytes g), (dword g 24, bitsOf g 0 32 * entryBytes g),
         (dword g 32, bitsOf g 0 32 * 4)],
       [[(dword w 24, 4 * bitsOf g 0 32)], [(dword w 32, 4 * (bitsOf w 320 8 + 1))]], [(s.hart.readS a, 8)], [g]⟩ s2 t →
     exec (.clrgen a) s = .next t.past) ∧
   (∀ (s v s1 s2 s3 t : State) d a b w rooms fs, s.hart.isCtl = false → s.hart.ill = false → s.hart.anyGuarded = true →
     (s.hart.ew2 = 32 ∨ s.hart.ew2 = 64) → s.hart.vstart = 0 → s.hart.groupOk d s.hart.ew1 = true →
     s.hart.groupOk b s.hart.ew2 = true → (s.hart.readS a).toNat % 64 = 0 →
     s.BinsSettled (s.hart.readS a) → s.loadN (s.hart.readS a) 256 = .ok w s1 →
     let set := BinSet.ofNat (s.hart.readS a) w
     set.legal w = true → 8 * binBytes set.fmt = s.hart.ew1 →
     Delivered s1 [s.hart.opnd d s.hart.ew1 [], s.hart.opnd b s.hart.ew2 []] [] v →
     set.die = v.hart.die → set.device = v.fab.device.toNat →
     let pairs := v.hart.activeList.map fun i =>
       (v.hart.elems (s.hart.opnd b s.hart.ew2 []) i, v.hart.elems (s.hart.opnd d s.hart.ew1 []) i)
     (∀ p ∈ pairs, p.1 * binBytes set.fmt < set.tlen) →
     let regions := (pairs.map fun p => set.region p.1).eraseDups
     let count := fun r => (pairs.filter fun p => set.region p.1 == r).length
     regions.mapM (m := Act) (fun r => do return (r, ← Act.room set r)) v = (.ok rooms, s2) →
     chunksNeeded (rooms.map fun q => (count q.1, q.2.1)) ≤ set.nfree →
     Act.freeChunks set (chunksNeeded (rooms.map fun q => (count q.1, q.2.1))) set.free s2 = (.ok (some fs), s3) →
     Issues ⟨.binning, 1, s.hart.readS a, [], false, [], [],
       [[(s.hart.readS a, 256)], regions.map fun r => (set.head r, 16),
         (rooms.flatMap fun q => q.2.2).map (fun c => (set.chunk c, 4096)) ++ fs.map fun c => (set.chunk c, 4096)], [],
       pairs.flatMap fun p => [p.1, p.2]⟩ s3 t →
     exec (.binapp d a b) s = .next (State.past { t with hart := t.hart.restart })) ∧
   (∀ (s s1 s2 s3 s4 t : State) a w bw h cs, s.hart.isCtl = false → (s.hart.readS a).toNat % 64 = 0 →
     s.loadN (s.hart.readS a) 64 = .ok w s1 → s1.BinsSettled (dword w 16) →
     (dword w 16).toNat % 64 = 0 → s1.loadN (dword w 16) 256 = .ok bw s2 →
     let set := BinSet.ofNat (dword w 16) bw
     let e := t.hart.engineEnv .binning
     set.legal bw = true → headerBad 2 w = false → bitsOf w 224 32 = 0 → bitsOf w 320 192 = 0 → bitsOf w 192 32 < set.nreg →
     (dword w 32).toNat % 64 = 0 → inScratchSpace (dword w 32) = true → set.die = s2.hart.die →
     set.device = s2.fab.device.toNat → s2.loadN (set.head (bitsOf w 192 32)) 16 = .ok h s3 →
     Act.chain set set.nchunk (bitsOf h 0 32) s3 = (.ok (some cs), s4) →
     Issues ⟨.binning, 2, s.hart.readS a, leBytes 64 w, false, [],
       [(set.regionAddr (bitsOf w 192 32), set.regionLen (bitsOf w 192 32))],
       [[(set.addr, 256)], [(dword w 32, regionBytes)], [(set.head (bitsOf w 192 32), 16)], cs.map fun c => (set.chunk c, 4096),
         [(set.regionAddr (bitsOf w 192 32), set.regionLen (bitsOf w 192 32))]],
       [(s.hart.readS a, 8)], cs⟩ s4 t →
     exec (.binplay a) s = .next
       (t.writeParts e (t.pinEngine e .store (set.head (bitsOf w 192 32)).toNat 16).1 emptyHead).past)) ∧
  ((∀ (s s1 s2 : State) (r : BitVec 2) a b w d, s.hart.isCtl = false → s.hart.bound r.toNat = false →
     (s.hart.readS a).toNat % 64 = 0 → s.loadN (s.hart.readS a) 64 = .ok w s1 →
     Act.meshDesc (dword w 16) s1 = (.ok (some (d, true)), s2) → d.die = s.hart.die → d.device = s.fab.device.toNat →
     queryOk d w (s.hart.readS b).toNat = true →
     ∀ x : Stream, x = ⟨.query d.addr (dword w 24) (s.hart.readS b).toNat (bitsOf w 256 32) (bitsOf w 288 8) (bitsOf w 312 8)
       (dword w 40) (BitVec.ofNat 64 d.epoch), s.hart.readS a, BitVec.ofNat 5 (bitsOf w 304 8), bitsOf w 296 8, 0, false, 0, 0⟩ →
     exec (.mshq r a b) s = .next (State.past { s2 with hart := s2.hart.setStream r.toNat x })) ∧
   (∀ (s : State) (r : BitVec 2) a b, s.hart.isCtl = false → s.hart.bound r.toNat = true →
     exec (.mshq r a b) s = .next (s.trapOf (.mshq r a b) (.stream (28 + r.toNat)))) ∧
   (∀ (s : State) a mk, mk ∈ [Instr.mshwait, .binwait] → s.hart.isCtl = false →
     ((s.hart.readS a).toNat % 8 ≠ 0 → exec (mk a) s = .next (s.trapOf (mk a) (.misalign (s.hart.readS a)))) ∧
     ((s.hart.readS a).toNat % 8 = 0 → ∀ v t, s.loadN (s.hart.readS a) 8 = .ok v t →
       (v % 256 = 1 → v / 256 % 256 = 0 → exec (mk a) s = .next t.past) ∧
       (v % 256 = 1 → v / 256 % 256 ≠ 0 →
         exec (mk a) s = .next (t.takeTrap (wordInfo t.hart.isCtl (wordOf (mk a))) (.mesh (s.hart.readS a)))) ∧
       (v % 256 ≠ 1 → exec (mk a) s = .next t.waits))))

/-- RGET (07 R263) where every device answers: the active elements take the values that their indices name, here and on the
peers. That a peer's bytes are those that this model holds for it rests on log 9. RPUT and RFLUSH (07 R265, R267): every active
element goes to its place, to a peer as an operation that RFLUSH waits for, or a failure at once where the peer cannot be
reached; at EW1 = 4 a peer takes a nibble of a byte. RFLUSH traps for the oldest failure of its hart and forgets all of them.
PEER_REPLY answers the hart that waits, or ends one of its operations at the device, whichever (03 R137; log 9), which performs
then unless a claimed granule holds it back (03 R132). RATOM (07 R266): at this device it acts
as an atomic on memory and answers the old value; at a peer the form without a result goes off, the form with one waits for the
answer and takes it. -/
def Obligations.RemoteOperations : Prop :=
  ((∀ (s v u : State) d a b vs, s.Lanes → (s.hart.ew2 = 32 ∨ s.hart.ew2 = 64) → s.hart.ew1 ≠ 4 →
     s.hart.groupOk d s.hart.ew1 = true → s.hart.groupOk b s.hart.ew2 = true → s.hart.remoteEn = true →
     let ob := s.hart.opnd b s.hart.ew2 []
     let od := s.hart.opnd d s.hart.ew1 []
     Delivered s [ob] [od] v → v.hart.writeStream? od = none →
     let own := v.fab.device.toNat
     let place := fun i => remoteIndex s.hart.ew2 (v.hart.elems ob i)
     let va := fun i => v.hart.readS a + BitVec.ofNat 64 ((place i).2 * (s.hart.ew1 / 8))
     (∀ i ∈ v.hart.activeList, inScratchSpace (va i) = false) →
     ReadsAll v u (s.hart.ew1 / 8) ((v.hart.activeList.filter fun i => (place i).1 == own).map fun i => (i, [va i])) vs →
     (∀ i ∈ v.hart.activeList, (place i).1 ≠ own → u.answerOf (place i).1 = some 0 ∧
       ∀ spa, Config.peerTranslate (place i).1 v.hart.ctxid.toNat (va i) = some spa →
         u.claimed (peerKey spa) (s.hart.ew1 / 8) = false) →
     ∃ t, exec (.rget d a b) s = .next t ∧
       VecWritten { u.answered with ticks := u.ticks + 1 } t od 0
         (fun i => if (place i).1 = own then fieldOf vs 0 i else u.peerValue (place i).1 (va i) (s.hart.ew1 / 8)) {}) ∧
   (∀ (s : State) d a b, s.Lanes → (s.hart.ew2 = 32 ∨ s.hart.ew2 = 64) → s.hart.ew1 ≠ 4 → s.hart.groupOk d s.hart.ew1 = true →
     s.hart.groupOk b s.hart.ew2 = true → s.hart.remoteEn = false →
     Delivered s [s.hart.opnd b s.hart.ew2 []] [s.hart.opnd d s.hart.ew1 []] s →
     exec (.rget d a b) s = .next (s.trapOf (.rget d a b) (.access (s.hart.readS a))))) ∧
  ((∀ (s v u : State) d a xs, s.Lanes → s.hart.groupOk d s.hart.ew1 = true → s.hart.remoteEn = true →
     let od := s.hart.opnd d s.hart.ew1 []
     Delivered s [od] [] v →
     v.planPut (elemBytes s.hart.ew1)
       (v.hart.activeList.map fun i => (i, v.hart.readS a + BitVec.ofNat 64 (i * s.hart.ew1 / 8))) = .ok xs →
     u = xs.foldl (fun t x => t.putElem s.hart.ew1 x.1 (v.hart.elems od x.1) (x.2.headD [])) v →
     exec (.rput d a) s = .next (State.past { u with hart := u.hart.restart })) ∧
   (∀ (s : State) w i v va len dev spa, s.peerStatus s.hart.ctxid.toNat dev = 0 → len = elemBytes w →
     ∃ u o, s.putElem w i v [⟨va, len, .peer dev spa⟩] = u ∧ u = { s with peers := u.peers } ∧
       u.peers.ops = s.peers.ops ++ [o] ∧ u.peers.failures = s.peers.failures ∧ u.peers.nextOp = s.peers.nextOp + 1 ∧
       o.hart = s.hart.num ∧ o.ctx = s.hart.ctxid.toNat ∧ o.dev = dev ∧ o.num = s.peers.nextOp ∧
       (w ≠ 4 → o.q = [.store spa (leBytes len v)]) ∧
       (w = 4 → o.q = [.nibble spa (i % 2 == 1) (BitVec.ofNat 4 v)])) ∧
   (∀ (s : State) w i v va len dev spa, s.peerStatus s.hart.ctxid.toNat dev ≠ 0 →
     ∃ u f, s.putElem w i v [⟨va, len, .peer dev spa⟩] = u ∧ u = { s with peers := u.peers } ∧
       u.peers.ops = s.peers.ops ∧ u.peers.failures = s.peers.failures ++ [f] ∧
       s.hart.owns f = true ∧ f.dev = dev ∧ f.status = s.peerStatus s.hart.ctxid.toNat dev) ∧
   (∀ s : State, s.hart.isCtl = false →
     (s.hart.remoteEn = false → exec .rflush s = .next (s.trapOf .rflush (.access 0))) ∧
     (s.hart.remoteEn = true → s.ownOps ≠ [] → exec .rflush s = .next s.waits) ∧
     (s.hart.remoteEn = true → s.ownOps = [] → s.peers.failures.find? s.hart.owns = none → exec .rflush s = .next s.past) ∧
     (s.hart.remoteEn = true → s.ownOps = [] → ∀ f, s.peers.failures.find? s.hart.owns = some f →
       exec .rflush s = .next (State.trapOf
         { s with peers := { s.peers with failures := s.peers.failures.filter fun g => !s.hart.owns g } } .rflush
         (.remote f.dev f.status)))) ∧
   (∀ (s : State) n dev status, n < 1152 → (s.hartAt n).num = n →
     (dev ∈ (s.hartAt n).asked → ∃ u : State, exec (.peerReply n dev status) s = .next u ∧ u.mem = s.mem ∧
       u.hartAt n = { s.hartAt n with asked := (s.hartAt n).asked.filter (· != dev),
                                      replies := (s.hartAt n).replies ++ [(dev, status)] }) ∧
     (dev ∉ (s.hartAt n).asked → (∀ o ∈ s.peers.ops, ¬ (o.hart = n ∧ o.dev = dev)) →
       exec (.peerReply n dev status) s = .next s) ∧
     (dev ∉ (s.hartAt n).asked → (∃ o ∈ s.peers.ops, o.hart = n ∧ o.dev = dev) →
       ∃ o ∈ s.peers.ops, o.hart = n ∧ o.dev = dev ∧
       let held := ∃ q ∈ o.q, s.claimed (peerKey (rangeOf q).1) (rangeOf q).2 = true
       (status = 0 → held → exec (.peerReply n dev status) s = .next s) ∧
       (status ≠ 0 ∨ ¬ held → ∃ u : State, exec (.peerReply n dev status) s = .next u ∧
         u.peers.ops = s.peers.ops.filter (·.num != o.num) ∧ u.hart = s.hart ∧ u.parked = s.parked ∧
         (status = 0 → u.mem = (o.q.foldl State.performAt s).mem ∧ u.peers.failures = s.peers.failures) ∧
         (status ≠ 0 → u.mem = s.mem ∧ u.peers.failures = s.peers.failures ++
           [⟨n, o.ctx, o.slot, o.gen, o.node, o.pc, dev, status⟩]))))) ∧
  (∀ (s : State) (d a b : BitVec 5) (c : BitVec 4) (w : BitVec 1), s.hart.isCtl = false → c.toNat < 10 → s.hart.remoteEn = true →
     let n := if w = 0 then 4 else 8
     let va := s.hart.readS a
     let x := (s.hart.readS b).toNat % 2 ^ (8 * n)
     let cmp := (s.hart.readS d).toNat % 2 ^ (8 * n)
     let result := fun old : Nat => if n = 4 then BitVec.ofInt 64 (toS 32 old) else BitVec.ofNat 64 old
     let q := PeerAccess.atom c n
     (va.toNat % n ≠ 0 → exec (.ratom d a b c w) s = .next (s.trapOf (.ratom d a b c w) (.misalign va))) ∧
     (va.toNat % n = 0 → ∀ ps, s.checkPut .atomic va n = .ok ps →
       ((∀ p ∈ ps, ∀ dev spa, p.place ≠ .peer dev spa) → ∀ old t,
         s.atomicN va n (fun old => atomOp c.toNat (8 * n) old x cmp) = .ok old t →
         exec (.ratom d a b c w) s = .next (t.answered.setS d (result old)).past) ∧
       (∀ va' len dev spa, ps = [⟨va', len, .peer dev spa⟩] →
         (d = 0 → exec (.ratom d a b c w) s = .next (s.sendOff dev [q spa (s.hart.readS b) 0]).past) ∧
         (d ≠ 0 → s.answerOf dev = none →
           exec (.ratom d a b c w) s = .next (State.waits { s with hart := { s.hart with asked := [dev] } })) ∧
         (d ≠ 0 → s.answerOf dev = some 0 → s.claimed (peerKey spa) n = true → exec (.ratom d a b c w) s = .next s.waits) ∧
         (d ≠ 0 → s.answerOf dev = some 0 → s.claimed (peerKey spa) n = false →
           exec (.ratom d a b c w) s = .next ((s.performAt (q spa (s.hart.readS b) (s.hart.readS d))).answered.setS d
             (result (Memory.readLE s.mem (peerKey spa) n))).past) ∧
         (d ≠ 0 → ∀ st, s.answerOf dev = some st → st ≠ 0 →
           exec (.ratom d a b c w) s = .next (s.answered.trapOf (.ratom d a b c w) (.remote dev st))))))

/-- CRED and CBCAST (07 R268, R270): a legal block whose list names each device once and this one among them goes to the hods; a
malformed one traps REMOTE with status 8, and one in scratchpad space ACCESS (03 R107); that a list at an address that is no
multiple of 64 traps MISALIGN is the model's choice (log 67). A hod moves one tile of 4 KiB at a time of a
collective that may run; a member that does not take the result writes nothing. The end of a collective and the requests of
peers (07 R263 to R270; 13 R385, R386): before data moves, a disagreement ends it with status 6 and a timeout with 7 while its
context runs; one with a member that no port leads to ends with status 4 (13 R390, R391), and one whose ranges touch fenced memory with
8 (15 R425). A device without a port that carries peer traffic takes no request (13 R390); a request for a context without tables is
answered with status 5, one to fenced memory with 4 (15 R425), and one that its checks let through is performed and answered with
status 0, unless a claimed granule holds it back. -/
def Obligations.Collectives : Prop :=
  (∀ (s s1 s2 : State) (op : Nat) mk (a : BitVec 5) b l, (op, mk) ∈ [(4, Instr.cred), (5, .cbcast)] → s.hart.isCtl = false →
     let va := s.hart.readS a
     let own := s.fab.device.toNat
     let c := CollBlock.ofNat b
     (s.hart.remoteEn = false → exec (mk a) s = .next (s.trapOf (mk a) (.access va))) ∧
     (s.hart.remoteEn = true → va.toNat % 64 ≠ 0 → exec (mk a) s = .next (s.trapOf (mk a) (.misalign va))) ∧
     (s.hart.remoteEn = true → va.toNat % 64 = 0 → inScratchSpace va = true →
       exec (mk a) s = .next (s.trapOf (mk a) (.access va))) ∧
     (s.hart.remoteEn = true → va.toNat % 64 = 0 → scratchDenied va.toNat 64 = [] → s.loadN va 64 = .ok b s1 → s1.hart = s.hart →
       (c.ok op = false → exec (mk a) s = .next (s1.trapOf (mk a) (.remote own 8))) ∧
       (c.ok op = true →
         (List.range c.ndev).mapM (m := Act) (fun i => Act.loadOutside (plus (BitVec.ofNat 64 c.list) i) 1) s1 = (.ok l, s2) →
         s2.hart = s.hart →
         (listOk own l = false → exec (mk a) s = .next (s2.trapOf (mk a) (.remote own 8))) ∧
         (listOk own l = true →
           let pos := l.findIdx (· == own)
           let e := s.hart.hodEnv (s2.nextHod l)
           let src := s2.pinHod e .load (c.gives op pos) c.srca c.bytes
           let dst := s2.pinHod e .store (c.receives op pos) c.dsta c.bytes
           let fin := s2.pinHod e .store true c.done 8
           src.2 = [] → dst.2 = [] → fin.2 = [] →
           exec (mk a) s = .next (s2.enqueue {
             id := s2.stamp, kind := .hod, unit := s2.nextHod l, op := op, blockVa := va, block := leBytes 64 b,
             done := some (BitVec.ofNat 64 c.done), env := e, hart := s.hart.num,
             launch := s.hart.block.map fun k => (k.slot, k.node, k.gen), stamp := none, src := src.1, dst := [dst.1],
             fin := fin.1, claimed := false, tiles := [], status := none, extra := l }).past)))) ∧
  ((∀ (s : State) id agree parts, s.collectiveOf id = none →
     exec (.collectiveComplete id agree parts) s = .next s ∧ exec (.collectiveTimeout id) s = .next s ∧
     exec (.hodTileTransfer ⟨id, parts⟩) s = .next s) ∧
   (∀ (s : State) id parts k, s.collectiveOf id = some k →
     exec (.collectiveComplete id false parts) s = .next (if k.at_ = 0 then s.complete k 6 0 else s) ∧
     exec (.collectiveTimeout id) s = .next (if s.cx.state k.env.ctx = 1 ∧ k.at_ = 0 then s.complete k 7 0 else s) ∧
     ((∃ d ∈ k.extra, d ≠ s.fab.device.toNat ∧ s.exitPort d (CollBlock.ofNat (leNat k.block)).dsta = none) → s.hodStatus k = 4) ∧
     ((∀ d ∈ k.extra, d ≠ s.fab.device.toNat → (s.exitPort d (CollBlock.ofNat (leNat k.block)).dsta).isSome = true) →
       s.hodStatus k = if s.fencedParts (k.src ++ k.dst.flatten) then 8 else 0) ∧
     (∀ i ∈ [Instr.hodTileTransfer ⟨id, parts⟩, .collectiveComplete id true parts],
       (s.hodStatus k ≠ 0 → exec i s = .next (s.endHod k (s.hodStatus k))) ∧
       (s.hodStatus k = 0 → s.mayRun k = false → exec i s = .next s)) ∧
     (s.hodStatus k = 0 → s.mayRun k = true →
        ∃ u : State, exec (.hodTileTransfer ⟨id, parts⟩) s = .next u ∧ u.hart = s.hart ∧ u.parked = s.parked ∧
       u.fe = s.fe ∧ u.cmds.length = s.cmds.length ∧
       ∃ k' ∈ u.cmds, k'.id = id ∧ k'.at_ = k.at_ + min 4096 k.left ∧ { k' with at_ := k.at_, ends := k.ends } = k) ∧
     (s.hodStatus k = 0 → s.mayRun k = true → exec (.collectiveComplete id true parts) s = .next (s.endCollective k parts))) ∧
   (∀ (s : State) (k : Command) parts n,
     let c := CollBlock.ofNat (leNat k.block)
     let own := s.fab.device.toNat
     let pos := k.extra.findIdx (· == own)
     c.receives k.op pos = false → (s.moveTile k parts n).1.mem = s.mem) ∧
   (∀ (s : State) (src : BitVec 8) ctx q r, (∀ p < 18, s.carries p = false) →
     exec (.remoteRequestAtPeer src ctx q) s = .next s ∧ exec (.peerAccessArrival src ctx r) s = .next s) ∧
   (∀ (s : State) p, s.carries p = true → s.fab.enumerated = true ∧ (s.bank (710 + p)).fenced = false ∧
     Table.find? s.fab.partners p ≠ some s.fab.device.toNat) ∧
   (∀ (s : State) (src : BitVec 8) ctx q r, (∃ p < 18, s.carries p = true) → ((s.ctxOf ctx).st = 0 ∨ (s.ctxOf ctx).st = 4) →
     exec (.remoteRequestAtPeer src ctx q) s = .next (s.answer 5 []) ∧
     exec (.peerAccessArrival src ctx r) s = .next (s.answer 5 [])) ∧
   (∀ (s : State) (src : BitVec 8) ctx, (∃ p < 18, s.carries p = true) → (s.ctxOf ctx).st ≠ 0 → (s.ctxOf ctx).st ≠ 4 →
     let r := (s.ctxOf ctx).live
     let e := r.peerEnv ctx src.toNat
     (∀ va data ps, s.serveVa r e .store va data.length = .ok ps → s.fencedParts ps = true →
       exec (.remoteRequestAtPeer src ctx (.put va data)) s = .next (s.answer 4 [])) ∧
     (∀ va data ps, s.serveVa r e .store va data.length = .ok ps → s.fencedParts ps = false →
       exec (.remoteRequestAtPeer src ctx (.put va data)) s =
         .next (if s.held ps then s else (s.writeParts e ps data).answer 0 [])) ∧
     (∀ va data st, s.serveVa r e .store va data.length = .error st →
       exec (.remoteRequestAtPeer src ctx (.put va data)) s = .next (s.answer st [])) ∧
     (∀ spa n k h p, s.serveSpa r e .load spa n = .ok [⟨BitVec.ofNat 64 spa, n, .mem k h p⟩] → s.claimed k n = false →
       s.fencedParts [⟨BitVec.ofNat 64 spa, n, .mem k h p⟩] = false →
       s.readCheck k n = (s, none) →
       exec (.peerAccessArrival src ctx (.load spa n)) s = .next (s.answer 0 (Memory.readBytes s.mem k n))) ∧
     (∀ spa data ps, s.serveSpa r e .store spa data.length = .ok ps → s.fencedParts ps = false → s.held ps = false →
       exec (.peerAccessArrival src ctx (.store spa data)) s = .next ((s.writeParts e ps data).answer 0 []))))

/-- REP (01 R44 to R46): the word after the prefix runs COUNT times from REPIDX on, with its selected register fields stepped,
and the pc goes past both words with REPIDX 0; a repetition that traps leaves its number in REPIDX; a prefix or a word that
fails the checks traps ILLEGAL with both words in XTVAL, and so does any prefix on a control hart. Where REPIDX is past the last
repetition, the prefix completes without one and clears REPIDX (the model's choice, log 67). A word that REP repeats does
what it does where it stands alone (01 R44): the effect that a repetition runs is the one that the instruction's own meaning
ends with. -/
def Obligations.RepeatPrefix : Prop :=
  (∀ (s t : State) (count : BitVec 6) (sel : BitVec 3) (step : BitVec 2) (x : IWord),
     let p := repPrefix count sel step
     let i := Instr.rep count sel step
     (s.hart.isCtl = true → exec i s = .next (s.takeTrap ⟨p.setWidth 64, false, false, false, false⟩ .illegal)) ∧
     (s.hart.isCtl = false → s.fetch (s.hart.pc + 4) = .word x t →
       (repOk p x = false →
         exec i s = .next (t.takeTrap ⟨x.setWidth 64 <<< 32 ||| p.setWidth 64, false, false, false, true⟩ .illegal)) ∧
       (repOk p x = true → ∀ f : Nat → State, f t.hart.repidx.toNat = t →
         (t.hart.repidx.toNat ≤ count.toNat + 1 → RepetitionsDone p x t.hart.repidx.toNat (count.toNat + 1) f →
           exec i s = .next (((f (count.toNat + 1)).setRepidx 0).setPc ((f (count.toNat + 1)).hart.pc + 8))) ∧
         (∀ j c u, t.hart.repidx.toNat ≤ j → j ≤ count.toNat → RepetitionsDone p x t.hart.repidx.toNat j f →
           wordEff (repWord p x j) (f j) = .trap c u →
           exec i s = .next (u.trapInRep p (repWord p x j) j c))))) ∧
  (∀ (i : Instr) (w : IWord) (s : State), encode i = some w → 0x10 ≤ majorOf w → majorOf w ≤ 0x2B → s.hart.isCtl = false →
     exec i s = .next (State.finish w (wordEff w s)))

/-- The steps of the engines (07 R255, R258; 08 R280, R282): an engine without a command does nothing, the first of a die
engine's queue runs when it may, and its end takes it out of its queue with its claims; a command that ended and could not
write its DONE word tries again; one whose ranges lie in fenced memory ends with status 8 (15 R425). One that a stop left
part-way makes the rest of its writes, the same in memory as without the stop (03 R138); a copy stops only where a 64-byte
segment of its destination ends (07 R259), and a topology or colouring command only where a brick's or 64 faces' writes end
(08 R283). The classes of a colouring (08 R298): no two faces of one class below the overflow class touch a common cell, and
each face takes the lowest class that it can. The parts of MSHCUT (08 R295) never fall along the order of the cells and lie
below their number. -/
def Obligations.EnginesRun : Prop :=
  ((∀ (s : State) die, s.queueOf .topology die = [] → exec (.topologyCommandRun die) s = .next s) ∧
   (∀ (s : State) die, s.queueOf .colouring die = [] → exec (.colouringCommandRun die) s = .next s) ∧
   (∀ (s : State) die, s.binHead die 1 = false → exec (.binAppendWrite die) s = .next s) ∧
   (∀ (s : State) die, s.binHead die 2 = false → exec (.binningCommandRun die) s = .next s) ∧
   (∀ (s : State) core, s.copyQueue core = [] → exec (.copyCommandRun core) s = .next s) ∧
   (∀ (s : State) e k, (∀ c ∈ s.queueOf e k, s.tryIssue c = none) → exec (.commandClaimRegistration e k) s = .next s) ∧
   (∀ (s t : State) e n k ks, s.queueOf e n = k :: ks → s.tryIssue k = some t → exec (.commandClaimRegistration e n) s = .next t) ∧
   (∀ (s : State) (i : Instr) e die k ks body, (i, e, body) ∈
       [(Instr.topologyCommandRun die, EngineKind.topology, Eng.run k (runTopology k)),
        (.colouringCommandRun die, .colouring, Eng.run k (runClrgen k)), (.binAppendWrite die, .binning, runAppend k k.extra),
         (.binningCommandRun die, .binning, runBinplay k)] →
     s.queueOf e die = k :: ks → (i = .binAppendWrite die → s.binHead die 1 = true) →
     (i = .binningCommandRun die → s.binHead die 2 = true) →
     (∀ c d, k.status = some (c, d) → exec i s = .next (s.complete k c d)) ∧
     (k.status = none → s.mayRun k = false → exec i s = .next s) ∧
     (k.status = none → s.mayRun k = true → s.fencedParts (k.src ++ k.dst.flatten) = true →
       ∃ t : State, t.mem = s.mem ∧ exec i s = .next (t.complete k 8 0)) ∧
     (k.status = none → s.mayRun k = true → s.fencedParts (k.src ++ k.dst.flatten) = false → ∀ t : State,
       (body s = (.ok (), t) → exec i s = .next (t.complete k 0 0)) ∧
       (body s = (.error .hold, t) → exec i s = .next s) ∧
       (∀ d, body s = (.error (.status 8 d), t) → ∃ u : State, u.mem = t.mem ∧ exec i s = .next (u.complete k 8 d)) ∧
       (∀ c d, c ≠ 8 → body s = (.error (.status c d), t) → exec i s = .next (t.complete k c d)))) ∧
   (∀ (s : State) core k, (s.copyQueue core).find? (fun k => k.status.isSome || s.mayRun k) = some k →
     (∀ c d, k.status = some (c, d) → exec (.copyCommandRun core) s = .next (s.complete k c d)) ∧
     (k.status = none → exec (.copyCommandRun core) s = .next (s.runCopy k))) ∧
   (∀ (xs : List Elem) n x y, 0 < n → n ∈ copyStops xs → xs[n - 1]? = some x → xs[n]? = some y →
     (x.1 + x.2.1.length - 1) / 64 ≠ y.1 / 64) ∧
   (∀ (s : State) (k : Command) (xs : List Elem) (n : Nat), (∀ p ∈ k.dst.flatten, p.place.key?.isSome = true) → k.at_ ≤ n →
     n ≤ xs.length → ((s.copyTo k xs n).copyTo { k with at_ := n } xs xs.length).mem = (s.copyTo k xs xs.length).mem) ∧
   (∀ (ws : List EngWrite) n, n ∈ unitStops ws → 0 < n ∧ ∃ x, ws[n - 1]? = some x ∧ x.2.2 = true) ∧
   (∀ (s t u v : State) (k : Command) (ws : List EngWrite) (n : Nat),
     (∀ p ∈ k.src ++ k.dst.flatten, ∃ key h q, p.place = .mem key h q) →
     (∀ x ∈ ws, ((pinned (k.src ++ k.dst.flatten) x.2.1.length (BitVec.ofNat 64 x.1).toNat x.2.1.length).map Part.len).sum =
       x.2.1.length) →
     Eng.writeAll k ws s = (.ok (), t) → Eng.writeAll k (ws.take n) s = (.ok (), u) →
     Eng.writeAll k (ws.drop n) u = (.ok (), v) → v.mem = t.mem) ∧
   (∀ (s t : State) (k : Command) plan p, k.rest = [] → plan s = (.ok p, t) →
     Eng.run k plan s = (do Eng.writeAll k p.writes; Eng.require (p.status = 0) p.status p.detail : Eng Unit) t) ∧
   (∀ (s : State) (k : Command) plan, k.rest ≠ [] →
     Eng.run k plan s =
       (do Eng.writeAll k (k.rest.drop k.at_); Eng.require (k.ends.1 = 0) k.ends.1 k.ends.2 : Eng Unit) s) ∧
   (∀ (s : State) (k : Command) st d, k.fin = [] → k.hart ≠ copyNodeHart → st ≠ 0 → s.powered = true →
     ∃ u, s.complete k st d = u ∧ u.hart = s.hart ∧ u.mem = s.mem ∧ (∀ c, c ∈ u.claims ↔ c ∈ s.claims ∧ c.cmd ≠ k.id) ∧
       ∀ c, c ∈ u.cmds ↔ c ∈ s.cmds ∧ c.id ≠ k.id)) ∧
  ((∀ (n : Nat) (faces : List (List Nat)) (i j c : Nat) x y, i < j → faces[i]? = some x → faces[j]? = some y →
     (colours (List.replicate n []) faces)[i]? = some c → (colours (List.replicate n []) faces)[j]? = some c → c < n →
     ∀ cell ∈ x, cell ∉ y) ∧
   (∀ (n : Nat) (faces : List (List Nat)) (j c k : Nat) y, faces[j]? = some y →
     (colours (List.replicate n []) faces)[j]? = some c → c ≤ n ∧ (k < c →
       ∃ i < j, (colours (List.replicate n []) faces)[i]? = some k ∧ ∃ x, faces[i]? = some x ∧ ∃ cell ∈ x, cell ∈ y)) ∧
   (∀ (n tot sum : Nat) (ws : List Nat), 1 ≤ n →
     (cutParts n tot sum ws).length = ws.length ∧ (∀ p ∈ cutParts n tot sum ws, p < n) ∧
     (cutParts n tot sum ws).Pairwise (· ≤ ·)))

/-- KICK and TAKE (13 R361): a kick sets the pending bits of its word once the module serves and is not in recovery; a take
moves those of its word that are pending into TAKEN; neither touches anything else. SLOT_TAKE and REPLAY_END (13 R362 to R366,
R375): the slot whose turn it is is taken, and either starts a replay with the next generation or is dropped with its error; a
replay that may end writes its record, sends its message and frees its slot. The loss of control harts (13 R378; 14 R395): a
missing heartbeat halts the primary and begins a take-over; one that is not done in time loses the front end; an uncorrectable
error halts a control hart, a corrected one is recorded, and a reload whose image is authentic and that passes its test brings it
back, as the housekeeper or where there is no standby as the standby; one that does not never does (14 R395). While a take-over
lasts no pending slot is taken and the standby lists them (14 R397). A replay without another fault whose remote operations failed
reports the oldest failure as a fault of kind 4 (07 R265; 13 R376). -/
def Obligations.FrontEndEvents : Prop :=
  ((∀ (s : State) (w : BitVec 4) bits, s.fw.served = true → s.fw.recovery = false → s.powered = true →
     ∃ u : State, exec (.kick w bits) s = .next u ∧ u = { s with fe := { s.fe with pend := u.fe.pend } } ∧
       ∀ n < 1024, u.fe.pend.getLsbD n = (s.fe.pend.getLsbD n || (decide (n / 64 = w.toNat) && bits.getLsbD (n % 64)))) ∧
   (∀ (s : State) w bits, (s.fw.served = false ∨ s.fw.recovery = true ∨ s.powered = false) → exec (.kick w bits) s = .next s) ∧
   (∀ (s : State) (w : BitVec 4) bits, ∃ u : State, exec (.take w bits) s = .next u ∧
     u = { s with fe := { s.fe with pend := u.fe.pend, taken := u.fe.taken } } ∧
     ∀ n < 1024,
       u.fe.pend.getLsbD n = (s.fe.pend.getLsbD n && !(decide (n / 64 = w.toNat) && bits.getLsbD (n % 64))) ∧
       u.fe.taken.getLsbD n =
         (s.fe.taken.getLsbD n || (s.fe.pend.getLsbD n && decide (n / 64 = w.toNat) && bits.getLsbD (n % 64))))) ∧
  ((∀ (s : State) slot, (s.fe.lost = true ∨ 1024 ≤ slot ∨ s.powered = false) → exec (.slotTake slot) s = .next s) ∧
   (∀ (s : State) slot, s.fe.lost = false → slot < 1024 → s.powered = true → s.fe.taken.getLsbD slot = false →
     (s.fe.takeover = true → ∃ l, exec (.slotTake slot) s = .next { s with fe := { s.fe with listed := some l } } ∧
       (∀ k, s.fe.listed = some k → l = k) ∧ (s.fe.listed = none → ∀ n, n ∈ l ↔ n < 1024 ∧ s.fe.pend.getLsbD n = true)) ∧
     (s.fe.takeover = false → s.nextSlot ≠ some slot → exec (.slotTake slot) s = .next s) ∧
     (s.fe.takeover = false → s.nextSlot = some slot → ∀ e, e ≠ 0 → s.slotErr slot = some e →
       ∃ u : State, exec (.slotTake slot) s = .next u ∧ u.fe.pend.getLsbD slot = false ∧ u.fe.lastTaken = slot ∧
         (u.fe.slot slot).err = e ∧ u.fe.active = s.fe.active ∧ u.fe.replays = s.fe.replays ∧ u.mem = s.mem ∧ u.hart = s.hart) ∧
     (s.fe.takeover = false → s.nextSlot = some slot → s.slotErr slot = some 0 → s.snapshotWaits slot = false →
       ∃ u : State, exec (.slotTake slot) s = .next u ∧ u.fe.pend.getLsbD slot = false ∧ u.fe.lastTaken = slot ∧
         u.fe.active.getLsbD slot = true ∧ (u.fe.slot slot).gen = nextGen (s.fe.slot slot).jgen)) ∧
   (∀ (s : State) slot, s.fe.live slot = none → exec (.replayEnd slot) s = .next s) ∧
   (∀ (s : State) slot r, s.fe.live slot = some r → (s.mayEnd r = false ∨ s.powered = false) → exec (.replayEnd slot) s = .next s) ∧
   (∀ (s : State) (r : Replay),
     ((∀ f ∈ s.peers.failures, ¬ (f.slot = r.slot ∧ f.gen = r.gen)) → s.withFailure r = r) ∧
     (r.st ≠ 0 → r.fault = none → ∀ f, s.peers.failures.find? (fun f => f.slot == r.slot && f.gen == r.gen) = some f →
       ∃ k, (s.withFailure r).fault = some k ∧ k.kind = 4 ∧ k.cause = f.status ∧ k.node = f.node ∧ k.xepc = f.pc ∧
         { s.withFailure r with st := r.st, fault := r.fault } = r) ∧
     (r.fault.isSome = true → (s.withFailure r).fault = r.fault)) ∧
   (∀ (s t t' : State) slot r q x y, slot < 1024 → s.fe.live slot = some r → s.mayEnd r = true → s.powered = true → q = s.withFailure r →
     s.tick.feStore (s.tick.ctxOf r.ctx).live (r.compla + 2) (q.record s.tick.clock) = .ok x t →
     t.feStore (s.tick.ctxOf r.ctx).live r.compla (leBytes 2 r.gen) = .ok y t' → t'.cx.busy = 0 →
     ∃ u : State, exec (.replayEnd slot) s = .next u ∧ u.mem = t'.mem ∧ u.host.msix = t'.host.msix ++ r.msix.toList ∧
       u.fe.active.getLsbD slot = false ∧ (∀ l ∈ u.fe.launches, ¬ (l.slot = slot ∧ l.gen = r.gen)) ∧
       (∀ m ∈ u.fe.mortar, ¬ (m.slot = slot ∧ m.gen = r.gen)))) ∧
  ((∀ s : State, (s.fe.lost = true ∨ s.fe.takeover = true ∨ 3 ≤ s.fe.primary) → exec .heartbeatTimeout s = .next s) ∧
   (∀ s : State, s.fe.lost = false → s.fe.takeover = false → s.fe.primary < 3 → s.fe.standby ≠ 3 →
     (s.hartAt (1152 + s.fe.primary)).num = 1152 + s.fe.primary →
     ∃ u : State, exec .heartbeatTimeout s = .next u ∧ (u.hartAt (1152 + s.fe.primary)).st = .halted ∧
       u.fe = { s.fe with takeover := true, hold := true, fencedCtl := some s.fe.primary, listed := none } ∧ u.mem = s.mem) ∧
   (∀ s : State, s.fe.takeover = false → exec .takeoverTimeout s = .next s) ∧
   (∀ s : State, s.fe.takeover = true → ∃ u : State, exec .takeoverTimeout s = .next u ∧ u.fe.lost = true ∧
     u.fe.takeover = false ∧ u.fe.standby = 3 ∧ ∀ r ∈ u.fe.replays, r.st ≠ 0 → r.fault.isSome = true) ∧
   (∀ (s : State) n addr e, e ≠ .corrected → (3 ≤ n ∨ (s.hartAt (1152 + n)).st = .halted) →
     exec (.controlHartMemoryError n addr e) s = .next s) ∧
   (∀ (s : State) n addr, ∃ u : State, exec (.controlHartMemoryError n addr .corrected) s = .next u ∧
     u.hart = s.hart ∧ u.parked = s.parked ∧ u.mem = s.mem ∧ u.fe = s.fe ∧
     (n < 3 → ((u.bank 708).ncorr = (s.bank 708).ncorr + 1))) ∧
   (∀ (s : State) n addr e, e ≠ .corrected → n < 3 → (s.hartAt (1152 + n)).st ≠ .halted → (s.hartAt (1152 + n)).num = 1152 + n →
     ∃ u : State, exec (.controlHartMemoryError n addr e) s = .next u ∧ (u.hartAt (1152 + n)).st = .halted ∧
       (u.hartAt (1152 + n)).xepc = (s.hartAt (1152 + n)).pc) ∧
   (∀ (s : State) n pass, (3 ≤ n ∨ (s.hartAt (1152 + n)).st ≠ .halted ∨ n ∈ s.fe.failedCtl ∨ (n = s.fe.primary ∧ n ≠ 2)) →
     exec (.controlHartReload n pass) s = .next s) ∧
   (∀ (s : State) n pass, n < 3 → (s.hartAt (1152 + n)).st = .halted → n ∉ s.fe.failedCtl → ¬ (n = s.fe.primary ∧ n ≠ 2) →
     (pass = false ∨ s.fw.accepts (s.fw.image s.fw.booted) = false →
       exec (.controlHartReload n pass) s = .next { s with fe := { s.fe with failedCtl := n :: s.fe.failedCtl } }) ∧
     (pass = true → s.fw.accepts (s.fw.image s.fw.booted) = true →
       ∃ u : State, exec (.controlHartReload n pass) s = .next u ∧ u.hartAt (1152 + n) = Hart.reset (1152 + n) ∧
         (n = 2 → u.fe.housekeeper = true) ∧
         (n ≠ 2 → s.fe.standby = 3 → s.fe.takeover = false → u.fe.standby = n) ∧
         (n ≠ 2 → s.fe.standby ≠ 3 ∨ s.fe.takeover = true → u.fe.standby = s.fe.standby))))

/-- The nodes that read a word (13 R370, R371): a conditional, a switch and a loop enter the range that the word chooses and
complete, or, for a loop that is entered, wait for their body; a loop's end reads the word again, and an event wait completes
when it differs from its value. -/
def Obligations.WordNodes : Prop :=
  (∀ (s : State) slot i j, (∀ x, s.evaluating slot ≠ some x) →
    j ∈ [Instr.conditionalNode slot i, .switchNode slot i, .loopNode slot i, .loopBodyEnd slot i, .eventWaitNode slot i,
      .eventSignalNode slot i, .selfTestNode slot i, .endNode slot i, .kernelNodeLaunch slot i, .copyNode slot i] →
    exec j s = .next s) ∧
  (∀ (s t : State) slot i r g c v, s.AtNode slot i 3 r g c → s.feLoad c (BitVec.ofNat 64 (g.node i 32 8)) 8 = .ok v t →
    ∃ u q : _, exec (.conditionalNode slot i) s = .next u ∧ Journaled u q ∧ q.nodeSt i = 3 ∧ q.nrun = r.nrun + 1 ∧
      q = (g.enter r i ((g.ranges i)[if v = 0 then 1 else 0]?)).completeNode i ∧ u.mem = t.mem) ∧
  (∀ (s t : State) slot i r g c v, s.AtNode slot i 5 r g c → s.feLoad c (BitVec.ofNat 64 (g.node i 32 8)) 8 = .ok v t →
    ∃ u q : _, exec (.switchNode slot i) s = .next u ∧ Journaled u q ∧ q.nodeSt i = 3 ∧ q.nrun = r.nrun + 1 ∧
      q = (g.enter r i ((g.ranges i)[min v (g.node i 40 1 - 1)]?)).completeNode i ∧ u.mem = t.mem) ∧
  (∀ (s t : State) slot i r g c v, s.AtNode slot i 4 r g c → s.feLoad c (BitVec.ofNat 64 (g.node i 32 8)) 8 = .ok v t →
    ∃ u q : _, exec (.loopNode slot i) s = .next u ∧ Journaled u q ∧ u.mem = t.mem ∧
      (v = 0 → q.nodeSt i = 3 ∧ q = (g.enter r i none).completeNode i) ∧
      (v ≠ 0 → q.nodeSt i = 2 ∧ Table.get q.loops (g.node i 48 1) 0 = 1)) ∧
  (∀ (s t : State) slot i r g c v lo hi, s.evaluating slot = some (r, g, c) → g.kind i = 4 → r.nodeSt i = 2 →
    g.ranges i = [(lo, hi)] → (∀ n, lo ≤ n → n < hi → r.done n = true) →
    s.feLoad c (BitVec.ofNat 64 (g.node i 32 8)) 8 = .ok v t →
    ∃ u q : _, exec (.loopBodyEnd slot i) s = .next u ∧ Journaled u q ∧ u.mem = t.mem ∧
      (v ≠ 0 → Table.get r.loops (g.node i 48 1) 0 < g.node i 44 4 →
        (∀ n, lo ≤ n → n < hi → q.nodeSt n = 0) ∧
        Table.get q.loops (g.node i 48 1) 0 = Table.get r.loops (g.node i 48 1) 0 + 1 ∧ q.maxiter = r.maxiter) ∧
      (v = 0 → q.nodeSt i = 3 ∧ q.maxiter = r.maxiter) ∧
      (v ≠ 0 → g.node i 44 4 ≤ Table.get r.loops (g.node i 48 1) 0 → q.nodeSt i = 3 ∧ q.maxiter = true)) ∧
  (∀ (s t : State) slot i r g c v, s.AtNode slot i 6 r g c → g.node i 48 1 = 0 →
    s.feLoad c (BitVec.ofNat 64 (g.node i 32 8)) 8 = .ok v t →
    ∃ u q : _, exec (.eventWaitNode slot i) s = .next u ∧ Journaled u q ∧ u.mem = t.mem ∧
      (v ≠ g.node i 40 8 → q.nodeSt i = 3) ∧ (v = g.node i 40 8 → q.nodeSt i = 2))

/-- Event signals, the end node, self-test nodes and the completion of nodes (13 R370, R372, R377; 10 R336): the word is stored
and the message sent; the end node completes with no earlier node left to launch; each core that a self-test node names is put
in test, and the node completes when the tests have ended; a die drops the packets of a node that was reported. Kernel and copy
nodes (13 R370, R373; 10 R328, R340): the packets of a node that passes its launch checks are sent, a node without a share
completes at once and leaves no entry of an earlier launch (10 R337), one that fails a check, or whose kernel record is malformed
(04 R172), ends its replay with a fault, and a die accepts each packet once; a copy node's command goes to a copy engine of the
node's die, or fails check 6. During a take-over the dies hold their reports until no slot is TAKEN (13 R378; 14 R398). -/
def Obligations.ActionAndLaunchNodes : Prop :=
  ((∀ (s t : State) slot i r g c x, s.AtNode slot i 6 r g c → g.node i 48 1 = 1 →
     s.feStore c (BitVec.ofNat 64 (g.node i 32 8)) (leBytes 8 (g.node i 40 8)) = .ok x t →
     ∃ u q : _, exec (.eventSignalNode slot i) s = .next u ∧ Journaled u q ∧ q.nodeSt i = 3 ∧ q.nrun = r.nrun + 1 ∧ u.mem = t.mem ∧
       u.host.msix = t.host.msix ++ (if g.node i 49 1 = 1 then [g.node i 50 2] else [])) ∧
   (∀ (s : State) slot i r g c, s.AtNode slot i 8 r g c →
     ∃ u q : _, exec (.endNode slot i) s = .next u ∧ Journaled u q ∧ q.nodeSt i = 3 ∧ (∀ j < i, q.nodeSt j ≠ 0) ∧ u.mem = s.mem) ∧
   (∀ (s : State) slot i r g c, s.AtNode slot i 7 r g c →
     let cores := c.cores.filter fun k => (g.node i 32 2).testBit (k / 24) && (g.node i 36 4).testBit (k % 24)
     ((∃ k ∈ cores, (Table.find? s.rel.tests k).isSome = true) → exec (.selfTestNode slot i) s = .next s) ∧
     ((∀ k ∈ cores, Table.find? s.rel.tests k = none) → cores ≠ [] → g.node i 40 1 < 3 →
       ∃ u q : _, exec (.selfTestNode slot i) s = .next u ∧ Journaled u q ∧ q.nodeSt i = 2 ∧ u.mem = s.mem ∧
         ∀ k ∈ cores, Table.find? u.rel.tests k = some ⟨g.node i 40 1, false, some (slot, i, r.gen)⟩)) ∧
   (∀ (s : State) slot i, (s.runningGraph slot = none ∨ s.reportsHeld = true) → exec (.nodeCompletion slot i) s = .next s) ∧
   (∀ (s : State) slot i r g c, s.runningGraph slot = some (r, g, c) → s.reportsHeld = false → r.nodeSt i = 2 → g.kind i = 7 →
     ((∃ p ∈ s.rel.tests, p.2.node = some (slot, i, r.gen)) → exec (.nodeCompletion slot i) s = .next s) ∧
     ((∀ p ∈ s.rel.tests, p.2.node ≠ some (slot, i, r.gen)) →
       ∃ u q : _, exec (.nodeCompletion slot i) s = .next u ∧ Journaled u q ∧ q.nodeSt i = 3 ∧ q.nrun = r.nrun + 1)) ∧
   (∀ (s : State) slot i r g c, s.runningGraph slot = some (r, g, c) → s.reportsHeld = false → r.nodeSt i = 2 → g.kind i = 1 →
     (s.kernelDone r i = false → exec (.nodeCompletion slot i) s = .next s) ∧
     (s.kernelDone r i = true → ∃ u q : _, exec (.nodeCompletion slot i) s = .next u ∧ Journaled u q ∧ q.nodeSt i = 3 ∧
       q.nrun = r.nrun + 1 ∧ (∀ m ∈ u.fe.mortar, m.slot = r.slot → m.node = i → m.gen = r.gen → m.isSet = true) ∧
       (∀ l ∈ u.fe.launches, l.slot = r.slot → l.node = i → l.gen = r.gen → l.reported = true))) ∧
   (∀ s : State, s.reportsHeld = true ↔
     (s.fe.takeover = true ∨ s.fe.hold = true) ∧ (s.fe.takeover = true → s.fe.taken ≠ 0)) ∧
   (∀ (s : State) die slot i, ∃ u : State, exec (.completionAcknowledge die slot i) s = .next u ∧
     u = { s with fe := { s.fe with launches := u.fe.launches } } ∧
     (s.reportsHeld = true → u = s) ∧
     (s.reportsHeld = false → ∀ l, l ∈ u.fe.launches ↔
       l ∈ s.fe.launches ∧ ¬ (l.die = die ∧ l.slot = slot ∧ l.node = i ∧ l.reported = true)))) ∧
  ((∀ (s : State) slot i r g c, s.AtNode slot i 1 r g c →
     (s.relaunchWaits r g i = true → exec (.kernelNodeLaunch slot i) s = .next s) ∧
     (s.relaunchWaits r g i = false → ∀ t : State,
       (∀ l ls, Build.launch g c r i s = (.ok (l :: ls), t) → ∃ u q : _, exec (.kernelNodeLaunch slot i) s = .next u ∧
         Journaled u q ∧ q.nodeSt i = 1 ∧ u.fe.sent = t.fe.sent ++ l :: ls) ∧
       (Build.launch g c r i s = (.ok [], t) → ∃ u q : _, exec (.kernelNodeLaunch slot i) s = .next u ∧ Journaled u q ∧
         q.nodeSt i = 3 ∧ ∀ m ∈ u.fe.mortar, ¬ (m.slot = r.slot ∧ m.node = i ∧ m.gen = r.gen)) ∧
       (∀ e n, (e, n) ∈ [(LaunchStop.check n, n), (.invalid, 0)] →
          Build.launch g c r i s = (.error e, t) → ∃ u : State, exec (.kernelNodeLaunch slot i) s = .next u ∧
         (∀ q ∈ u.fe.replays, q.slot = r.slot → q.gen = r.gen → q.st ≠ 0 → q.fault.isSome = true) ∧
         (∀ l ∈ u.fe.sent, ¬ (l.slot = r.slot ∧ l.gen = r.gen))))) ∧
   (∀ (s : State) die slot i,
     (s.fe.sent.find? (fun l => l.die == die && s.cx.state l.ctx == 1) = none →
       exec (.launchPacket die slot i) s = .next s) ∧
     (∀ l, s.fe.sent.find? (fun l => l.die == die && s.cx.state l.ctx == 1) = some l →
       (l.slot ≠ slot ∨ l.node ≠ i ∨ s.fe.lost = true → exec (.launchPacket die slot i) s = .next s) ∧
       (l.slot = slot → l.node = i → s.fe.lost = false → ∃ u : State, exec (.launchPacket die slot i) s = .next u ∧
         (∀ k ∈ u.fe.sent, k.same l = false) ∧ (∃ k ∈ u.fe.launches, k.same l = true) ∧ u.mem = s.mem ∧ u.hart = s.hart))) ∧
   (∀ (s t : State) slot i r g c h, s.AtNode slot i 2 r g c →
     s.feLoad c (r.snapa + BitVec.ofNat 64 (g.node i 32 8)) 64 = .ok h t →
     (inS1S2 (bitsOf h 0 64) = true ∨ inS1S2 (bitsOf h 64 64) = true → ∃ u : State, exec (.copyNode slot i) s = .next u ∧
       ((∀ k ∈ t.cmds, k.isOf r.slot r.gen = false) → u.mem = t.mem) ∧
       ∀ q ∈ u.fe.replays, q.slot = r.slot → q.gen = r.gen → q.st ≠ 0 → q.fault.isSome = true) ∧
     (inS1S2 (bitsOf h 0 64) = false → inS1S2 (bitsOf h 64 64) = false → inS1S2 (bitsOf h 256 64) = false →
       ∀ core, t.copyCore c (g.node i 41 1) = some core → ∀ t' : State,
       Act.copy (g.node i 40 1) (r.snapa + BitVec.ofNat 64 (g.node i 32 8)) none { t with hart := copyIssuer core c r i } =
         (.ok (), t') →
       ∃ u q : _, exec (.copyNode slot i) s = .next u ∧ Journaled u q ∧ q.nodeSt i = 2 ∧ u.hart = t.hart ∧ u.mem = t'.mem)))

/-- Requests to the context page (13 R380 to R383): CTXKICK applies a valid record to a free context and says in CTXERR why it
does not; PREEMPT begins to stop an active context; INVAL raises INVALBUSY until its completion; RESUME leaves a context that is
not stopped alone; a stop unit that does not answer fails its context. None of them, and no register write, has an effect before
step 7 of the boot sequence or in recovery (13 R392; 16 R435). A unit acknowledges in its turn, and the last one leaves
the context stopped; the commands of an engine that stops leave its queue, and their claims go (03 R138). Once an invalidation is
complete no translation buffer holds an entry of its context (03 R106). A register write acts on the field's own access code (00
R6): the triggers act as their events, the tables of the window hold what is written, and an offset that the window does not
have is ignored. -/
def Obligations.ContextsAndRegisters : Prop :=
  ((∀ s : State, s.pagesServed = true ↔ s.fw.served = true ∧ s.fw.recovery = false ∧ s.powered = true) ∧
   (∀ (s : State) bits t off v i, s.pagesServed = false →
     i ∈ [Instr.ctxkick bits, .inval bits, .preempt bits, .resume bits, .registerWrite t off v] → exec i s = .next s) ∧
   (∀ (s : State) (c : Nat), s.pagesServed = true → c < 64 → ∀ bits : Word, bits = (1 : Word) <<< c →
     exec (.ctxkick bits) s = .next (s.ctxKick c) ∧ exec (.preempt bits) s = .next (s.startPreempt c) ∧
     exec (.resume bits) s = .next (s.resume c)) ∧
   (∀ s : State, exec (.ctxkick 0) s = .next s ∧ exec (.preempt 0) s = .next s ∧ exec (.resume 0) s = .next s) ∧
   (∀ (s : State) c,
     ((s.ctxOf c).st ≠ 0 → (s.ctxOf c).st ≠ 3 → s.ctxKick c = s.setCtx c { s.ctxOf c with err := 2 }) ∧
     ((s.ctxOf c).st = 0 → s.stagingValid c = false → s.ctxKick c = s.setCtx c { s.ctxOf c with err := 1 }) ∧
     ((s.ctxOf c).st = 0 → s.stagingValid c = true → s.stagingWord c 0 ≠ 0 → s.coresTaken c = true →
       s.ctxKick c = s.setCtx c { s.ctxOf c with err := 3 }) ∧
     ((s.ctxOf c).st = 0 → s.stagingValid c = true → s.stagingWord c 0 ≠ 0 → s.coresTaken c = false →
       ((s.ctxKick c).ctxOf c).st = 1 ∧ ((s.ctxKick c).ctxOf c).err = 0 ∧ ((s.ctxKick c).ctxOf c).live = s.stagingRec c) ∧
     ((s.ctxOf c).st ≠ 1 → s.startPreempt c = s) ∧ ((s.ctxOf c).st ≠ 3 → s.resume c = s) ∧
     ((s.ctxOf c).st = 1 → s.fe.takeover = false → (∀ r ∈ s.fe.replays, r.ctx = c → r.fault = none) → c < 64 →
       ((s.startPreempt c).ctxOf c).st = 2 ∧ (s.startPreempt c).cx.busy.getLsbD c = true ∧
       ((s.startPreempt c).ctxOf c).owed = (s.ctxOf c).live.units)) ∧
   (∀ (s : State) bits, s.pagesServed = true →
      ∃ u : State, exec (.inval bits) s = .next u ∧ u = { s with cx := { s.cx with invalBusy := u.cx.invalBusy } } ∧
     ∀ n, u.cx.invalBusy.getLsbD n = (s.cx.invalBusy.getLsbD n || bits.getLsbD n)) ∧
   (∀ (s : State) c, c < 64 → ∃ u : State, exec (.translationInvalidationComplete c) s = .next u ∧
     u = { s with cx := { s.cx with invalBusy := u.cx.invalBusy }, tlb := u.tlb } ∧
     (∀ n, u.cx.invalBusy.getLsbD n = (s.cx.invalBusy.getLsbD n && decide (n ≠ c))) ∧
     ∀ b, b ∈ u.tlb ↔ b ∈ s.tlb ∧ b.ctx ≠ c) ∧
   (∀ (s : State) c x, ((s.ctxOf c).st ≠ 2 ∨ (s.ctxOf c).owed.contains x = false) →
     exec (.preemptAcknowledge c x) s = .next s ∧ exec (.preemptTimeout c x) s = .next s) ∧
   (∀ (s : State) c x, (s.ctxOf c).st = 2 → (s.ctxOf c).owed.contains x = true → (Table.find? s.cx.ctxs c).isSome = true → c < 64 →
     ∃ u : State, exec (.preemptTimeout c x) s = .next u ∧ (u.ctxOf c).st = 4 ∧ u.cx.busy.getLsbD c = false) ∧
   (∀ (s : State) c x, s.ackTurn c (s.ctxOf c).owed x = false → ∃ u : State, exec (.preemptAcknowledge c x) s = .next u ∧
     u = { s with rel := { s.rel with exits := u.rel.exits } }) ∧
   (∀ (s p : State) c x, (s.ctxOf c).st = 2 → (s.ctxOf c).owed = [x] → s.ackTurn c [x] x = true → p = s.partUnit c x →
     (p.ctxOf c).st = 2 → (p.ctxOf c).owed = [x] → p.ackTurn c [x] x = true → ((p.stopUnit c x).ctxOf c).st = 2 →
     ((p.stopUnit c x).ctxOf c).owed = [x] → c < 64 →
     ∃ u : State, exec (.preemptAcknowledge c x) s = .next u ∧ (u.ctxOf c).st = 3 ∧ (u.ctxOf c).err = 0 ∧
       u.cx.busy.getLsbD c = false) ∧
   (∀ (s u : State) c kind master sel, u = s.stopCommands c kind master sel → (u.ctxOf c).st = 2 →
     (∀ m ∈ u.cmds, ¬ (m.env.ctx = c ∧ sel m = true)) ∧
     ∀ cl ∈ u.claims, ∀ m ∈ s.cmds, m.env.ctx = c → sel m = true → cl.cmd ≠ m.id)) ∧
  ((∀ (s : State) die off v, (2 ≤ die ∨ off % 8 ≠ 0 ∨ fnAt die off = none) → exec (.registerWrite die off v) s = .next s) ∧
   (∀ (s : State) off o v, s.pagesServed = true → off % 8 = 0 → fnAt 0 off = some (.slotTable, o) → o % 8 = 0 →
     ∃ u : State, exec (.registerWrite 0 off v) s = .next u ∧
       u = { s with mem := Memory.writeLE s.mem (iodKey 0 (0x10000 + o)) 8 v.toNat }) ∧
   (∀ (s : State) off v, s.pagesServed = true → off % 8 = 0 → fnAt 0 off = some (.ctxPage, 16) →
     exec (.registerWrite 0 off v) s = .next { s with cx := { s.cx with invalBusy := s.cx.invalBusy ||| v } }) ∧
   (∀ (s : State) off o v (w : BitVec 4), off % 8 = 0 → fnAt 0 off = some (.kick, o) → o = 8 * w.toNat →
     exec (.registerWrite 0 off v) s = exec (.kick w v) s))

/-- Requests of the host (13 R386 to R388; 14 R400, R403): a supported write is numbered and staged, its pieces perform at a home,
in any order, once its go may be sent, and it is done when every home has performed them and acknowledged; a read waits for the
port's earlier writes and returns the bytes, or says that the request is not supported. A piece lies at the place of its first byte
and in one 256-byte granule. Before step 7 of the boot sequence a window write has no effect, a window read is not supported and a
configuration read is to be tried again (16 R435); in recovery no target is served, and a configuration read is tried again too
(13 R392). -/
def Obligations.HostRequests : Prop :=
  (∀ (s : State) port fn t data, s.hostServed port = true → data ≠ [] → data.length ≤ 512 →
    (s.host.inbound.filter fun w => w.port == port).length < 64 → s.fw.served = true → s.fw.recovery = false →
    s.hostSupported port fn .store t data.length = true →
    ∃ u w, exec (.inboundPostedWrite port fn t data) s = .next u ∧ u.host.inbound = s.host.inbound ++ [w] ∧
      w.port = port ∧ w.num = Table.get s.host.nextNum port 0 ∧ w.gone = [] ∧ w.acked = [] ∧
      (w.pieces.flatMap fun p => p.2.2) = data ∧
      (∀ (k : Nat) p, w.pieces[k]? = some p → p.1 = (placeOf t).1 ∧
        p.2.1 = (placeOf t).2 + ((w.pieces.take k).flatMap fun q => q.2.2).length ∧
        p.2.2 ≠ [] ∧ p.2.1 % 256 + p.2.2.length ≤ 256) ∧
      Table.get u.host.nextNum port 0 = w.num + 1 ∧ u = { s with host := u.host }) ∧
  (∀ (s : State) port fn t data, (s.hostServed port = false ∨ s.hostSupported port fn .store t data.length = false) →
    exec (.inboundPostedWrite port fn t data) s = .next s) ∧
  (∀ (s : State) port fn off data, s.fw.served = false → exec (.inboundPostedWrite port fn (.window off) data) s = .next s) ∧
  (∀ (s : State) port fn t data, s.fw.recovery = true → exec (.inboundPostedWrite port fn t data) s = .next s) ∧
  (∀ (s : State) port num home only, s.host.inbound.find? (fun w => w.port == port && w.num == num) = none →
    exec (.inboundGo port num ⟨home, only⟩) s = .next s ∧ exec (.inboundAcknowledgement port num home) s = .next s) ∧
  (∀ (s : State) port num home w, s.host.inbound.find? (fun w => w.port == port && w.num == num) = some w →
    let here := w.pieces.filter fun p => p.1 == home
    let gone := if home ∈ w.gone then w.gone else w.gone ++ [home]
    (∀ only, (here = [] ∨ s.goAllowed w home = false) → exec (.inboundGo port num ⟨home, only⟩) s = .next s) ∧
    (s.goAllowed w home = true → home ≠ 12 → ∀ i k bytes, here[i]? = some (home, k, bytes) →
      s.claimed k bytes.length = false → exec (.inboundGo port num ⟨home, some i⟩) s = .next
        ((s.setInbound { w with gone := gone, pieces := w.pieces.filter (· != (home, k, bytes)) }).storeBytes k true bytes)) ∧
    (s.goAllowed w home = true → home ≠ 12 → ∀ k bytes, w.pieces = [(home, k, bytes)] → s.claimed k bytes.length = false →
      exec (.inboundGo port num ⟨home, none⟩) s =
        .next ((s.setInbound { w with gone := gone, pieces := [] }).storeBytes k true bytes)) ∧
    ((home ∉ w.gone ∨ w.staged home = true ∨ home ∈ w.acked) →
      exec (.inboundAcknowledgement port num home) s = .next s) ∧
    (home ∈ w.gone → w.staged home = false → w.acked = [] → w.homes = [home] → ∃ u : State,
      exec (.inboundAcknowledgement port num home) s = .next u ∧ u = { s with host := u.host } ∧
      ∀ v, v ∈ u.host.inbound ↔ v ∈ s.host.inbound ∧ ¬ (v.port = port ∧ v.num = num)) ∧
    (home ∈ w.gone → w.staged home = false → home ∉ w.acked → (∃ h ∈ w.homes, h ≠ home ∧ h ∉ w.acked) → ∃ u : State,
      exec (.inboundAcknowledgement port num home) s = .next u ∧ u = { s with host := u.host } ∧
      u.host.inbound.length = s.host.inbound.length)) ∧
  (∀ (s : State) port fn t len, s.hostServed port = true → 0 < len → len ≤ 4096 →
    ((∃ w ∈ s.host.inbound, w.port = port) → exec (.hostReadRequest port fn t len) s = .next s) ∧
    ((∀ w ∈ s.host.inbound, w.port ≠ port) → s.hostSupported port fn .load t len = false →
      exec (.hostReadRequest port fn t len) s = .next (s.replied none)) ∧
    ((∀ w ∈ s.host.inbound, w.port ≠ port) → s.hostSupported port fn .load t len = true → s.fw.recovery = true →
      ∀ die off, t = .mem die off → exec (.hostReadRequest port fn t len) s = .next (s.replied none)) ∧
    ((∀ w ∈ s.host.inbound, w.port ≠ port) → s.hostSupported port fn .load t len = true →
      (s.fw.served = false ∨ s.fw.recovery = true) → ∀ off,
      (t = .window off → exec (.hostReadRequest port fn t len) s = .next (s.replied none)) ∧
      (t = .config off → ∃ u : State, exec (.hostReadRequest port fn t len) s = .next u ∧ u = { s with host := u.host } ∧
        u.host.replies = s.host.replies ∧ u.host.retries = s.host.retries + 1)) ∧
    ((∀ w ∈ s.host.inbound, w.port ≠ port) → s.hostSupported port fn .load t len = true → s.fw.recovery = false →
      ∀ die off, t = .mem die off → s.claimed (dieKey die off) len = false → s.readCheck (dieKey die off) len = (s, none) →
      exec (.hostReadRequest port fn t len) s = .next (s.replied (some (Memory.readBytes s.mem (dieKey die off) len)))))

/-- The management commands (13 R390, R391; 15 R426, R428). Injection (15 R415): an injection block takes its address and its
mask, and arms where its mask meets its kind and its count is not 0; kind 3 fails a channel at once. -/
def Obligations.ManagementAndInjection : Prop :=
  (∀ s : State,
     (∀ bank idx r, Table.find? (s.bank bank).recs idx = some r → Manages (.releaseRecord bank idx) s
       (bank < 728 ∧ idx < 30 ∧ r.valid = true ∧ r.cls ≠ 0)
       (s.setBank bank { s.bank bank with recs := Table.set (s.bank bank).recs idx { r with valid := false } }) []) ∧
     (∀ bank idx, Table.find? (s.bank bank).recs idx = none → Manages (.releaseRecord bank idx) s False s []) ∧
     (∀ die ch, Manages (.retireChannel die ch) s
       (die < 12 ∧ ch < 32 ∧ (s.memSt die).mode ≠ 5 ∧ (s.memSt die).failmask.getLsbD ch = false) (s.failChannel die ch) []) ∧
     (∀ die, Manages (.releaseReserve die) s (die < 12 ∧ (s.memSt die).mode = 0)
       (s.memChanged die { s.memSt die with rsvheld := false }) []) ∧
     (∀ die hours, Manages (.setPatrol die hours) s (die < 12 ∧ 1 ≤ hours ∧ hours ≤ 720)
       (s.memChanged die { s.memSt die with patrolNext := hours }) []) ∧
     (∀ period, Manages (.setSelftest period) s (1 ≤ period ∧ period ≤ 65535)
       { s with rel := { s.rel with stperiod := period } } []) ∧
     (∀ die share, Manages (.setRelayshare die share) s (die < 12 ∧ share ≤ 6)
       (s.memChanged die { s.memSt die with rshare := share }) []) ∧
     (∀ die, die < 12 → s.pow.st ≠ .off → s.fe.housekeeper = true → s.fw.session = true →
        ∃ bs, exec (.readCoverage die) s = .next (s.replied (some bs)) ∧
       bs.length = 3968 ∧ ∀ r < 31744, (bs.getD (r / 8) 0).getLsbD (r % 8) = (s.memSt die).covered.contains r) ∧
     (∀ d, Manages (.setDeviceNumber d) s (d < 256 ∧ ∀ p ∈ s.cx.ctxs, p.2.st = 0 ∨ p.2.st = 4)
       { s with fab := { s.fab with device := BitVec.ofNat 8 d, enumerated := true } } []) ∧
     (∀ d mask, Manages (.writeRoute d mask) s (d < 256 ∧ mask < 2 ^ 18)
       { s with fab := { s.fab with routes := Table.set s.fab.routes d mask } } [])) ∧
  ((∀ (s : State) u off mask cnt i, i ∈ [Instr.injectCorrectable u off mask cnt, .injectUncorrectable u off mask cnt,
       .injectPoison u off cnt, .injectFailChannel u off] → 384 ≤ u → exec i s = .next s) ∧
   (∀ (s : State) u off mask (cnt : BitVec 8) i k m, (i, k, m) ∈ [(Instr.injectCorrectable u off mask cnt, 0, mask),
       (.injectUncorrectable u off mask cnt, 1, mask), (.injectPoison u off cnt, 2, (0 : Word))] → u < 384 →
     ∃ (t : State) (j : Inj), exec i s = .next t ∧ t = { s with rel := { s.rel with injs := t.rel.injs } } ∧
       Table.find? t.rel.injs u = some j ∧ (∀ v, v ≠ u → Table.find? t.rel.injs v = Table.find? s.rel.injs v) ∧
       j.addr = BitVec.ofNat 64 off ∧ j.mask = m ∧
       j.ctl.getLsbD 0 = (decide (1 ≤ cnt.toNat) && maskMeets u k m) ∧ j.ctl.toNat / 65536 = cnt.toNat ∧
       j.ctl.toNat / 2 % 8 = k) ∧
   (∀ (s : State) u ch, u < 12 → ch < 32 → (s.memSt u).mode ≠ 5 → (s.memSt u).failmask.getLsbD ch = false →
     ∃ t : State, exec (.injectFailChannel u ch) s = .next t ∧ (t.memSt u).failmask.getLsbD ch = true))

/-- The memory states of a die (15 R422 to R425): the channel that fails joins FAILMASK and the mode advances by the table; a
second failure where none can be borne fences the memory; a re-lay that has moved its last granule ends in mode 3 or 4, and the
rebuild of the spare in mode 4. Patrol, back-off, retention and ports (15 R408, R418, R420, R421): a period starts with an empty
coverage, a region not covered is read and counted, a limit back-off is counted; an idle array enters retention and leaves it
with its corrections recorded; a port that goes down is fenced with a record, and what a retry corrects leaves a record alone. -/
def Obligations.ChannelsPatrolPorts : Prop :=
  ((∀ (s : State) die ch, (12 ≤ die ∨ 32 ≤ ch ∨ (s.memSt die).mode = 5 ∨ (s.memSt die).failmask.getLsbD ch = true) →
     exec (.channelFailure die ch) s = .next s) ∧
   (∀ (s : State) die ch, die < 12 → ch < 32 → (s.memSt die).mode ≠ 5 → (s.memSt die).failmask.getLsbD ch = false →
     ∃ u : State, exec (.channelFailure die ch) s = .next u ∧ u.mem = s.mem ∧ u.hart = s.hart ∧
       (u.memSt die).failmask = (s.memSt die).failmask ||| ((1 : BitVec 32) <<< ch) ∧
       (∀ d, d ≠ die → u.memSt d = s.memSt d) ∧
       ((s.memSt die).mode = 0 → (s.memSt die).rsvheld = true → (u.memSt die).mode = 2 ∧ (u.memSt die).relaypos = 0) ∧
       ((s.memSt die).mode = 0 → (s.memSt die).rsvheld = false → (u.memSt die).mode = 1) ∧
       ((s.memSt die).mode = 2 → (s.memSt die).spare ≠ 255 → (u.memSt die).mode = 2 ∧ (u.memSt die).spare = 255) ∧
       ((s.memSt die).mode = 1 ∨ (s.memSt die).mode = 4 ∨ ((s.memSt die).mode = 2 ∧ (s.memSt die).spare = 255) ∨
         ((s.memSt die).mode = 3 ∧ (s.memSt die).rebuilding = true) →
         (u.memSt die).mode = 5 ∧ (u.bank (696 + die)).fenced = true) ∧
       ((s.memSt die).mode = 3 → (s.memSt die).rebuilding = false →
         if ch = (s.memSt die).spare then (u.memSt die).mode = 4
         else (u.memSt die).mode = 3 ∧ (u.memSt die).rebuilding = true)) ∧
   (∀ (s : State) die count, (12 ≤ die ∨ (s.memSt die).mode ≠ 2) → exec (.relayGranuleMove die count) s = .next s) ∧
   (∀ (s : State) die, die < 12 → (s.memSt die).mode = 2 → (s.memSt die).relaypos + 1 < granules →
     ∃ u : State, exec (.relayGranuleMove die 1) s = .next u ∧
       u.memSt die = { s.memSt die with relaypos := (s.memSt die).relaypos + 1 } ∧ u.mem = s.mem ∧
       u.rel.skipped = (if (s.memSt die).relaypos % 29 = 28
         then s.rel.skipped.filter (· != stripeNum die (2 ^ 27 + (s.memSt die).relaypos / 29)) else s.rel.skipped) ∧
       (s.lost die (s.memSt die).relaypos = false →
         u = { s with rel := { s.rel with mems := u.rel.mems, skipped := u.rel.skipped } }) ∧
       (s.lost die (s.memSt die).relaypos = true →
         ∀ b ∈ granuleBlocks die ((s.memSt die).relaypos * 256), b ∈ u.rel.poison)) ∧
   (∀ (s : State) die, die < 12 → (s.memSt die).mode = 2 → granules ≤ (s.memSt die).relaypos →
     ∃ u : State, exec (.relayGranuleMove die 1) s = .next u ∧
       (u.memSt die).mode = if (s.memSt die).spare = 255 then 4 else 3) ∧
   (∀ (s : State) die, (12 ≤ die ∨ (s.memSt die).replaced = none ∨ (s.memSt die).rebuilding = false) →
     exec (.spareRebuild die) s = .next s) ∧
   (∀ (s : State) die x, die < 12 → (s.memSt die).replaced = some x → (s.memSt die).rebuilding = true →
     ∃ u : State, exec (.spareRebuild die) s = .next u ∧ (u.memSt die).mode = 4 ∧ (u.memSt die).rebuilding = false ∧
       u.mem = s.mem)) ∧
  ((∀ (s : State) die, exec (.patrolPeriodStart die) s = .next (if 12 ≤ die then s else
     s.memChanged die { s.memSt die with covered := [], patrolb := 0, patrol := (s.memSt die).patrolNext })) ∧
   (∀ (s : State) die region, (12 ≤ die ∨ 32768 ≤ region ∨ (s.memSt die).mode = 5 ∨ (s.memSt die).covered.contains region = true) →
     exec (.patrolRead die region) s = .next s) ∧
   (∀ (s : State) die region, die < 12 → 31744 ≤ region → region < 32768 → (s.memSt die).mode ≠ 5 →
     (s.memSt die).covered.contains region = false →
     exec (.patrolRead die region) s = .next (s.memChanged die { s.memSt die with patrolb := (s.memSt die).patrolb + 2 ^ 21 })) ∧
   (∀ (s : State) die region, die < 12 → region < 31744 → (s.memSt die).mode = 0 →
     (s.memSt die).covered.contains region = false → s.rel.latent = [] →
     exec (.patrolRead die region) s = .next (s.memChanged die { s.memSt die with patrolb := (s.memSt die).patrolb + 2 ^ 21 })) ∧
   (∀ (s : State) die bank postponed, die < 12 → bank < 2 ^ 32 → 8 ≤ postponed →
     exec (.alertBackoff die bank postponed) s = .next (s.memChanged die { s.memSt die with abolim := (s.memSt die).abolim + 1 })) ∧
   (∀ (s : State) die bank postponed, postponed < 8 → exec (.alertBackoff die bank postponed) s = .next s) ∧
   (∀ (s : State) lv k arr, (s.mayRetain lv k arr = false ∨ ∃ a ∈ s.rel.exits, a / 32 = arrayOf lv k (arr * 2 ^ 21) / 32) →
     exec (.retentionEntry lv k arr) s = .next s) ∧
   (∀ (s : State) lv k arr, s.mayRetain lv k arr = true → ∃ u : State, exec (.retentionEntry lv k arr) s = .next u ∧
     u.rel.retention = arrayOf lv k (arr * 2 ^ 21) :: s.rel.retention ∧ u.mem = s.mem ∧ u.tiles = s.tiles ∧ u.hart = s.hart) ∧
   (∀ (s : State) lv k arr n, s.cx.resuming = 0 → arrayOf lv k (arr * 2 ^ 21) ∉ s.rel.retention →
      exec (.retentionExit lv k arr n) s = .next s) ∧
   (∀ (s : State) lv k arr n id, s.cx.resuming = 0 → id = arrayOf lv k (arr * 2 ^ 21) → id ∈ s.rel.retention →
     (∀ a, (s.rel.exits.filter fun a => a / 32 == id / 32).head? = some a → a ≠ id →
       exec (.retentionExit lv k arr n) s = .next s) ∧
     ((∀ a, (s.rel.exits.filter fun a => a / 32 == id / 32).head? = some a → a = id) → ∃ u : State,
       exec (.retentionExit lv k arr n) s = .next u ∧ id ∉ u.rel.retention ∧ id ∉ u.rel.exits ∧ u.mem = s.mem ∧
       (n = 0 → u.rel.banks = s.rel.banks))) ∧
   (∀ (s : State) p e, (e = .down p ∨ ∃ lane, e = .retried p lane) → (18 ≤ p ∨ (s.bank (710 + p)).fenced = true) →
     exec (.beydinPortDown e) s = .next s) ∧
   (∀ (s : State) p, p < 18 → (s.bank (710 + p)).fenced = false → ∃ u : State, exec (.beydinPortDown (.down p)) s = .next u ∧
     (u.bank (710 + p)).fenced = true ∧ (u.bank (710 + p)).nfatal = (s.bank (710 + p)).nfatal + 1 ∧ u.mem = s.mem) ∧
   (∀ (s : State) p lane, p < 18 → (s.bank (710 + p)).fenced = false → ∃ u : State,
     exec (.beydinPortDown (.retried p lane)) s = .next u ∧ (u.bank (710 + p)).fenced = false ∧
     (u.bank (710 + p)).ncorr = (s.bank (710 + p)).ncorr + 1 ∧ u.mem = s.mem ∧ u.hart = s.hart) ∧
   (∀ (s : State) p e, (2 ≤ p ∨ s.host.down.contains p = true) → exec (.pciePortDown p e) s = .next s) ∧
   (∀ (s : State) p aer, p < 2 → s.host.down.contains p = false → ∃ u : State, exec (.pciePortDown p ⟨aer, false⟩) s = .next u ∧
     u.host.down = p :: s.host.down ∧ (u.bank (708 + p)).nfatal = (s.bank (708 + p)).nfatal + 1 ∧ u.mem = s.mem) ∧
   (∀ (s : State) p aer, p < 2 → s.host.down.contains p = false → ∃ u : State, exec (.pciePortDown p ⟨aer, true⟩) s = .next u ∧
     u.host = s.host ∧ (u.bank (708 + p)).ncorr = (s.bank (708 + p)).ncorr + 1 ∧ u.mem = s.mem))

/-- Self-tests (15 R416, R417): the end of a test of an idle core keeps its time and counts it, and a failure fences the core;
the housekeeper starts a test on the idle core tested longest ago, and abandons it, counted, for a ready block that no other hart
of the die takes. The contents of S1 after tests 1 and 2 are free values. The
checks of the datapath, and what the in-order model leaves nothing of (01 R16 to R20; 15 R408, R410, R411; log 1): without a
mismatch an issue or a commit changes nothing; one that a retry matches is recorded as CORRECTED with no trap, one that
mismatches again squashes the word, or the repetition of a prefix, with a machine check; where the residue stands, protected
mode compares with its mirror what a vector register receives from a word that completes (01 R59); a waiting hart that wakes is RUNNING. -/
def Obligations.SelfTestsAndChecks : Prop :=
  ((∀ (s : State) core pass block, Table.find? s.rel.tests core = none →
     exec (.selfTestEnd core pass block) s = .next s ∧ exec (.selfTestLimit core) s = .next s ∧
     exec (.selfTestAbandon core) s = .next s) ∧
   (∀ (s : State) core block t, core < 288 → Table.find? s.rel.tests core = some t → s.coreIdle core = true →
     (t.sel = 0 → ∃ u : State, exec (.selfTestEnd core true block) s = .next u ∧ u.mem = s.mem ∧
       u.rel.fencedCores = s.rel.fencedCores ∧ Table.find? u.rel.lastTest core = some u.clock ∧
       u.rel.tests = Table.erase s.rel.tests core ∧ u.cx = s.cx) ∧
     (t.sel = 0 → ∃ u : State, exec (.selfTestEnd core false block) s = .next u ∧ u.mem = s.mem ∧
       core ∈ u.rel.fencedCores ∧ (u.bank core).fenced = true ∧ (∀ p ∈ u.cx.ctxs, core ∉ p.2.live.cores) ∧
       u.rel.tests = Table.erase s.rel.tests core)) ∧
   (∀ (s : State) core pass block t, Table.find? s.rel.tests core = some t → s.coreIdle core = false →
     exec (.selfTestEnd core pass block) s = .next s) ∧
   (∀ (s : State) core t, Table.find? s.rel.tests core = some t → t.keeper = true → exec (.selfTestLimit core) s = .next s) ∧
   (∀ (s : State) core t, core < 288 → Table.find? s.rel.tests core = some t → t.keeper = false → t.sel = 0 →
     s.coreIdle core = true → ∃ u : State, exec (.selfTestLimit core) s = .next u ∧ core ∈ u.rel.fencedCores) ∧
   (∀ (s : State) core t, Table.find? s.rel.tests core = some t → t.keeper = false →
     exec (.selfTestAbandon core) s = .next s) ∧
   (∀ (s u : State) core t, Table.find? s.rel.tests core = some t → t.keeper = true →
     u = { s with rel := { s.rel with tests := Table.erase s.rel.tests core } } →
     ((u.serve (4 * core) = none ∨ ∃ n, n / 96 = core / 24 ∧ n / 4 ≠ core ∧ (s.hartAt n).st = .idle ∧ s.serve n ≠ none) →
       exec (.selfTestAbandon core) s = .next s) ∧
     (u.serve (4 * core) ≠ none → (∀ n, n / 96 = core / 24 → n / 4 ≠ core → (s.hartAt n).st = .idle → s.serve n = none) →
       exec (.selfTestAbandon core) s =
         .next { u with rel := { u.rel with tele := Table.set s.rel.tele 0x110 (Table.get s.rel.tele 0x110 0 + 1) } })) ∧
   (∀ (s : State) core full, s.fe.housekeeper = false → ∃ u : State, exec (.housekeeperSelfTest core full) s = .next u ∧
     u.rel.tests = s.rel.tests ∧ u.mem = s.mem) ∧
   (∀ (s : State) core, core < 288 → s.fe.housekeeper = true → s.tick.testable core = true →
     (∀ k < 288, s.tick.testable k = true → s.tick.testAge core ≤ s.tick.testAge k) →
     ∃ u : State, exec (.housekeeperSelfTest core false) s = .next u ∧
       Table.find? u.rel.tests core = some ⟨0, true, none⟩ ∧ u.mem = s.mem ∧ u.hart = s.hart)) ∧
  ((∀ (s : State) n, exec (.heldInstructionRetire n) s = .next s) ∧ (∀ (s : State) n r, exec (.streamReadAhead n r) s = .next s) ∧
   (∀ (s : State), (s.hart.st = .running ∨ s.hart.st = .waiting) → s.hart.num < 1155 → ∀ j,
     (∀ e, s.executing j = none → exec (.microOperationIssue s.hart.num j e) s = .next s) ∧
     (∀ unit, exec (.microOperationIssue s.hart.num j (.residue unit 0)) s = .next s) ∧
     (∀ x, s.executing j = some x →
       (∀ unit, ∃ u : State, exec (.microOperationIssue s.hart.num j (.residue unit 1)) s = .next u ∧ u.hart = s.hart ∧
         u.mem = s.mem ∧ (u.bank s.hart.bank).ncorr = (s.bank s.hart.bank).ncorr + 1) ∧
       (∀ unit n, ∃ (u : State) (k : Nat), u.hart = s.hart ∧ u.mem = s.mem ∧
         (u.bank s.hart.bank).ncont = (s.bank s.hart.bank).ncont + 1 ∧
         exec (.microOperationIssue s.hart.num j (.residue unit (n + 2))) s =
           .next (u.squash j (.mcheckContained s.hart.bank k))) ∧
       (∀ r, s.hart.num < 1152 → ∃ u : State, exec (.microOperationIssue s.hart.num j (.register r true)) s = .next u ∧
         u.hart = s.hart ∧ u.mem = s.mem ∧ (u.bank s.hart.core).ncorr = (s.bank s.hart.core).ncorr + 1) ∧
       (∀ r, s.hart.num < 1152 → ∃ (u : State) (k : Nat), u.hart = s.hart ∧ u.mem = s.mem ∧
         (u.bank s.hart.core).ncont = (s.bank s.hart.core).ncont + 1 ∧
         exec (.microOperationIssue s.hart.num j (.register r false)) s =
           .next (u.squash j (.mcheckContained s.hart.core k))))) ∧
   (∀ (s : State) j c t w p, s.executing j = some (t, w, p) →
     (p = none → s.squash j c = t.takeTrap (wordInfo false w) c) ∧ (∀ x, p = some x → s.squash j c = t.trapInRep x w j c)) ∧
   (∀ (s : State) j unit k r m, (s.hart.st = .running ∨ s.hart.st = .waiting) → s.hart.num < 1152 →
     ((∀ x, s.executing j = some x → majorOf x.2.1 < 0x10 ∨ 0x2B < majorOf x.2.1) →
       exec (.vectorCommit s.hart.num j ⟨unit, k, r, m⟩) s = .next s) ∧
     (∀ x, s.executing j = some x → 0x10 ≤ majorOf x.2.1 → majorOf x.2.1 ≤ 0x2B →
       ((∀ v, wordEff x.2.1 x.1 ≠ .done v) → x.1.writesBack x.2.1 r = false) ∧
       (k < 2 → (m < 2 ∨ s.hart.prot = false ∨ x.1.writesBack x.2.1 r = false) → ∃ u : State,
         exec (.vectorCommit s.hart.num j ⟨unit, k, r, m⟩) s = .next u ∧ u.hart = s.hart ∧ u.mem = s.mem ∧
         (u.bank s.hart.core).ncorr = (s.bank s.hart.core).ncorr +
           BitVec.ofNat 32 (k + if s.hart.prot = true ∧ x.1.writesBack x.2.1 r = true then m else 0)) ∧
       (k < 2 → 2 ≤ m → s.hart.prot = true → x.1.writesBack x.2.1 r = true → ∃ (u : State) (i : Nat), u.hart = s.hart ∧ u.mem = s.mem ∧
         exec (.vectorCommit s.hart.num j ⟨unit, k, r, m⟩) s = .next (u.squash j (.mcheckSdc s.hart.core i))) ∧
       (2 ≤ k → ∃ (u : State) (i : Nat), u.hart = s.hart ∧ u.mem = s.mem ∧
         exec (.vectorCommit s.hart.num j ⟨unit, k, r, m⟩) s = .next (u.squash j (.mcheckContained s.hart.core i))))) ∧
   (∀ (s : State) n i, i ∈ [Instr.hartWake n, .waitwRecheck n] →
     ((s.hartAt n).st ≠ .waiting → exec i s = .next s) ∧
     ((s.hartAt n).st = .waiting → (s.hartAt n).num = n → ∃ u : State, exec i s = .next u ∧ u.mem = s.mem ∧
       u.hartAt n = { s.hartAt n with st := .running } ∧ ∀ m, m ≠ n → u.hartAt m = s.hartAt m)))

/-- Power and temperature (16 R431, R432, R434): the clock falls by 25 MHz above 4,200 W and no lower than 1.0 GHz, where the
module stops with every context in use failed; it rises after 100 low measurements to at most 1.8 GHz, and falls while a sensor
holds it; a compute die's temperature is that of the hottest of its four sensors, and a temperature limit switches the module
off. Idle, standby and power loss (16 R431): a die without a block becomes idle, a standby request is granted while no context is
active, standby is left through the training and the tests of the boot sequence (16 R435), and the loss of the input switches the
module off and breaks off an update (16 R436). -/
def Obligations.PowerAndTemperature : Prop :=
  ((∀ (s : State) watts, s.powered = true →
     (4200 < watts → 1000 < s.pow.mhz →
       exec (.powerMeasurement watts) s = .next { s with pow := { s.pow with mhz := max 1000 (s.pow.mhz - 25), below := 0 } }) ∧
     (4200 < watts → s.pow.mhz ≤ 1000 → (s.cx.ctxs.map Prod.fst).Pairwise (· < ·) →
       ∃ u : State, exec (.powerMeasurement watts) s = .next u ∧ u.pow.st = .standby ∧
         ∀ c x, Table.find? s.cx.ctxs c = some x → ∃ y, Table.find? u.cx.ctxs c = some y ∧
           (x.st ≠ 0 → y.st = 4) ∧ (x.st = 0 → y = x)) ∧
     (watts ≤ 4200 → exec (.powerMeasurement watts) s = .next { s with pow := { s.pow with
       mhz := if s.pow.hot = [] then s.pow.mhz else max 1000 (s.pow.mhz - 25)
       below := if watts < 4100 then s.pow.below + 1 else 0 } })) ∧
   (∀ s : State, s.powered = true → 100 ≤ s.pow.below → s.pow.hot = [] →
     exec .clockRaise s = .next { s with pow := { s.pow with mhz := min 1800 (s.pow.mhz + 25), below := 0 } }) ∧
   (∀ s : State, (s.powered = false ∨ s.pow.below < 100 ∨ s.pow.hot ≠ []) → exec .clockRaise s = .next s) ∧
   (∀ (s : State) d k celsius, s.pow.st ≠ .off → d < 12 → k < 4 → 110 ≤ celsius →
     ∃ u : State, exec (.thermalLimit (.computeDie d k) celsius) s = .next u ∧ u.pow.st = .off ∧ u.mem = s.mem) ∧
   (∀ (s : State) k celsius, s.pow.st ≠ .off → k < 12 → 105 ≤ celsius →
     ∃ u : State, exec (.thermalLimit (.stack k) celsius) s = .next u ∧ u.pow.st = .off ∧ u.mem = s.mem) ∧
   (∀ (s : State) d k celsius hottest, s.pow.st ≠ .off → d < 12 → k < 4 →
     hottest = max celsius ((List.range 4).foldl (fun m j => if j = k then m else max m (Table.get s.pow.temps (4 * d + j) 0)) 0) →
     hottest < 110 → ∃ u : State,
     exec (.thermalLimit (.computeDie d k) celsius) s = .next u ∧ u = { s with pow := u.pow } ∧ u.pow.st = s.pow.st ∧
     Table.get u.pow.temps (4 * d + k) 0 = celsius ∧
     (100 ≤ hottest → Sensor.computeDie d 0 ∈ u.pow.hot) ∧ (hottest < 97 → Sensor.computeDie d 0 ∉ u.pow.hot) ∧
     (97 ≤ hottest → hottest < 100 → u.pow.hot = s.pow.hot)) ∧
   (∀ (s : State) k celsius, s.pow.st ≠ .off → k < 12 → celsius < 105 → ∃ u : State,
     exec (.thermalLimit (.stack k) celsius) s = .next u ∧ u = { s with pow := u.pow } ∧ u.pow.st = s.pow.st ∧
     (95 ≤ celsius → Sensor.stack k ∈ u.pow.hot) ∧ (celsius < 92 → Sensor.stack k ∉ u.pow.hot) ∧
     (k ∈ u.pow.refresh2 ↔ 85 ≤ celsius)) ∧
   (∀ (s : State) celsius, s.pow.st ≠ .off →
     exec (.thermalLimit .inlet celsius) s = .next { s with pow := { s.pow with inlet := decide (45 ≤ celsius) } })) ∧
  ((∀ (s : State) d, (s.powered = false ∨ 12 ≤ d ∨ s.dieIdle d = false) → exec (.idleEntry d) s = .next s) ∧
   (∀ (s : State) d, s.powered = true → d < 12 → s.dieIdle d = true → ∃ u : State, exec (.idleEntry d) s = .next u ∧
     u = { s with pow := { s.pow with st := u.pow.st, idleDies := u.pow.idleDies } } ∧ d ∈ u.pow.idleDies ∧
     (s.cmds ≠ [] → u.pow.st = s.pow.st) ∧
     ((∀ k < 12, k ≠ d → k ∈ s.pow.idleDies) → s.cmds = [] → s.fe.running = 0 → u.pow.st = .idle)) ∧
   (∀ s : State, s.powered = true → (∀ p ∈ s.cx.ctxs, p.2.st ≠ 1) →
     exec .standbyRequest s = .next { s with pow := { s.pow with st := .standby, below := 0 } }) ∧
   (∀ s : State, (s.powered = false ∨ ∃ p ∈ s.cx.ctxs, p.2.st = 1) → exec .standbyRequest s = .next s) ∧
   (∀ s : State, ∃ u : State, exec .powerLoss s = .next u ∧
     u = { s with ticks := u.ticks, fw := u.fw, pow := { s.pow with st := .off, below := 0 } } ∧
     (s.fw.updating = none → u.fw = s.fw) ∧
     (∀ x, s.fw.updating = some x → u.fw.updating = none ∧ u.fw.pending = none ∧ u.fw.active = s.fw.active ∧
       u.fw.image s.fw.active = s.fw.image s.fw.active)) ∧
   (∀ s : State, s.pow.st ≠ .standby → (s.powered = false ∨ s.fw.served = true) → exec .standbyExit s = .next s) ∧
   (∀ s : State, s.pow.st = .standby → Memory.wf s.mem = true → (∀ t ∈ s.tiles, t.lv = .s1 → t.inst < 288) →
     ∃ u : State, exec .standbyExit s = .next u ∧ u.pow.st = .run ∧ u.hart = s.hart ∧
     (∀ k < 2 ^ 48, Memory.read u.mem k = Memory.read s.mem k) ∧ (∀ t ∈ u.tiles, t.lv ≠ .s1) ∧
     (s.fw.recovery = false → u.fw.served = true ∧ u.fab.partners = s.training.partners ∧
       (∀ d ∈ s.training.badStacks, d < 12 → (u.memSt d).mode = 5) ∧ ∀ c ∈ s.failing, c < 288 → c ∈ u.rel.fencedCores)))

/-- Resets (16 R435): every hart, context, tile, command and replay is as after reset, and nothing of the module's memory is
left but what step 4 loads for the control harts; in recovery these do not run. A warm reset keeps the banks, CLOCK, the
device number and the routes, and RSHARE takes its reset value (00 R8); a cold one keeps the flash and the fused minimum
alone, and samples the straps without their reserved bits (16 R437). Step 5 fences the memory of a stack, step 6 a core that
fails, and step 7 serves the host; in recovery none of them comes. Of the firmware's banks only a pending one that boots
becomes active (16 R436), and no remote operation outlives a reset. What a reset keeps beside what the rules name is the
model's choice (log 4), and so is that memory reads 0 (log 3); that the module runs (P0) after every reset is DEDUCED (log
14). Firmware (13 R392, R393; 16 R436): in a secured session an update writes the inactive bank and is pending only if every
check accepts it, and a second one meanwhile completes with error; the fused minimum never falls and rises at most 64 times;
a request of the responder is answered and changes nothing but the session and the provisioned slots. -/
def Obligations.ResetsAndFirmware : Prop :=
  ((∀ (s u : State) strap x cs, (exec (.coldReset strap x cs) s = .next u ∨ s.pow.st ≠ .off ∧ exec (.warmReset x cs) s = .next u) →
     u.hart = Hart.reset 0 ∧ (∀ n < 1152, u.hartAt n = Hart.reset n) ∧ u.tiles = [] ∧ u.claims = [] ∧ u.cmds = [] ∧
     u.cx.ctxs = [] ∧ u.pow.st = .run ∧ u.peers.ops = [] ∧ u.peers.failures = [] ∧
     (s.fw.updating = none → u.fw.recovery = false → s.fw.accepts (s.fw.image u.fw.booted) = true ∧
       u.fw.active = if s.fw.pending = some u.fw.booted then u.fw.booted else s.fw.active) ∧
     (∀ k < 2 ^ 52, (∀ n < 3, k / 2 ^ 20 ≠ ctlKey n 0 / 2 ^ 20) → Memory.read u.mem k = 0) ∧
     (u.fw.recovery = false → u.fe = FrontEnd.reset ∧ u.parked = []) ∧
     (u.fw.recovery = true → u.fe = { FrontEnd.reset with housekeeper := false } ∧ u.fw.served = false ∧
       ∀ n, 1152 ≤ n → n < 1155 → (u.hartAt n).st = .idle) ∧
     (x = none → u.fw.served = false) ∧
     (∀ t, x = some t → u.fw.recovery = false → u.fw.served = true ∧ u.fab.partners = t.partners ∧
       (∀ d ∈ t.badStacks, d < 12 → (u.memSt d).mode = 5) ∧ ∀ c ∈ cs, c < 288 → c ∈ u.rel.fencedCores)) ∧
   (∀ (s : State) strap x cs, ∃ u : State, exec (.coldReset strap x cs) s = .next u ∧ u.fw.strap = strap &&& 0xFFFC ∧
     u.fw.minSvn = s.fw.minSvn ∧ u.fw.advances = s.fw.advances ∧ u.fab.device = 0 ∧ u.fab.enumerated = false ∧ u.fab.routes = [] ∧
     (s.fw.updating = none → u.fw.bankA = s.fw.bankA ∧ u.fw.bankB = s.fw.bankB)) ∧
   (∀ (s : State) x cs, s.pow.st ≠ .off → ∃ u : State, exec (.warmReset x cs) s = .next u ∧ u.fab.device = s.fab.device ∧
     u.fab.enumerated = s.fab.enumerated ∧ u.fab.routes = s.fab.routes ∧
     (x = none → u.clock = s.clock ∧ u.rel.banks = s.rel.banks ∧ u.rel.fencedCores = s.rel.fencedCores ∧
       u.rel.mems = s.rel.mems.map fun p => (p.1, { p.2 with rshare := 3 }))) ∧
   (∀ (s : State) x cs, s.pow.st = .off → exec (.warmReset x cs) s = .next s)) ∧
  ((∀ (s : State) image, s.pow.st ≠ .off → s.fw.session = true → s.fw.updating = none →
     (∃ u : State, exec (.firmwareUpdate ⟨image, false⟩) s = .next u ∧
       u = { s with fw := { s.fw with updating := some image, pending := none } }) ∧
     (∃ u : State, exec (.firmwareUpdate ⟨image, true⟩) s = .next u ∧ u = { s with fw := u.fw, host := u.host } ∧
       u.fw.active = s.fw.active ∧ u.fw.image (!s.fw.active) = image ∧ u.fw.image s.fw.active = s.fw.image s.fw.active ∧
       u.fw.pending = (if s.fw.accepts image = true then some (!s.fw.active) else none))) ∧
   (∀ (s : State) image y, s.pow.st ≠ .off → s.fw.updating = some y →
     exec (.firmwareUpdate ⟨image, false⟩) s = .next (s.replied none) ∧
     (∃ u : State, exec (.firmwareUpdate ⟨image, true⟩) s = .next u ∧ u = { s with fw := u.fw, host := u.host } ∧
       u.fw.updating = none ∧ u.fw.active = s.fw.active ∧ u.fw.image (!s.fw.active) = y ∧
       u.fw.image s.fw.active = s.fw.image s.fw.active ∧
       u.fw.pending = (if s.fw.accepts y = true then some (!s.fw.active) else none))) ∧
   (∀ (s : State) image f, s.pow.st ≠ .off → s.fw.updating = none → s.fw.session = false →
     exec (.firmwareUpdate ⟨image, f⟩) s = .next (s.replied none)) ∧
   (∀ (s : State) image f, s.pow.st = .off → exec (.firmwareUpdate ⟨image, f⟩) s = .next s) ∧
   (∀ s : State, ∃ u : State, exec .svnAdvance s = .next u ∧
     u = { s with fw := { s.fw with minSvn := u.fw.minSvn, advances := u.fw.advances } } ∧
     s.fw.minSvn ≤ u.fw.minSvn ∧ (64 ≤ s.fw.advances → u = s) ∧ (s.fw.svn ≤ s.fw.minSvn → u = s) ∧
     (s.fe.lost = false → s.fw.recovery = false → s.fw.minSvn < s.fw.svn → s.fw.advances < 64 → s.pow.st ≠ .off →
       u.fw.minSvn = s.fw.svn ∧ u.fw.advances = s.fw.advances + 1)) ∧
   (∀ (s : State) q, s.pow.st ≠ .off → ∃ (u : State) (r : Option (List Byte)), exec (.spdmRequest q) s = .next u ∧
     u = { s.replied r with fw := { s.fw with session := u.fw.session, slots := u.fw.slots } } ∧
     (q = .version → r = some [0x12, 0x13]) ∧ (q = .measurement 5 → r = some (leBytes 2 s.fw.minSvn)) ∧
     (q = .endSession → u.fw.session = false) ∧ (∀ pub, q = .keyExchange pub → u.fw.session = true) ∧
     (∀ n chain, q = .provision n chain →
       (s.fw.session = true → 1 ≤ n → n < 8 → Table.find? u.fw.slots n = some chain ∧ r = some []) ∧
       (s.fw.session = false ∨ n = 0 ∨ 8 ≤ n → u.fw.slots = s.fw.slots ∧ r = none)) ∧
     ((∀ n chain, q ≠ .provision n chain) → u.fw.slots = s.fw.slots) ∧
     ((∀ pub, q ≠ .keyExchange pub) → q ≠ .endSession → u.fw.session = s.fw.session)) ∧
   (∀ (s : State) q, s.pow.st = .off → exec (.spdmRequest q) s = .next s))

/-- The decoder reads the word of every instruction as that instruction, with every operand at every value that its field holds
(04 R141 to R157). -/
def Obligations.DecodeOfEncode : Prop := ∀ (i : Instr) (w : IWord), encode i = some w → decode w = .instr i

/-- A word that the decoder reads as an instruction is the word of that instruction: no bit of it is ignored, and two words are
never read alike (04 R141, R158). -/
def Obligations.EncodeOfDecode : Prop := ∀ (w : IWord) (i : Instr), decode w = .instr i → encode i = some w

/-- Words written out from the field layouts of 04 R141 to R157, one of each format, and the instructions that they are. -/
def Obligations.DecodeSpecWords : Prop :=
  -- ADD s3, s4, s5: major 0x01, d 3, a 4, b 5, fn 0
  decode 0b000001_00011_00100_00101_00000000000#32 = .instr (.add 3 4 5) ∧
  -- ADDI s1, s2, -1: major 0x02, d 1, a 2, imm 0xFFFF
  decode 0b000010_00001_00010_1111111111111111#32 = .instr (.addi 1 2 0xFFFF) ∧
  -- JAL +1: major 0x0A, imm 1
  decode 0b001010_00000000000000000000000001#32 = .instr (.jal 1) ∧
  -- CSRR s7, 0x018: major 0x0F, d 7, a 0, imm 0x0018
  decode 0b001111_00111_00000_0000000000011000#32 = .instr (.csrr 7 0x018) ∧
  -- VADD v2, v4, v6: major 0x10, d 2, a 4, b 6, fn 0
  decode 0b010000_00010_00100_00110_000000_00_000#32 = .instr (.vadd 2 4 6 0) ∧
  -- TEND: major 0x34, fn 0
  decode 0b110100_00000_00000_00000_00000000000#32 = .instr .tend ∧
  -- a word of zeros is no instruction
  (∀ i, decode 0 ≠ .instr i)

/-- A hart that runs fetches the word at its pc and does what that instruction means, and nothing else; a word that is no
instruction takes its class's fate, and a fetch that faults traps (01 R15; log 2 names the party of a step). The turn after a
YIELD is the core's next running hart's (05 R198; which hart that is, log 68), and a translation buffer that takes an entry changes
nothing else (03 R106; when one does, log 24). A module without power does nothing but begin a cold reset (16 R431). -/
def Obligations.StepRunsDecodedInstruction : Prop :=
  (∀ (s t : State) w i, s.agenda = [] → s.powered = true → s.hart.st = .running → s.hart.yielded = false →
    s.fetch s.hart.pc = .word w t → decode w = .instr i → step s = exec i t) ∧
  (∀ (s t : State) w r, s.agenda = [] → s.powered = true → s.hart.st = .running → s.hart.yielded = false →
    s.fetch s.hart.pc = .word w t → decode w = .reject r → step s = exec (.wordNotAnInstruction w) t) ∧
  (∀ (s : State) denied va, s.agenda = [] → s.powered = true → s.hart.st = .running → s.hart.yielded = false →
    s.fetch s.hart.pc = .fault denied va → step s = exec (.instructionFetchFault denied va) s) ∧
  (∀ s : State, s.agenda = [] → s.hart.yielded = false → (s.hart.st = .idle ∨ s.hart.st = .stopped ∨ s.hart.st = .halted) →
    step s = .next s) ∧
  (∀ s t : State, s.agenda = [] → s.hart.st = .running → s.hart.yielded = true →
      t = { s with hart := { s.hart with yielded := false } } →
    (∀ n, t.nextRunning = some n → step s = (t.switchTo n).ownTurn) ∧ (t.nextRunning = none → step s = t.ownTurn)) ∧
  (∀ (s : State) n va ts, s.agenda = .fill n va :: ts → ∃ u : State, step s = .next u ∧ u = { s with agenda := ts, tlb := u.tlb }) ∧
  (∀ (s : State) i ts, s.agenda = .event i :: ts → encode i = none → (∀ w, i ≠ .wordNotAnInstruction w) →
    (∀ d va, i ≠ .instructionFetchFault d va) →
    (s.pow.st ≠ .off ∨ (∃ strap t cores, i = .coldReset strap t cores) → step s = exec i { s with agenda := ts }) ∧
    (s.pow.st = .off → (∀ strap t cores, i ≠ .coldReset strap t cores) → step s = .next { s with agenda := ts })) ∧
  (∀ (s : State) n ts, s.agenda = .hart n :: ts → 1155 ≤ n → step s = .fault .noSuchHart)

/-- The values that the spec states for reset (01 R20, R27, R48; 13 R361, R364, R374, R379, R390, R391; 15 R406, R415, R422; 16
R431, R432): every compute hart is IDLE with VCFG illegal and its control registers 0; no slot is pending, no context is in use,
no bank holds a record, every die's memory is in mode 0, and the clock is 1.8 GHz, which is DEDUCED (log 14). -/
def Obligations.ResetValues : Prop :=
  (∀ n < 1152, (State.reset.hartAt n).st = .idle ∧ (State.reset.hartAt n).vcfg = 0x8000000000000000 ∧
    (State.reset.hartAt n).vl = 0 ∧ (State.reset.hartAt n).vlmax = 0 ∧
     (State.reset.hartAt n).vcommit = 1 ∧ (State.reset.hartAt n).vstart = 0 ∧
    (State.reset.hartAt n).mstart = 0 ∧ (State.reset.hartAt n).repidx = 0 ∧ (State.reset.hartAt n).mode = 0 ∧
    (State.reset.hartAt n).fflags = 0 ∧ (∀ r < 32, (State.reset.hartAt n).tag r = 0) ∧ (State.reset.hartAt n).xstatus = 0 ∧
    (State.reset.hartAt n).xvec = 0 ∧ (State.reset.hartAt n).ptroot = 0 ∧ (State.reset.hartAt n).ctxcfg = 0 ∧
    (∀ r < 4, (State.reset.hartAt n).bound r = false)) ∧
  State.reset.fe.pend = 0 ∧ State.reset.fe.active = 0 ∧ State.reset.fe.mortar = [] ∧
  (∀ c, (State.reset.ctxOf c).st = 0 ∧ (State.reset.ctxOf c).err = 0) ∧ State.reset.cx.busy = 0 ∧
  State.reset.fab.device = 0 ∧ (∀ d, Table.get State.reset.fab.routes d 0 = 0) ∧
  (∀ b, (State.reset.bank b).recs = [] ∧ (State.reset.bank b).nfatal = 0 ∧ (State.reset.bank b).fenced = false) ∧
  (∀ d, (State.reset.memSt d).mode = 0 ∧ (State.reset.memSt d).spare = 255 ∧ (State.reset.memSt d).rsvheld = true) ∧
  State.reset.tiles = [] ∧ State.reset.claims = [] ∧ State.reset.pow.mhz = 1800

/-- Memory keeps its canonical form in every step: its keys rise, and no byte is listed that reads as an unlisted one (the
model's own form of memory, log 3). -/
def Obligations.MemoryStaysCanonical : Prop :=
  ∀ s t : State, Memory.wf s.mem = true → step s = .next t → Memory.wf t.mem = true

/-- The memory of reset has the canonical form, and every byte of it reads as an unlisted one (the model's choice, log 3). -/
def Obligations.ResetMemoryIsCanonical : Prop :=
  Memory.wf State.reset.mem = true ∧ ∀ k, Memory.read State.reset.mem k = Memory.unlisted
end

