-- ==== Sys2Proof/Laws/Memory.lean ====
section
/-! SUPPORT. Memory: the canonical form is kept, a read after a write gives what was written, and other bytes stay. -/

set_option Elab.async false

namespace Sys2Proof.Machine

namespace Memory

/-- Every key of a list lies above one. -/
def Above (k : Nat) (m : List Host.Cell) : Prop := ∀ c ∈ m, k < c.1

theorem wf_nil : wf [] = true := rfl

theorem wf_cons {k : Nat} {b : Byte} {m : List Host.Cell} :
    wf ((k, b) :: m) = true ↔ b ≠ unlisted ∧ Above k m ∧ wf m = true := by
  induction m generalizing k b with
  | nil => simp [wf, Above]
  | cons c t ih =>
    obtain ⟨k', b'⟩ := c
    have := @ih k' b'
    simp only [wf, Bool.and_eq_true, decide_eq_true_eq, bne_iff_ne] at this ⊢
    constructor
    · rintro ⟨⟨hb, hk⟩, h⟩
      refine ⟨hb, ?_, h⟩
      intro c hc
      rcases List.mem_cons.1 hc with rfl | hc
      · exact hk
      · exact Nat.lt_trans hk ((this.1 h).2.1 c hc)
    · rintro ⟨hb, ha, h⟩
      exact ⟨⟨hb, ha _ (List.mem_cons_self ..)⟩, h⟩

theorem Above.mono {j k : Nat} {m : List Host.Cell} (h : Above k m) (hj : j ≤ k) : Above j m :=
  fun c hc => Nat.lt_of_le_of_lt hj (h c hc)

theorem read_above {k : Nat} {m : List Host.Cell} (h : Above k m) : read m k = unlisted := by
  cases m with
  | nil => rfl
  | cons c t =>
    have := h c (List.mem_cons_self ..)
    obtain ⟨k', b'⟩ := c
    have h2 : k < k' := this
    simp only [read]
    rw [if_neg (by omega), if_pos h2]

theorem Above.write {j k : Nat} {b : Byte} {m : List Host.Cell} (h : Above j m) (hk : j < k) : Above j (write m k b) := by
  induction m with
  | nil =>
    simp only [Memory.write]
    split
    · exact h
    · intro c hc; rw [List.mem_singleton.1 hc]; exact hk
  | cons c t ih =>
    obtain ⟨k', b'⟩ := c
    have ht : Above j t := fun c hc => h c (List.mem_cons_of_mem _ hc)
    have hk' : j < k' := h (k', b') (List.mem_cons_self ..)
    simp only [Memory.write]
    split
    · split
      · exact ht
      · intro c hc
        rcases List.mem_cons.1 hc with rfl | hc
        · exact hk
        · exact ht c hc
    · split
      · split
        · exact h
        · intro c hc
          rcases List.mem_cons.1 hc with rfl | hc
          · exact hk
          · exact h c hc
      · intro c hc
        rcases List.mem_cons.1 hc with rfl | hc
        · exact hk'
        · exact ih ht c hc

/-- A write keeps the canonical form. -/
theorem wf_write {m : List Host.Cell} (h : wf m = true) (k : Nat) (b : Byte) : wf (write m k b) = true := by
  induction m with
  | nil =>
    simp only [write]
    split
    · rfl
    · exact wf_cons.2 ⟨‹_›, fun c hc => absurd hc (List.not_mem_nil), rfl⟩
  | cons c t ih =>
    obtain ⟨k', b'⟩ := c
    obtain ⟨hb, ha, ht⟩ := wf_cons.1 h
    simp only [write]
    split
    · split
      · exact ht
      · rename_i e _; exact wf_cons.2 ⟨‹_›, e ▸ ha, ht⟩
    · split
      · rename_i hlt
        split
        · exact h
        · refine wf_cons.2 ⟨‹_›, ?_, h⟩
          intro c hc
          rcases List.mem_cons.1 hc with rfl | hc
          · exact hlt
          · exact Nat.lt_trans hlt (ha c hc)
      · exact wf_cons.2 ⟨hb, ha.write (by omega), ih ht⟩

/-- A byte that was written reads back. -/
theorem read_write_same {m : List Host.Cell} (h : wf m = true) (k : Nat) (b : Byte) : read (write m k b) k = b := by
  induction m with
  | nil => simp only [write]; split <;> simp_all [read]
  | cons c t ih =>
    obtain ⟨k', b'⟩ := c
    obtain ⟨hb, ha, ht⟩ := wf_cons.1 h
    simp only [write]
    split
    · rename_i e
      subst e
      split
      · rw [read_above ha]; exact ‹b = unlisted›.symm
      · simp [read]
    · split
      · split
        · simp only [read]; rw [if_neg (by omega), if_pos ‹_›]; exact ‹b = unlisted›.symm
        · simp [read]
      · simp only [read]; rw [if_neg (by omega), if_neg (by omega)]; exact ih ht

/-- A write leaves every other byte. -/
theorem read_write_ne {m : List Host.Cell} (h : wf m = true) {k a : Nat} (b : Byte) (ne : a ≠ k) :
    read (write m k b) a = read m a := by
  induction m with
  | nil =>
    simp only [write]
    split
    · rfl
    · simp only [read]; rw [if_neg (Ne.symm ne)]; split <;> rfl
  | cons c t ih =>
    obtain ⟨k', b'⟩ := c
    obtain ⟨hb, ha, ht⟩ := wf_cons.1 h
    simp only [write]
    split
    · rename_i e
      subst e
      split
      · simp only [read]
        rw [if_neg (Ne.symm ne)]
        split
        · exact read_above (ha.mono (by omega))
        · rfl
      · simp only [read]
        rw [if_neg (Ne.symm ne), if_neg (Ne.symm ne)]
    · split
      · split
        · rfl
        · simp only [read]
          rw [if_neg (Ne.symm ne)]
          split
          · rw [if_neg (by omega), if_pos (by omega)]
          · rfl
      · simp only [read]
        split
        · rfl
        · split
          · rfl
          · exact ih ht

/-- A number that is written keeps the canonical form. -/
theorem wf_writeLE {m : List Host.Cell} (h : wf m = true) (k n v : Nat) : wf (writeLE m k n v) = true := by
  induction n generalizing m k v with
  | zero => exact h
  | succ n ih => exact ih (wf_write h k _) _ _

/-- Bytes that are written keep the canonical form. -/
theorem wf_writeBytes {m : List Host.Cell} (h : wf m = true) (k : Nat) (bs : List Byte) : wf (writeBytes m k bs) = true := by
  induction bs generalizing m k with
  | nil => exact h
  | cons b t ih => exact ih (wf_write h k b) _

/-- Bytes outside those of a number that is written stay. -/
theorem read_writeLE_ne {m : List Host.Cell} (h : wf m = true) {k n a : Nat} (v : Nat) (ne : a < k ∨ k + n ≤ a) :
    read (writeLE m k n v) a = read m a := by
  induction n generalizing m k v with
  | zero => rfl
  | succ n ih =>
    simp only [writeLE]
    rw [ih (wf_write h k _) _ (by omega), read_write_ne h _ (by omega)]

/-- Bytes outside those that are written stay. -/
theorem read_writeBytes_ne {m : List Host.Cell} (h : wf m = true) {k a : Nat} (bs : List Byte)
    (ne : a < k ∨ k + bs.length ≤ a) : read (writeBytes m k bs) a = read m a := by
  induction bs generalizing m k with
  | nil => rfl
  | cons b t ih =>
    simp only [List.length_cons] at ne
    simp only [writeBytes]
    rw [ih (wf_write h k b) (by omega), read_write_ne h _ (by omega)]

/-- The bytes of a number that was written. -/
theorem read_writeLE {m : List Host.Cell} (h : wf m = true) (k n v : Nat) {i : Nat} (hi : i < n) :
    read (writeLE m k n v) (k + i) = BitVec.ofNat 8 (v / 256 ^ i) := by
  induction n generalizing m k v i with
  | zero => omega
  | succ n ih =>
    simp only [writeLE]
    cases i with
    | zero =>
      rw [read_writeLE_ne (wf_write h k _) _ (by omega), Nat.add_zero, read_write_same h]
      simp
    | succ i =>
      rw [show k + (i + 1) = (k + 1) + i by omega, ih (wf_write h k _) _ _ (by omega), Nat.div_div_eq_div_mul, Nat.pow_succ,
        Nat.mul_comm]

/-- A filter on keys keeps the canonical form. -/
theorem wf_filter {m : List Host.Cell} (h : wf m = true) (p : Host.Cell → Bool) : wf (m.filter p) = true := by
  induction m with
  | nil => rfl
  | cons c t ih =>
    obtain ⟨k, b⟩ := c
    obtain ⟨hb, ha, ht⟩ := wf_cons.1 h
    rw [List.filter_cons]
    split
    · exact wf_cons.2 ⟨hb, fun c hc => ha c (List.mem_filter.1 hc).1, ih ht⟩
    · exact ih ht

end Memory

/-- What one write leaves on the blocks it touches is not in memory. -/
theorem State.report_mem (s : State) (b : Nat) (i : McInfo) : (s.report b i).1.mem = s.mem := by
  unfold State.report State.tick; rfl

theorem State.addPoison_mem (s : State) (b : Nat) : (s.addPoison b).mem = s.mem := by unfold State.addPoison; split <;> rfl

theorem State.reportBlock_mem (s : State) (b c x : Nat) (i : Bool) : (s.reportBlock b c x i).mem = s.mem := by
  unfold State.reportBlock; split
  · rfl
  · exact State.report_mem _ _ _

theorem State.parity_mem (s : State) (b : Nat) (p : Bool) : (s.parity b p).mem = s.mem := by
  unfold State.parity; split
  · rfl
  · dsimp only; split <;> rfl

theorem State.inject_mem (s : State) (b : Nat) : (s.inject b).mem = s.mem := by
  unfold State.inject
  split
  · rfl
  · split
    · rfl
    · dsimp only
      split
      · split
        · split
          · rw [State.reportBlock_mem, State.addPoison_mem]
          · rw [State.reportBlock_mem, State.addPoison_mem]
        · rfl
      · rfl

theorem State.writeBlock_mem (s : State) (k n : Nat) (p : Bool) (b : Nat) : (s.writeBlock k n p b).mem = s.mem := by
  unfold State.writeBlock
  dsimp only
  rw [State.inject_mem, State.parity_mem]
  split <;> rfl

theorem State.foldl_mem {α : Type} (f : State → α → State) (hf : ∀ s a, (f s a).mem = s.mem) (xs : List α) (s : State) :
    (xs.foldl f s).mem = s.mem := by
  induction xs generalizing s with
  | nil => rfl
  | cons x t ih => rw [List.foldl_cons, ih, hf]

/-- A write of bytes changes memory as `Memory.writeBytes` does, or not at all where the memory is fenced. -/
theorem State.storeBytes_mem (s : State) (k : Nat) (p : Bool) (bs : List Byte) :
    (s.storeBytes k p bs).mem = if s.fenced k then s.mem else Memory.writeBytes s.mem k bs := by
  unfold State.storeBytes
  split
  · rfl
  · dsimp only
    rw [State.foldl_mem _ fun s b => State.writeBlock_mem s _ _ _ b]

/-- A write of bytes keeps the canonical form. -/
theorem State.storeBytes_wf (s : State) (k : Nat) (p : Bool) (bs : List Byte) (h : Memory.wf s.mem = true) :
    Memory.wf (s.storeBytes k p bs).mem = true := by
  rw [State.storeBytes_mem]
  split
  · exact h
  · exact Memory.wf_writeBytes h _ _

/-- The memory of reset has the canonical form. -/
theorem reset_wf : Memory.wf State.reset.mem = true := rfl

end Sys2Proof.Machine
end

