-- ==== Sys2Proof/Laws/Ops.lean ====
section
/-! SUPPORT. Shared operations, each said once: tables, harts, the ends of an instruction, trap entry, computations that may trap
or wait, the frame of a lane-governed word, and the turns of a step. -/

set_option Elab.async false

namespace Sys2Proof

namespace Table

/-- The entry that was set. -/
theorem find?_set_same {α : Type} (t : List (Nat × α)) (k : Nat) (v : α) : find? (set t k v) k = some v := by
  induction t with
  | nil => simp [set, find?]
  | cons c t ih =>
    obtain ⟨k', v'⟩ := c
    simp only [set]
    split
    · simp [find?]
    · split
      · simp [find?]
      · simp only [find?]; rw [if_neg ‹_›]; exact ih

/-- Another entry stays. -/
theorem find?_set_ne {α : Type} (t : List (Nat × α)) {k j : Nat} (v : α) (h : j ≠ k) : find? (set t k v) j = find? t j := by
  induction t with
  | nil => simp [set, find?, Ne.symm h]
  | cons c t ih =>
    obtain ⟨k', v'⟩ := c
    simp only [set]
    split
    · rename_i e; subst e; simp [find?, Ne.symm h]
    · split
      · simp only [find?]; rw [if_neg (Ne.symm h)]
      · simp only [find?]; split
        · rfl
        · exact ih

/-- Another entry stays where one is erased. -/
theorem find?_erase_ne {α : Type} (t : List (Nat × α)) {k j : Nat} (h : j ≠ k) : find? (erase t k) j = find? t j := by
  induction t with
  | nil => rfl
  | cons c t ih =>
    obtain ⟨k', v'⟩ := c
    simp only [erase]
    split
    · rename_i e; subst e; simp [find?, Ne.symm h]
    · simp only [find?]; split
      · rfl
      · exact ih

theorem get_set_same {α : Type} (t : List (Nat × α)) (k : Nat) (v d : α) : get (set t k v) k d = v := by
  simp [get, find?_set_same]

theorem get_set_ne {α : Type} (t : List (Nat × α)) {k j : Nat} (v d : α) (h : j ≠ k) : get (set t k v) j d = get t j d := by
  simp [get, find?_set_ne t v h]

end Table

namespace Machine

/-! ### Harts and banks -/

/-- A hart that was put in its place is there. -/
theorem State.hartAt_putHart_same (s : State) (h : Hart) : (s.putHart h).hartAt h.num = h := by
  unfold State.putHart State.hartAt
  split
  · simp
  · rename_i ne
    simp only
    exact Table.get_set_same _ _ _ _

/-- Putting a hart in its place leaves every other one. -/
theorem State.hartAt_putHart_ne (s : State) (h : Hart) {m : Nat} (ne : m ≠ h.num) : (s.putHart h).hartAt m = s.hartAt m := by
  unfold State.putHart State.hartAt
  split
  · rename_i e
    simp only [if_neg (e ▸ ne : ¬ m = s.hart.num)]
  · simp only
    split
    · rfl
    · rw [Table.get_set_ne _ _ _ ne]

theorem State.putHart_mem (s : State) (h : Hart) : (s.putHart h).mem = s.mem := by
  unfold State.putHart; split <;> rfl

/-- A bank that was set. -/
theorem State.bank_setBank_same (s : State) (b : Nat) (k : Bank) : (s.setBank b k).bank b = k := by
  simp [State.setBank, State.bank, Table.get_set_same]

theorem State.bank_setBank_ne (s : State) {b c : Nat} (k : Bank) (h : c ≠ b) : (s.setBank b k).bank c = s.bank c := by
  simp [State.setBank, State.bank, Table.get_set_ne _ _ _ h]

/-- An error changes the clock and its bank alone. -/
theorem State.report_frame (s : State) (b : Nat) (i : McInfo) :
    (s.report b i).1 = { s with clock := s.tick.clock, ticks := s.ticks + 1, rel := (s.report b i).1.rel } := rfl

/-- The class counters of a bank after an error (15 R406, R407). -/
theorem Bank.record_counts (k : Bank) (r : McRec) :
    ((k.record r).1.ncorr, (k.record r).1.ncont, (k.record r).1.nfatal, (k.record r).1.fenced) =
      ((k.count r.cls).ncorr, (k.count r.cls).ncont, (k.count r.cls).nfatal, (k.count r.cls).fenced) := by
  unfold Bank.record
  dsimp only
  split
  · rfl
  · split <;> rfl

/-! ### The ends of an instruction -/

@[simp] theorem State.finish_done (w : IWord) (s : State) : State.finish w (.done s) = (s.retire 1).setPc (s.hart.pc + 4) := rfl

@[simp] theorem State.finish_jump (w : IWord) (s : State) : State.finish w (.jump s) = s.retire 1 := rfl

@[simp] theorem State.finish_trap (w : IWord) (c : Cause) (s : State) :
    State.finish w (.trap c s) = s.takeTrap (wordInfo s.hart.isCtl w) c := rfl

@[simp] theorem State.finish_wait (w : IWord) (s : State) :
    State.finish w (.wait s) = { s with hart := { s.hart with st := .waiting } } := rfl

theorem runScalar_eq (w : IWord) (f : State → Eff) (s : State) : runScalar w f s = .next (State.finish w (f s)) := rfl

/-- A word of the vector queue on a compute hart. -/
theorem runQueued_compute (w : IWord) (f : State → Eff) {s : State} (h : s.hart.isCtl = false) :
    runQueued w f s = .next (State.finish w (f s)) := by simp [runQueued, h]

/-- A word of the vector queue on a control hart traps. -/
theorem runQueued_ctl (w : IWord) (f : State → Eff) {s : State} (h : s.hart.isCtl = true) :
    runQueued w f s = .next (s.takeTrap (wordInfo true w) .illegal) := by simp [runQueued, h]

/-- Trap entry while XT is clear: it is the whole change. -/
theorem State.takeTrap_clear (s : State) (t : TrapInfo) (c : Cause) (h : s.hart.xt = false) :
    s.takeTrap t c = { s with hart := { s.hart with
      st := .running, xepc := s.hart.pc, xcause := trapCause t c, xtval := c.xtval t.word s.hart.mode s.hart.vcfg,
      xstatus := BitVec.ofBool true ++ BitVec.ofBool s.hart.inX ++ BitVec.ofBool true
      vcommit := if t.vec then s.hart.pc else s.hart.vcommit, arming := none, asked := [], replies := [], relMark := none
      pc := s.hart.xvec } } := by
  unfold State.takeTrap; simp [h]

/-- Trap entry while XT is set. -/
theorem State.takeTrap_set (s : State) (t : TrapInfo) (c : Cause) (h : s.hart.xt = true) : s.takeTrap t c = s.doubleTrap t c := by
  unfold State.takeTrap; simp [h]

/-! ### What traps do to memory -/

theorem State.failContext_mem (s : State) (c : Nat) (f : FaultRec) : (s.failContext c f).mem = s.mem := by
  unfold State.failContext; split <;> rfl

theorem State.loseFrontEnd_mem (s : State) : s.loseFrontEnd.mem = s.mem := by
  unfold State.loseFrontEnd
  dsimp only
  rw [State.foldl_mem _ (fun s x => State.failContext_mem s _ _), State.report_mem]

theorem State.beginTakeover_mem (s : State) : s.beginTakeover.mem = s.mem := by
  unfold State.beginTakeover; split
  · exact State.loseFrontEnd_mem s
  · rfl

theorem State.controlHalted_mem (s : State) (n : Nat) : (s.controlHalted n).mem = s.mem := by
  unfold State.controlHalted
  split
  · exact State.beginTakeover_mem s
  · split
    · split
      · exact State.loseFrontEnd_mem s
      · rfl
    · split <;> rfl

/-- No trap writes memory. -/
theorem State.takeTrap_mem (s : State) (t : TrapInfo) (c : Cause) : (s.takeTrap t c).mem = s.mem := by
  unfold State.takeTrap
  dsimp only
  split
  · unfold State.doubleTrap
    dsimp only
    split
    · rw [State.controlHalted_mem, State.report_mem]
    · rw [State.failContext_mem, State.report_mem]
  · rfl

/-- The memory after an instruction is the memory of the end of its effect. -/
theorem State.finish_mem (w : IWord) (e : Eff) :
    (State.finish w e).mem = match e with | .done t => t.mem | .jump t => t.mem | .trap _ t => t.mem | .wait t => t.mem := by
  cases e with
  | trap c t => exact State.takeTrap_mem _ _ _
  | _ => rfl

/-! ### Computations that may trap or wait -/

theorem Act.bind_apply {α β : Type} (x : Act α) (f : α → Act β) (s : State) :
    (x >>= f) s = match x s with
      | (.ok a, t) => f a t
      | (.error e, t) => (.error e, t) := by
  show (ExceptT.bind x f : Act β) s = _
  unfold ExceptT.bind ExceptT.mk
  show (do let r ← x; ExceptT.bindCont f r : StateM State _) s = _
  show (ExceptT.bindCont f (x s).1) (x s).2 = _
  cases h : x s with
  | mk r t => cases r <;> rfl

@[simp] theorem Act.pure_apply {α : Type} (a : α) (s : State) : (pure a : Act α) s = (.ok a, s) := rfl

@[simp] theorem Act.throw_apply {α : Type} (e : Stop) (s : State) : (throw e : Act α) s = (.error e, s) := rfl

@[simp] theorem Act.trap_apply {α : Type} (c : Cause) (s : State) : (Act.trap c : Act α) s = (.error (.trap c), s) := rfl

@[simp] theorem Act.get_apply (s : State) : (get : Act State) s = (.ok s, s) := rfl

@[simp] theorem Act.set_apply (t s : State) : (set t : Act PUnit) s = (.ok (), t) := rfl

@[simp] theorem Act.modifyHart_apply (f : Hart → Hart) (s : State) :
    Act.modifyHart f s = (.ok (), { s with hart := f s.hart }) := rfl

/-- A hart access as a computation. -/
theorem Act.got_apply (f : State → Got) (s : State) :
    Act.got f s = match f s with
      | .ok v t => (.ok v, t)
      | .trap c t => (.error (.trap c), t)
      | .wait on => (.error (.wait on), s) := by
  unfold Act.got
  rw [Act.bind_apply]
  simp only [Act.get_apply]
  cases f s <;> rfl

theorem Act.load_apply (va : Word) (n : Nat) (s : State) :
    Act.load va n s = match s.loadN va n s.convoy with
      | .ok v t => (.ok v, t)
      | .trap c t => (.error (.trap c), t)
      | .wait on => (.error (.wait on), s) := Act.got_apply _ _

theorem Act.effect_ok {a : Act Unit} {s t : State} (h : a s = (.ok (), t)) : Act.effect a s = .done t := by
  unfold Act.effect; rw [h]

theorem Act.effect_trap {a : Act Unit} {s t : State} {c : Cause} (h : a s = (.error (.trap c), t)) :
    Act.effect a s = .trap c { t with hart := s.hart } := by
  unfold Act.effect; rw [h]

theorem Act.effect_wait {a : Act Unit} {s t : State} {on : List Nat} (h : a s = (.error (.wait on), t)) :
    Act.effect a s = .wait (s.awaits on) := by
  unfold Act.effect; rw [h]

/-- What waits upon no array asks for no exit. -/
@[simp] theorem State.awaits_nil (s : State) : s.awaits [] = s := by simp [State.awaits]

/-- Asking for exits changes nothing else. -/
@[simp] theorem State.awaits_hart (s : State) (on : List Nat) : (s.awaits on).hart = s.hart := rfl

@[simp] theorem State.awaits_mem (s : State) (on : List Nat) : (s.awaits on).mem = s.mem := rfl

/-! ### The frame of a lane-governed word (04 R160, R161) -/

theorem laneGoverned_ill (p : Hart → Bool) (b : Act Unit) {s : State} (h : s.hart.ill = true) :
    laneGoverned p b s = .trap .vcfgIll s := by simp [laneGoverned, h]

theorem laneGoverned_none (p : Hart → Bool) (b : Act Unit) {s : State} (h : s.hart.ill = false) (hp : p s.hart = false) :
    laneGoverned p b s = .done { s with hart := s.hart.restart } := by simp [laneGoverned, h, hp]

/-- With a lane the body runs, and VSTART and MSTART are 0 afterwards. -/
theorem laneGoverned_runs (p : Hart → Bool) {b : Act Unit} {s t : State} (h : s.hart.ill = false) (hp : p s.hart = true)
    (hb : b s = (.ok (), t)) : laneGoverned p b s = .done { t with hart := t.hart.restart } := by
  unfold laneGoverned
  simp only [h, hp]
  apply Act.effect_ok
  rw [Act.bind_apply, hb]
  rfl

/-- With a lane a body that traps traps, and the hart is as it was. -/
theorem laneGoverned_traps (p : Hart → Bool) {b : Act Unit} {s t : State} {c : Cause} (h : s.hart.ill = false)
    (hp : p s.hart = true) (hb : b s = (.error (.trap c), t)) :
    laneGoverned p b s = .trap c { t with hart := s.hart } := by
  unfold laneGoverned
  simp only [h, hp]
  apply Act.effect_trap
  rw [Act.bind_apply, hb]

/-! ### Accesses -/

/-- A read that succeeds does not depend on how many instructions its failure would squash. -/
theorem State.readNat_ok {s t : State} {ps : List Part} {v p : Nat} (h : s.readNat ps p = .ok v t) (q : Nat) :
    s.readNat ps q = .ok v t := by
  unfold State.readNat at h ⊢
  split at h
  · exact h
  · cases h

/-- So a load that succeeds is the same load wherever it stands (15 R414). -/
theorem State.loadN_ok {s t : State} {va : Word} {n v p : Nat} (h : s.loadN va n p = .ok v t) (q : Nat) :
    s.loadN va n q = .ok v t := by
  unfold State.loadN at h ⊢
  split at h
  · cases h
  · cases h
  · exact State.readNat_ok h q

/-- A load that succeeds, as a computation. -/
theorem Act.load_ok {s t : State} {va : Word} {n v : Nat} (h : s.loadN va n = .ok v t) : Act.load va n s = (.ok v, t) := by
  rw [Act.load_apply, State.loadN_ok h]

/-- A load of plain memory that no claim, code or poison holds back. -/
theorem State.loadN_plain {s : State} {va : Word} {n k q : Nat} {h p : Bool}
    (hc : s.check s.hart.env s.hart.num .load va n = .ok [⟨va, n, .mem k h p⟩]) (hr : s.readCheck k n = (s, none)) :
    s.loadN va n q = .ok (leNat (Memory.readBytes s.mem k n)) s := by
  unfold State.loadN State.readNat
  rw [hc]
  simp [State.readParts, State.readPart, hr, lowest]

/-- A store to plain memory. -/
theorem State.storeN_plain {s : State} {va : Word} {n k : Nat} {h p : Bool} (v : Nat)
    (hc : s.check s.hart.env s.hart.num .store va n = .ok [⟨va, n, .mem k h p⟩]) :
    s.storeN va n v = .ok 0 (s.storeBytes k p ((leBytes n v).take n)) := by
  unfold State.storeN
  rw [hc]
  rfl

/-! ### The turns of a step -/

/-- With an empty agenda a running hart takes the step. -/
theorem step_running {s : State} (ha : s.agenda = []) (hr : s.hart.st = .running) : step s = s.hartTurn := by
  unfold step State.freeTurn
  rw [ha]
  simp [hr]

/-- The party at the head of the agenda takes the step. -/
theorem step_agenda {s : State} {t : Turn} {ts : List Turn} (ha : s.agenda = t :: ts) :
    step s = State.takeTurn t { s with agenda := ts } := by
  unfold step; rw [ha]

/-- Every instruction and every event answers a next state. -/
theorem exec_next (i : Instr) (s : State) : ∃ t, exec i s = .next t := by
  cases i with
  | wordNotAnInstruction w =>
    show ∃ t, execWordNotAnInstruction w s = .next t
    unfold execWordNotAnInstruction
    split <;> exact ⟨_, rfl⟩
  | _ => exact ⟨_, rfl⟩

/-- A hart that has not given its turn away takes it (05 R198). -/
theorem State.hartTurn_own {s : State} (h : s.hart.yielded = false) : s.hartTurn = s.ownTurn := by
  unfold State.hartTurn State.givenTurn; simp [h]

/-- The turn of a hart answers a next state. -/
theorem State.hartTurn_next (s : State) : ∃ t, s.hartTurn = .next t := by
  unfold State.hartTurn State.ownTurn
  split
  · unfold State.runHart
    dsimp only
    split
    · exact ⟨_, rfl⟩
    · exact ⟨_, rfl⟩
    · exact ⟨_, rfl⟩
    · unfold State.runWord Decoded.run
      split
      · exact exec_next _ _
      · exact exec_next (.wordNotAnInstruction _) _
  · exact ⟨_, rfl⟩

/-- A step answers a next state, but for an agenda that names a hart which the module does not have (log 2). -/
theorem step_cases (s : State) : (∃ t, step s = .next t) ∨ ((∃ n ts, s.agenda = .hart n :: ts ∧ 1155 ≤ n) ∧ step s = .fault .noSuchHart) := by
  unfold step
  split
  · refine .inl ?_
    unfold State.freeTurn
    split
    · split
      · exact ⟨_, rfl⟩
      · exact State.hartTurn_next s
    · exact State.hartTurn_next s
  · rename_i t ts e
    cases t with
    | hart n =>
      by_cases h : n < 1155
      · simp only [State.takeTurn, if_pos h]; exact .inl (State.hartTurn_next _)
      · exact .inr ⟨⟨n, ts, e, by omega⟩, if_neg h⟩
    | event i =>
      refine .inl ?_
      simp only [State.takeTurn, State.eventTurn]
      split
      · exact ⟨_, rfl⟩
      · split
        · exact ⟨_, rfl⟩
        · exact ⟨_, rfl⟩
        · exact exec_next _ _
        · split
          · exact ⟨_, rfl⟩
          · exact exec_next _ _
    | fill n va => exact .inl ⟨_, rfl⟩

end Machine

end Sys2Proof
end

