-- ==== Sys2Proof/Laws/Operands.lean ====
section
/-! SUPPORT. The element loop and register groups: what assembled elements read as, what a group write leaves in each register,
and the operands of a hart without bound streams. -/

set_option Elab.async false

namespace Sys2Proof.Machine

/-- Assembled elements fit in their places. -/
theorem assemble_lt (w : Nat) (xs : List Nat) : assemble w xs < 2 ^ (w * xs.length) := by
  induction xs with
  | nil => simp [assemble]
  | cons x t ih =>
    have h := Nat.mod_lt x (Nat.two_pow_pos w)
    have e : assemble w (x :: t) = x % 2 ^ w + assemble w t * 2 ^ w := rfl
    rw [e, List.length_cons, Nat.mul_succ, Nat.pow_add]
    have h2 : (assemble w t + 1) * 2 ^ w ≤ 2 ^ (w * t.length) * 2 ^ w := Nat.mul_le_mul_right _ ih
    rw [Nat.add_mul, Nat.one_mul] at h2
    omega

/-- An element of assembled ones. -/
theorem elem_assemble (w : Nat) (xs : List Nat) (i : Nat) : elem w (assemble w xs) i = xs.getD i 0 % 2 ^ w := by
  induction xs generalizing i with
  | nil => simp [assemble, elem]
  | cons x t ih =>
    have e : assemble w (x :: t) = x % 2 ^ w + assemble w t * 2 ^ w := rfl
    cases i with
    | zero => simp [elem, e]
    | succ i =>
      have : elem w (assemble w (x :: t)) (i + 1) = elem w (assemble w t) i := by
        unfold elem
        rw [e, Nat.mul_succ, Nat.add_comm (w * i), Nat.pow_add, ← Nat.div_div_eq_div_mul, Nat.add_mul_div_right _ _ (Nat.two_pow_pos w),
          Nat.div_eq_of_lt (Nat.mod_lt _ (Nat.two_pow_pos w)), Nat.zero_add]
      rw [this, ih]
      simp

theorem testBit_elem (w g i j : Nat) : (elem w g i).testBit j = (decide (j < w) && g.testBit (w * i + j)) := by
  unfold elem
  rw [Nat.testBit_mod_two_pow, Nat.testBit_div_two_pow, Nat.add_comm]

/-- An element of a string of bits below a place, and one above it. -/
theorem elem_join (w n lo hi i : Nat) (h : lo < 2 ^ (w * n)) :
    elem w (lo + hi * 2 ^ (w * n)) i = if i < n then elem w lo i else elem w hi (i - n) := by
  apply Nat.eq_of_testBit_eq
  intro j
  rw [testBit_elem, Nat.add_comm lo, Nat.mul_comm hi, Nat.testBit_two_pow_mul_add _ h]
  by_cases hi' : i < n
  · have : w * (i + 1) ≤ w * n := Nat.mul_le_mul_left _ hi'
    rw [Nat.mul_succ] at this
    rw [if_pos hi', testBit_elem]
    by_cases hj : j < w
    · rw [if_pos (by omega)]
    · simp [hj]
  · have e : w * i = w * n + w * (i - n) := by rw [← Nat.mul_add]; congr 1; omega
    rw [if_neg hi', testBit_elem]
    by_cases hj : j < w
    · rw [if_neg (by omega)]
      congr 2
      omega
    · simp [hj]

/-- An element of the element loop (02 R97). -/
theorem Hart.elem_loop (h : Hart) (w old : Nat) (op : Nat → Nat × Flags) (i : Nat) :
    elem w (h.loop w old op).1 i =
      if i < h.vl.toNat then (h.lane w old op i).1 % 2 ^ w else if h.tailZero then 0 else elem w old i := by
  have hl : (((List.range h.vl.toNat).map (h.lane w old op)).map Prod.fst).length = h.vl.toNat := by simp
  have hb := assemble_lt w (((List.range h.vl.toNat).map (h.lane w old op)).map Prod.fst)
  rw [hl] at hb
  show elem w (assemble w _ + h.tail w old) i = _
  unfold Hart.tail
  split
  · rename_i ht
    rw [Nat.add_zero, elem_assemble]
    split
    · rename_i hi; simp [List.getD, hi]
    · rename_i hi
      simp [List.getD, hi]
  · rename_i ht
    rw [elem_join _ _ _ _ _ hb, elem_assemble]
    split
    · rename_i hi; simp [List.getD, hi]
    · rename_i hi
      apply Nat.eq_of_testBit_eq
      intro j
      have e : w * i = w * h.vl.toNat + w * (i - h.vl.toNat) := by rw [← Nat.mul_add]; congr 1; omega
      rw [testBit_elem, testBit_elem, Nat.testBit_div_two_pow]
      congr 2
      omega

/-- The bits of a group fit in its registers. -/
theorem Hart.readRegs_lt (h : Hart) (reg n : Nat) : h.readRegs reg n < 2 ^ (h.regBits * n) := by
  induction n with
  | zero => simp [Hart.readRegs]
  | succ n ih =>
    unfold Hart.readRegs
    have h1 := Nat.mod_lt (h.readV (reg + n)).toNat (Nat.two_pow_pos h.regBits)
    rw [Nat.mul_succ, Nat.pow_add, Nat.mul_comm (2 ^ (h.regBits * n))]
    have h2 : ((h.readV (reg + n)).toNat % 2 ^ h.regBits + 1) * 2 ^ (h.regBits * n) ≤ 2 ^ h.regBits * 2 ^ (h.regBits * n) :=
      Nat.mul_le_mul_right _ h1
    rw [Nat.add_mul, Nat.one_mul] at h2
    omega

/-- A group write leaves every field of the hart but the vector registers. -/
theorem Hart.writeRegs_frame (h : Hart) (reg v n : Nat) : h.writeRegs reg v n = { h with vregs := (h.writeRegs reg v n).vregs } := by
  induction n with
  | zero => rfl
  | succ n ih =>
    unfold Hart.writeRegs Hart.writeV
    rw [ih]

/-- Tags that are set leave every other field of the hart. -/
theorem Hart.setTags_frame (h : Hart) (reg : Nat) (t : BitVec 6) (n : Nat) :
    h.setTags reg t n = { h with tags := (h.setTags reg t n).tags } := by
  induction n with
  | zero => rfl
  | succ n ih =>
    unfold Hart.setTags Hart.setTag
    rw [ih]

/-- Another entry of a vector stays. -/
theorem getD_setIfInBounds_ne {α : Type} {n : Nat} (v : Vector α n) {i r : Nat} (x d : α) (h : r ≠ i) :
    (v.setIfInBounds i x).getD r d = v.getD r d := by
  unfold Vector.getD
  rw [Array.getD_eq_getD_getElem?, Array.getD_eq_getD_getElem?]
  simp [Ne.symm h]

/-- What a group write leaves in a register. -/
theorem Hart.readV_writeRegs (h : Hart) (reg v n r : Nat) (hr : reg + n ≤ 32) :
    (h.writeRegs reg v n).readV r = if reg ≤ r ∧ r < reg + n then h.slice v (r - reg) else h.readV r := by
  induction n with
  | zero => rw [if_neg (by omega)]; rfl
  | succ n ih =>
    have ih := ih (by omega)
    show (Hart.writeV (h.writeRegs reg v n) (reg + n) (h.slice v n)).readV r = _
    unfold Hart.writeV Hart.readV
    by_cases e : r = reg + n
    · subst e
      rw [if_pos (by omega), Nat.add_sub_cancel_left]
      simp [Vector.getD, show reg + n < 32 by omega]
    · have : ((h.writeRegs reg v n).vregs.setIfInBounds (reg + n) (h.slice v n)).getD r 0 = (h.writeRegs reg v n).readV r := by
        exact getD_setIfInBounds_ne _ _ _ e
      refine this.trans (ih.trans ?_)
      by_cases h2 : reg ≤ r ∧ r < reg + n
      · rw [if_pos h2, if_pos (by omega)]
      · rw [if_neg h2, if_neg (by omega)]
        rfl

/-- What setting the tags of a group leaves in a register's tag. -/
theorem Hart.tag_setTags (h : Hart) (reg : Nat) (t : BitVec 6) (n r : Nat) (hr : reg + n ≤ 32) :
    (h.setTags reg t n).tag r = if reg ≤ r ∧ r < reg + n then t else h.tag r := by
  induction n with
  | zero => rw [if_neg (by omega)]; rfl
  | succ n ih =>
    have ih := ih (by omega)
    show (Hart.setTag (h.setTags reg t n) (reg + n) t).tag r = _
    unfold Hart.setTag Hart.tag
    by_cases e : r = reg + n
    · subst e
      rw [if_pos (by omega)]
      simp [Vector.getD, show reg + n < 32 by omega]
    · have : ((h.setTags reg t n).tags.setIfInBounds (reg + n) t).getD r 0 = (h.setTags reg t n).tag r := by
        exact getD_setIfInBounds_ne _ _ _ e
      refine this.trans (ih.trans ?_)
      by_cases h2 : reg ≤ r ∧ r < reg + n
      · rw [if_pos h2, if_pos (by omega)]
      · rw [if_neg h2, if_neg (by omega)]
        rfl

/-- An operand's stream register that is not bound delivers nothing. -/
theorem Act.openStream_unbound (srcs dsts : List Opnd) (r : Nat) {s : State} (h : s.hart.bound r = false) :
    Act.openStream srcs dsts r s = (.ok (), s) := by
  unfold Act.openStream
  rw [Act.bind_apply]
  simp only [Act.get_apply, h, if_true]
  rfl

/-- A computation that completes is not held up by what comes before its stops. -/
theorem Act.unless_ok {α : Type} {early : Act Unit} {a : Act α} {x : α} {s t : State} (h : a s = (.ok x, t)) :
    Act.unless early a s = (.ok x, t) := by
  unfold Act.unless; rw [h]

/-- Stream registers that are not bound deliver nothing. -/
theorem Act.openEach_unbound (srcs dsts : List Opnd) {s : State} (rs : List Nat) (h : ∀ r ∈ rs, s.hart.bound r = false) :
    Act.openEach srcs dsts rs s = (.ok (), s) := by
  induction rs with
  | nil => rfl
  | cons r rs ih =>
    unfold Act.openEach
    rw [Act.bind_apply, Act.unless_ok (Act.openStream_unbound srcs dsts r (h r (by simp)))]
    exact ih fun q hq => h q (by simp [hq])

/-- A hart without bound streams: the operands are as they stand. -/
theorem delivered_unbound (srcs dsts : List Opnd) {s : State} (h : ∀ r < 4, s.hart.bound r = false) : Delivered s srcs dsts s :=
  Act.openEach_unbound srcs dsts _ fun r hr => h r (by simp at hr; omega)

end Sys2Proof.Machine
end

