-- ==== Sys2Proof/Laws/PerInstr.lean ====
section
/-! SUPPORT. Statements made per instruction. RoundTrip: the decoder reads the word of an instruction as that instruction
(04 R141 to R157). -/

set_option Elab.async false

namespace Sys2Proof.Laws.RoundTrip

/-- The decoder reads the instruction's word, if it has one, as the instruction. -/
def Statement (i : Instr) : Prop := ∀ w, encode i = some w → decode w = .instr i

/-- A statement about the one word. -/
theorem of_word {i : Instr} {v : IWord} (e : encode i = some v) (h : decodeNat v.toNat = .instr i) : Statement i := by
  intro w hw
  rw [e] at hw
  exact Option.some.inj hw ▸ h

/-- A step of the device has no word. -/
theorem of_none {i : Instr} (e : encode i = none) : Statement i := by
  intro w hw
  rw [e] at hw
  cases hw

theorem rFmt_toNat (op d a b fn : Nat) (h : op < 64 ∧ d < 32 ∧ a < 32 ∧ b < 32 ∧ fn < 2048) :
    (rFmt op d a b fn).toNat = op * 67108864 + d * 2097152 + a * 65536 + b * 2048 + fn := by
  simp only [rFmt, BitVec.toNat_ofNat]; omega

theorem iFmt_toNat (op d a imm : Nat) (h : op < 64 ∧ d < 32 ∧ a < 32 ∧ imm < 65536) :
    (iFmt op d a imm).toNat = op * 67108864 + d * 2097152 + a * 65536 + imm := by
  simp only [iFmt, BitVec.toNat_ofNat]; omega

theorem jFmt_toNat (op low : Nat) (h : op < 64 ∧ low < 67108864) : (jFmt op low).toNat = op * 67108864 + low := by
  simp only [jFmt, BitVec.toNat_ofNat]; omega

theorem cFmt_toNat (op d sub low : Nat) (h : op < 64 ∧ d < 32 ∧ sub < 4 ∧ low < 524288) :
    (cFmt op d sub low).toNat = op * 67108864 + d * 2097152 + sub * 524288 + low := by
  simp only [cFmt, BitVec.toNat_ofNat]; omega

/-- A field of a word read back. -/
theorem ofNat_field {k : Nat} (x : BitVec k) (n : Nat) (h : n % 2 ^ k = x.toNat) : BitVec.ofNat k n = x :=
  BitVec.eq_of_toNat_eq (by rw [BitVec.toNat_ofNat, h])

/-! ### Each major goes to its own part of the decoder -/

theorem at_01 {n : Nat} (h : n / 67108864 % 64 = 0x01) : decodeNat n = decode01 n := by
  unfold decodeNat; rw [h]; unfold decodeMost; rw [h]; rfl

theorem at_02 {n : Nat} (h : n / 67108864 % 64 = 0x02) : decodeNat n = decode02 n := by
  unfold decodeNat; rw [h]; unfold decodeMost; rw [h]; rfl

theorem at_03 {n : Nat} (h : n / 67108864 % 64 = 0x03) : decodeNat n = decode03 n := by
  unfold decodeNat; rw [h]; unfold decodeMost; rw [h]; rfl

theorem at_04 {n : Nat} (h : n / 67108864 % 64 = 0x04) : decodeNat n = decode04 n := by
  unfold decodeNat; rw [h]; rfl

theorem at_05 {n : Nat} (h : n / 67108864 % 64 = 0x05) : decodeNat n = decode05 n := by
  unfold decodeNat; rw [h]; rfl

theorem at_06 {n : Nat} (h : n / 67108864 % 64 = 0x06) : decodeNat n = decode06 n := by
  unfold decodeNat; rw [h]; unfold decodeMost; rw [h]; rfl

theorem at_07 {n : Nat} (h : n / 67108864 % 64 = 0x07) : decodeNat n = decode07 n := by
  unfold decodeNat; rw [h]; unfold decodeMost; rw [h]; rfl

theorem at_08 {n : Nat} (h : n / 67108864 % 64 = 0x08) : decodeNat n = decode08 n := by
  unfold decodeNat; rw [h]; unfold decodeMost; rw [h]; rfl

theorem at_09 {n : Nat} (h : n / 67108864 % 64 = 0x09) : decodeNat n = decode09 n := by
  unfold decodeNat; rw [h]; unfold decodeMost; rw [h]; rfl

theorem at_0A {n : Nat} (h : n / 67108864 % 64 = 0x0A) : decodeNat n = decode0A n := by
  unfold decodeNat; rw [h]; rfl

theorem at_0B {n : Nat} (h : n / 67108864 % 64 = 0x0B) : decodeNat n = decode0B n := by
  unfold decodeNat; rw [h]; rfl

theorem at_0C {n : Nat} (h : n / 67108864 % 64 = 0x0C) : decodeNat n = decode0C n := by
  unfold decodeNat; rw [h]; unfold decodeMost; rw [h]; rfl

theorem at_0D {n : Nat} (h : n / 67108864 % 64 = 0x0D) : decodeNat n = decode0D n := by
  unfold decodeNat; rw [h]; unfold decodeMost; rw [h]; rfl

theorem at_0E {n : Nat} (h : n / 67108864 % 64 = 0x0E) : decodeNat n = decode0E n := by
  unfold decodeNat; rw [h]; unfold decodeMost; rw [h]; rfl

theorem at_0F {n : Nat} (h : n / 67108864 % 64 = 0x0F) : decodeNat n = decode0F n := by
  unfold decodeNat; rw [h]; unfold decodeMost; rw [h]; rfl

theorem at_10 {n : Nat} (h : n / 67108864 % 64 = 0x10) : decodeNat n = decode10 n := by
  unfold decodeNat; rw [h]; unfold decodeMost; rw [h]; rfl

theorem at_11 {n : Nat} (h : n / 67108864 % 64 = 0x11) : decodeNat n = decode11 n := by
  unfold decodeNat; rw [h]; unfold decodeMost; rw [h]; rfl

theorem at_12 {n : Nat} (h : n / 67108864 % 64 = 0x12) : decodeNat n = decode12 n := by
  unfold decodeNat; rw [h]; unfold decodeMost; rw [h]; rfl

theorem at_13 {n : Nat} (h : n / 67108864 % 64 = 0x13) : decodeNat n = decode13 n := by
  unfold decodeNat; rw [h]; unfold decodeMost; rw [h]; rfl

theorem at_14 {n : Nat} (h : n / 67108864 % 64 = 0x14) : decodeNat n = decode14 n := by
  unfold decodeNat; rw [h]; unfold decodeMost; rw [h]; rfl

theorem at_15 {n : Nat} (h : n / 67108864 % 64 = 0x15) : decodeNat n = decode15 n := by
  unfold decodeNat; rw [h]; unfold decodeMost; rw [h]; rfl

theorem at_16 {n : Nat} (h : n / 67108864 % 64 = 0x16) : decodeNat n = decode16 n := by
  unfold decodeNat; rw [h]; unfold decodeMost; rw [h]; rfl

theorem at_17 {n : Nat} (h : n / 67108864 % 64 = 0x17) : decodeNat n = decode17 n := by
  unfold decodeNat; rw [h]; unfold decodeMost; rw [h]; rfl

theorem at_18 {n : Nat} (h : n / 67108864 % 64 = 0x18) : decodeNat n = decode18 n := by
  unfold decodeNat; rw [h]; unfold decodeMost; rw [h]; rfl

theorem at_19 {n : Nat} (h : n / 67108864 % 64 = 0x19) : decodeNat n = decode19 n := by
  unfold decodeNat; rw [h]; unfold decodeMost; rw [h]; rfl

theorem at_20 {n : Nat} (h : n / 67108864 % 64 = 0x20) : decodeNat n = decode20 n := by
  unfold decodeNat; rw [h]; unfold decodeMost; rw [h]; rfl

theorem at_21 {n : Nat} (h : n / 67108864 % 64 = 0x21) : decodeNat n = decode21 n := by
  unfold decodeNat; rw [h]; unfold decodeMost; rw [h]; rfl

theorem at_22 {n : Nat} (h : n / 67108864 % 64 = 0x22) : decodeNat n = decode22 n := by
  unfold decodeNat; rw [h]; unfold decodeMost; rw [h]; rfl

theorem at_23 {n : Nat} (h : n / 67108864 % 64 = 0x23) : decodeNat n = decode23 n := by
  unfold decodeNat; rw [h]; unfold decodeMost; rw [h]; rfl

theorem at_24 {n : Nat} (h : n / 67108864 % 64 = 0x24) : decodeNat n = decode24 n := by
  unfold decodeNat; rw [h]; unfold decodeMost; rw [h]; rfl

theorem at_25 {n : Nat} (h : n / 67108864 % 64 = 0x25) : decodeNat n = decode25 n := by
  unfold decodeNat; rw [h]; unfold decodeMost; rw [h]; rfl

theorem at_26 {n : Nat} (h : n / 67108864 % 64 = 0x26) : decodeNat n = decode26 n := by
  unfold decodeNat; rw [h]; unfold decodeMost; rw [h]; rfl

theorem at_28 {n : Nat} (h : n / 67108864 % 64 = 0x28) : decodeNat n = decode28 n := by
  unfold decodeNat; rw [h]; unfold decodeMost; rw [h]; rfl

theorem at_29 {n : Nat} (h : n / 67108864 % 64 = 0x29) : decodeNat n = decode29 n := by
  unfold decodeNat; rw [h]; unfold decodeMost; rw [h]; rfl

theorem at_2A {n : Nat} (h : n / 67108864 % 64 = 0x2A) : decodeNat n = decode2A n := by
  unfold decodeNat; rw [h]; unfold decodeMost; rw [h]; rfl

theorem at_2B {n : Nat} (h : n / 67108864 % 64 = 0x2B) : decodeNat n = decode2B n := by
  unfold decodeNat; rw [h]; unfold decodeMost; rw [h]; rfl

theorem at_2C {n : Nat} (h : n / 67108864 % 64 = 0x2C) : decodeNat n = decode2C n := by
  unfold decodeNat; rw [h]; unfold decodeMost; rw [h]; rfl

theorem at_2D {n : Nat} (h : n / 67108864 % 64 = 0x2D) : decodeNat n = decode2D n := by
  unfold decodeNat; rw [h]; unfold decodeMost; rw [h]; rfl

theorem at_30 {n : Nat} (h : n / 67108864 % 64 = 0x30) : decodeNat n = decode30 n := by
  unfold decodeNat; rw [h]; unfold decodeMost; rw [h]; rfl

theorem at_31 {n : Nat} (h : n / 67108864 % 64 = 0x31) : decodeNat n = decode31 n := by
  unfold decodeNat; rw [h]; unfold decodeMost; rw [h]; rfl

theorem at_34 {n : Nat} (h : n / 67108864 % 64 = 0x34) : decodeNat n = decode34 n := by
  unfold decodeNat; rw [h]; unfold decodeMost; rw [h]; rfl

theorem at_35 {n : Nat} (h : n / 67108864 % 64 = 0x35) : decodeNat n = decode35 n := by
  unfold decodeNat; rw [h]; unfold decodeMost; rw [h]; rfl

theorem at_38 {n : Nat} (h : n / 67108864 % 64 = 0x38) : decodeNat n = decode38 n := by
  unfold decodeNat; rw [h]; rfl

theorem at_39 {n : Nat} (h : n / 67108864 % 64 = 0x39) : decodeNat n = decode39 n := by
  unfold decodeNat; rw [h]; unfold decodeMost; rw [h]; rfl

/-! ### One lemma per instruction -/

theorem add (d : BitVec 5) (a : BitVec 5) (b : BitVec 5) : Statement (.add d a b) := by
  refine of_word rfl ?_
  have h_d := d.isLt
  have h_a := a.isLt
  have h_b := b.isLt
  rw [rFmt_toNat _ _ _ _ _ (by omega)]
  obtain ⟨n, hn⟩ : ∃ n, 0x01 * 67108864 + d.toNat * 2097152 + a.toNat * 65536 + b.toNat * 2048 + 0 = n := ⟨_, rfl⟩
  rw [hn]
  rw [at_01 (by omega)]
  unfold decode01
  rw [show n % 2048 = 0 by omega]
  rw [← show fD n = d from ofNat_field _ _ (by omega), ← show fA n = a from ofNat_field _ _ (by omega), ← show fB n = b from ofNat_field _ _ (by omega)]
  rfl

theorem sub (d : BitVec 5) (a : BitVec 5) (b : BitVec 5) : Statement (.sub d a b) := by
  refine of_word rfl ?_
  have h_d := d.isLt
  have h_a := a.isLt
  have h_b := b.isLt
  rw [rFmt_toNat _ _ _ _ _ (by omega)]
  obtain ⟨n, hn⟩ : ∃ n, 0x01 * 67108864 + d.toNat * 2097152 + a.toNat * 65536 + b.toNat * 2048 + 1 = n := ⟨_, rfl⟩
  rw [hn]
  rw [at_01 (by omega)]
  unfold decode01
  rw [show n % 2048 = 1 by omega]
  rw [← show fD n = d from ofNat_field _ _ (by omega), ← show fA n = a from ofNat_field _ _ (by omega), ← show fB n = b from ofNat_field _ _ (by omega)]
  rfl

theorem mul (d : BitVec 5) (a : BitVec 5) (b : BitVec 5) : Statement (.mul d a b) := by
  refine of_word rfl ?_
  have h_d := d.isLt
  have h_a := a.isLt
  have h_b := b.isLt
  rw [rFmt_toNat _ _ _ _ _ (by omega)]
  obtain ⟨n, hn⟩ : ∃ n, 0x01 * 67108864 + d.toNat * 2097152 + a.toNat * 65536 + b.toNat * 2048 + 2 = n := ⟨_, rfl⟩
  rw [hn]
  rw [at_01 (by omega)]
  unfold decode01
  rw [show n % 2048 = 2 by omega]
  rw [← show fD n = d from ofNat_field _ _ (by omega), ← show fA n = a from ofNat_field _ _ (by omega), ← show fB n = b from ofNat_field _ _ (by omega)]
  rfl

theorem mulh (d : BitVec 5) (a : BitVec 5) (b : BitVec 5) : Statement (.mulh d a b) := by
  refine of_word rfl ?_
  have h_d := d.isLt
  have h_a := a.isLt
  have h_b := b.isLt
  rw [rFmt_toNat _ _ _ _ _ (by omega)]
  obtain ⟨n, hn⟩ : ∃ n, 0x01 * 67108864 + d.toNat * 2097152 + a.toNat * 65536 + b.toNat * 2048 + 3 = n := ⟨_, rfl⟩
  rw [hn]
  rw [at_01 (by omega)]
  unfold decode01
  rw [show n % 2048 = 3 by omega]
  rw [← show fD n = d from ofNat_field _ _ (by omega), ← show fA n = a from ofNat_field _ _ (by omega), ← show fB n = b from ofNat_field _ _ (by omega)]
  rfl

theorem mulhu (d : BitVec 5) (a : BitVec 5) (b : BitVec 5) : Statement (.mulhu d a b) := by
  refine of_word rfl ?_
  have h_d := d.isLt
  have h_a := a.isLt
  have h_b := b.isLt
  rw [rFmt_toNat _ _ _ _ _ (by omega)]
  obtain ⟨n, hn⟩ : ∃ n, 0x01 * 67108864 + d.toNat * 2097152 + a.toNat * 65536 + b.toNat * 2048 + 4 = n := ⟨_, rfl⟩
  rw [hn]
  rw [at_01 (by omega)]
  unfold decode01
  rw [show n % 2048 = 4 by omega]
  rw [← show fD n = d from ofNat_field _ _ (by omega), ← show fA n = a from ofNat_field _ _ (by omega), ← show fB n = b from ofNat_field _ _ (by omega)]
  rfl

theorem div (d : BitVec 5) (a : BitVec 5) (b : BitVec 5) : Statement (.div d a b) := by
  refine of_word rfl ?_
  have h_d := d.isLt
  have h_a := a.isLt
  have h_b := b.isLt
  rw [rFmt_toNat _ _ _ _ _ (by omega)]
  obtain ⟨n, hn⟩ : ∃ n, 0x01 * 67108864 + d.toNat * 2097152 + a.toNat * 65536 + b.toNat * 2048 + 5 = n := ⟨_, rfl⟩
  rw [hn]
  rw [at_01 (by omega)]
  unfold decode01
  rw [show n % 2048 = 5 by omega]
  rw [← show fD n = d from ofNat_field _ _ (by omega), ← show fA n = a from ofNat_field _ _ (by omega), ← show fB n = b from ofNat_field _ _ (by omega)]
  rfl

theorem divu (d : BitVec 5) (a : BitVec 5) (b : BitVec 5) : Statement (.divu d a b) := by
  refine of_word rfl ?_
  have h_d := d.isLt
  have h_a := a.isLt
  have h_b := b.isLt
  rw [rFmt_toNat _ _ _ _ _ (by omega)]
  obtain ⟨n, hn⟩ : ∃ n, 0x01 * 67108864 + d.toNat * 2097152 + a.toNat * 65536 + b.toNat * 2048 + 6 = n := ⟨_, rfl⟩
  rw [hn]
  rw [at_01 (by omega)]
  unfold decode01
  rw [show n % 2048 = 6 by omega]
  rw [← show fD n = d from ofNat_field _ _ (by omega), ← show fA n = a from ofNat_field _ _ (by omega), ← show fB n = b from ofNat_field _ _ (by omega)]
  rfl

theorem rem (d : BitVec 5) (a : BitVec 5) (b : BitVec 5) : Statement (.rem d a b) := by
  refine of_word rfl ?_
  have h_d := d.isLt
  have h_a := a.isLt
  have h_b := b.isLt
  rw [rFmt_toNat _ _ _ _ _ (by omega)]
  obtain ⟨n, hn⟩ : ∃ n, 0x01 * 67108864 + d.toNat * 2097152 + a.toNat * 65536 + b.toNat * 2048 + 7 = n := ⟨_, rfl⟩
  rw [hn]
  rw [at_01 (by omega)]
  unfold decode01
  rw [show n % 2048 = 7 by omega]
  rw [← show fD n = d from ofNat_field _ _ (by omega), ← show fA n = a from ofNat_field _ _ (by omega), ← show fB n = b from ofNat_field _ _ (by omega)]
  rfl

theorem remu (d : BitVec 5) (a : BitVec 5) (b : BitVec 5) : Statement (.remu d a b) := by
  refine of_word rfl ?_
  have h_d := d.isLt
  have h_a := a.isLt
  have h_b := b.isLt
  rw [rFmt_toNat _ _ _ _ _ (by omega)]
  obtain ⟨n, hn⟩ : ∃ n, 0x01 * 67108864 + d.toNat * 2097152 + a.toNat * 65536 + b.toNat * 2048 + 8 = n := ⟨_, rfl⟩
  rw [hn]
  rw [at_01 (by omega)]
  unfold decode01
  rw [show n % 2048 = 8 by omega]
  rw [← show fD n = d from ofNat_field _ _ (by omega), ← show fA n = a from ofNat_field _ _ (by omega), ← show fB n = b from ofNat_field _ _ (by omega)]
  rfl

theorem and (d : BitVec 5) (a : BitVec 5) (b : BitVec 5) : Statement (.and d a b) := by
  refine of_word rfl ?_
  have h_d := d.isLt
  have h_a := a.isLt
  have h_b := b.isLt
  rw [rFmt_toNat _ _ _ _ _ (by omega)]
  obtain ⟨n, hn⟩ : ∃ n, 0x01 * 67108864 + d.toNat * 2097152 + a.toNat * 65536 + b.toNat * 2048 + 0x10 = n := ⟨_, rfl⟩
  rw [hn]
  rw [at_01 (by omega)]
  unfold decode01
  rw [show n % 2048 = 16 by omega]
  rw [← show fD n = d from ofNat_field _ _ (by omega), ← show fA n = a from ofNat_field _ _ (by omega), ← show fB n = b from ofNat_field _ _ (by omega)]
  rfl

theorem or (d : BitVec 5) (a : BitVec 5) (b : BitVec 5) : Statement (.or d a b) := by
  refine of_word rfl ?_
  have h_d := d.isLt
  have h_a := a.isLt
  have h_b := b.isLt
  rw [rFmt_toNat _ _ _ _ _ (by omega)]
  obtain ⟨n, hn⟩ : ∃ n, 0x01 * 67108864 + d.toNat * 2097152 + a.toNat * 65536 + b.toNat * 2048 + 0x11 = n := ⟨_, rfl⟩
  rw [hn]
  rw [at_01 (by omega)]
  unfold decode01
  rw [show n % 2048 = 17 by omega]
  rw [← show fD n = d from ofNat_field _ _ (by omega), ← show fA n = a from ofNat_field _ _ (by omega), ← show fB n = b from ofNat_field _ _ (by omega)]
  rfl

theorem xor (d : BitVec 5) (a : BitVec 5) (b : BitVec 5) : Statement (.xor d a b) := by
  refine of_word rfl ?_
  have h_d := d.isLt
  have h_a := a.isLt
  have h_b := b.isLt
  rw [rFmt_toNat _ _ _ _ _ (by omega)]
  obtain ⟨n, hn⟩ : ∃ n, 0x01 * 67108864 + d.toNat * 2097152 + a.toNat * 65536 + b.toNat * 2048 + 0x12 = n := ⟨_, rfl⟩
  rw [hn]
  rw [at_01 (by omega)]
  unfold decode01
  rw [show n % 2048 = 18 by omega]
  rw [← show fD n = d from ofNat_field _ _ (by omega), ← show fA n = a from ofNat_field _ _ (by omega), ← show fB n = b from ofNat_field _ _ (by omega)]
  rfl

theorem andn (d : BitVec 5) (a : BitVec 5) (b : BitVec 5) : Statement (.andn d a b) := by
  refine of_word rfl ?_
  have h_d := d.isLt
  have h_a := a.isLt
  have h_b := b.isLt
  rw [rFmt_toNat _ _ _ _ _ (by omega)]
  obtain ⟨n, hn⟩ : ∃ n, 0x01 * 67108864 + d.toNat * 2097152 + a.toNat * 65536 + b.toNat * 2048 + 0x13 = n := ⟨_, rfl⟩
  rw [hn]
  rw [at_01 (by omega)]
  unfold decode01
  rw [show n % 2048 = 19 by omega]
  rw [← show fD n = d from ofNat_field _ _ (by omega), ← show fA n = a from ofNat_field _ _ (by omega), ← show fB n = b from ofNat_field _ _ (by omega)]
  rfl

theorem shl (d : BitVec 5) (a : BitVec 5) (b : BitVec 5) : Statement (.shl d a b) := by
  refine of_word rfl ?_
  have h_d := d.isLt
  have h_a := a.isLt
  have h_b := b.isLt
  rw [rFmt_toNat _ _ _ _ _ (by omega)]
  obtain ⟨n, hn⟩ : ∃ n, 0x01 * 67108864 + d.toNat * 2097152 + a.toNat * 65536 + b.toNat * 2048 + 0x18 = n := ⟨_, rfl⟩
  rw [hn]
  rw [at_01 (by omega)]
  unfold decode01
  rw [show n % 2048 = 24 by omega]
  rw [← show fD n = d from ofNat_field _ _ (by omega), ← show fA n = a from ofNat_field _ _ (by omega), ← show fB n = b from ofNat_field _ _ (by omega)]
  rfl

theorem shr (d : BitVec 5) (a : BitVec 5) (b : BitVec 5) : Statement (.shr d a b) := by
  refine of_word rfl ?_
  have h_d := d.isLt
  have h_a := a.isLt
  have h_b := b.isLt
  rw [rFmt_toNat _ _ _ _ _ (by omega)]
  obtain ⟨n, hn⟩ : ∃ n, 0x01 * 67108864 + d.toNat * 2097152 + a.toNat * 65536 + b.toNat * 2048 + 0x19 = n := ⟨_, rfl⟩
  rw [hn]
  rw [at_01 (by omega)]
  unfold decode01
  rw [show n % 2048 = 25 by omega]
  rw [← show fD n = d from ofNat_field _ _ (by omega), ← show fA n = a from ofNat_field _ _ (by omega), ← show fB n = b from ofNat_field _ _ (by omega)]
  rfl

theorem sar (d : BitVec 5) (a : BitVec 5) (b : BitVec 5) : Statement (.sar d a b) := by
  refine of_word rfl ?_
  have h_d := d.isLt
  have h_a := a.isLt
  have h_b := b.isLt
  rw [rFmt_toNat _ _ _ _ _ (by omega)]
  obtain ⟨n, hn⟩ : ∃ n, 0x01 * 67108864 + d.toNat * 2097152 + a.toNat * 65536 + b.toNat * 2048 + 0x1a = n := ⟨_, rfl⟩
  rw [hn]
  rw [at_01 (by omega)]
  unfold decode01
  rw [show n % 2048 = 26 by omega]
  rw [← show fD n = d from ofNat_field _ _ (by omega), ← show fA n = a from ofNat_field _ _ (by omega), ← show fB n = b from ofNat_field _ _ (by omega)]
  rfl

theorem rotr (d : BitVec 5) (a : BitVec 5) (b : BitVec 5) : Statement (.rotr d a b) := by
  refine of_word rfl ?_
  have h_d := d.isLt
  have h_a := a.isLt
  have h_b := b.isLt
  rw [rFmt_toNat _ _ _ _ _ (by omega)]
  obtain ⟨n, hn⟩ : ∃ n, 0x01 * 67108864 + d.toNat * 2097152 + a.toNat * 65536 + b.toNat * 2048 + 0x1b = n := ⟨_, rfl⟩
  rw [hn]
  rw [at_01 (by omega)]
  unfold decode01
  rw [show n % 2048 = 27 by omega]
  rw [← show fD n = d from ofNat_field _ _ (by omega), ← show fA n = a from ofNat_field _ _ (by omega), ← show fB n = b from ofNat_field _ _ (by omega)]
  rfl

theorem min (d : BitVec 5) (a : BitVec 5) (b : BitVec 5) : Statement (.min d a b) := by
  refine of_word rfl ?_
  have h_d := d.isLt
  have h_a := a.isLt
  have h_b := b.isLt
  rw [rFmt_toNat _ _ _ _ _ (by omega)]
  obtain ⟨n, hn⟩ : ∃ n, 0x01 * 67108864 + d.toNat * 2097152 + a.toNat * 65536 + b.toNat * 2048 + 0x20 = n := ⟨_, rfl⟩
  rw [hn]
  rw [at_01 (by omega)]
  unfold decode01
  rw [show n % 2048 = 32 by omega]
  rw [← show fD n = d from ofNat_field _ _ (by omega), ← show fA n = a from ofNat_field _ _ (by omega), ← show fB n = b from ofNat_field _ _ (by omega)]
  rfl

theorem max (d : BitVec 5) (a : BitVec 5) (b : BitVec 5) : Statement (.max d a b) := by
  refine of_word rfl ?_
  have h_d := d.isLt
  have h_a := a.isLt
  have h_b := b.isLt
  rw [rFmt_toNat _ _ _ _ _ (by omega)]
  obtain ⟨n, hn⟩ : ∃ n, 0x01 * 67108864 + d.toNat * 2097152 + a.toNat * 65536 + b.toNat * 2048 + 0x21 = n := ⟨_, rfl⟩
  rw [hn]
  rw [at_01 (by omega)]
  unfold decode01
  rw [show n % 2048 = 33 by omega]
  rw [← show fD n = d from ofNat_field _ _ (by omega), ← show fA n = a from ofNat_field _ _ (by omega), ← show fB n = b from ofNat_field _ _ (by omega)]
  rfl

theorem minu (d : BitVec 5) (a : BitVec 5) (b : BitVec 5) : Statement (.minu d a b) := by
  refine of_word rfl ?_
  have h_d := d.isLt
  have h_a := a.isLt
  have h_b := b.isLt
  rw [rFmt_toNat _ _ _ _ _ (by omega)]
  obtain ⟨n, hn⟩ : ∃ n, 0x01 * 67108864 + d.toNat * 2097152 + a.toNat * 65536 + b.toNat * 2048 + 0x22 = n := ⟨_, rfl⟩
  rw [hn]
  rw [at_01 (by omega)]
  unfold decode01
  rw [show n % 2048 = 34 by omega]
  rw [← show fD n = d from ofNat_field _ _ (by omega), ← show fA n = a from ofNat_field _ _ (by omega), ← show fB n = b from ofNat_field _ _ (by omega)]
  rfl

theorem maxu (d : BitVec 5) (a : BitVec 5) (b : BitVec 5) : Statement (.maxu d a b) := by
  refine of_word rfl ?_
  have h_d := d.isLt
  have h_a := a.isLt
  have h_b := b.isLt
  rw [rFmt_toNat _ _ _ _ _ (by omega)]
  obtain ⟨n, hn⟩ : ∃ n, 0x01 * 67108864 + d.toNat * 2097152 + a.toNat * 65536 + b.toNat * 2048 + 0x23 = n := ⟨_, rfl⟩
  rw [hn]
  rw [at_01 (by omega)]
  unfold decode01
  rw [show n % 2048 = 35 by omega]
  rw [← show fD n = d from ofNat_field _ _ (by omega), ← show fA n = a from ofNat_field _ _ (by omega), ← show fB n = b from ofNat_field _ _ (by omega)]
  rfl

theorem seq (d : BitVec 5) (a : BitVec 5) (b : BitVec 5) : Statement (.seq d a b) := by
  refine of_word rfl ?_
  have h_d := d.isLt
  have h_a := a.isLt
  have h_b := b.isLt
  rw [rFmt_toNat _ _ _ _ _ (by omega)]
  obtain ⟨n, hn⟩ : ∃ n, 0x01 * 67108864 + d.toNat * 2097152 + a.toNat * 65536 + b.toNat * 2048 + 0x28 = n := ⟨_, rfl⟩
  rw [hn]
  rw [at_01 (by omega)]
  unfold decode01
  rw [show n % 2048 = 40 by omega]
  rw [← show fD n = d from ofNat_field _ _ (by omega), ← show fA n = a from ofNat_field _ _ (by omega), ← show fB n = b from ofNat_field _ _ (by omega)]
  rfl

theorem sne (d : BitVec 5) (a : BitVec 5) (b : BitVec 5) : Statement (.sne d a b) := by
  refine of_word rfl ?_
  have h_d := d.isLt
  have h_a := a.isLt
  have h_b := b.isLt
  rw [rFmt_toNat _ _ _ _ _ (by omega)]
  obtain ⟨n, hn⟩ : ∃ n, 0x01 * 67108864 + d.toNat * 2097152 + a.toNat * 65536 + b.toNat * 2048 + 0x29 = n := ⟨_, rfl⟩
  rw [hn]
  rw [at_01 (by omega)]
  unfold decode01
  rw [show n % 2048 = 41 by omega]
  rw [← show fD n = d from ofNat_field _ _ (by omega), ← show fA n = a from ofNat_field _ _ (by omega), ← show fB n = b from ofNat_field _ _ (by omega)]
  rfl

theorem slt (d : BitVec 5) (a : BitVec 5) (b : BitVec 5) : Statement (.slt d a b) := by
  refine of_word rfl ?_
  have h_d := d.isLt
  have h_a := a.isLt
  have h_b := b.isLt
  rw [rFmt_toNat _ _ _ _ _ (by omega)]
  obtain ⟨n, hn⟩ : ∃ n, 0x01 * 67108864 + d.toNat * 2097152 + a.toNat * 65536 + b.toNat * 2048 + 0x2a = n := ⟨_, rfl⟩
  rw [hn]
  rw [at_01 (by omega)]
  unfold decode01
  rw [show n % 2048 = 42 by omega]
  rw [← show fD n = d from ofNat_field _ _ (by omega), ← show fA n = a from ofNat_field _ _ (by omega), ← show fB n = b from ofNat_field _ _ (by omega)]
  rfl

theorem sltu (d : BitVec 5) (a : BitVec 5) (b : BitVec 5) : Statement (.sltu d a b) := by
  refine of_word rfl ?_
  have h_d := d.isLt
  have h_a := a.isLt
  have h_b := b.isLt
  rw [rFmt_toNat _ _ _ _ _ (by omega)]
  obtain ⟨n, hn⟩ : ∃ n, 0x01 * 67108864 + d.toNat * 2097152 + a.toNat * 65536 + b.toNat * 2048 + 0x2b = n := ⟨_, rfl⟩
  rw [hn]
  rw [at_01 (by omega)]
  unfold decode01
  rw [show n % 2048 = 43 by omega]
  rw [← show fD n = d from ofNat_field _ _ (by omega), ← show fA n = a from ofNat_field _ _ (by omega), ← show fB n = b from ofNat_field _ _ (by omega)]
  rfl

theorem sel (d : BitVec 5) (a : BitVec 5) (b : BitVec 5) : Statement (.sel d a b) := by
  refine of_word rfl ?_
  have h_d := d.isLt
  have h_a := a.isLt
  have h_b := b.isLt
  rw [rFmt_toNat _ _ _ _ _ (by omega)]
  obtain ⟨n, hn⟩ : ∃ n, 0x01 * 67108864 + d.toNat * 2097152 + a.toNat * 65536 + b.toNat * 2048 + 0x30 = n := ⟨_, rfl⟩
  rw [hn]
  rw [at_01 (by omega)]
  unfold decode01
  rw [show n % 2048 = 48 by omega]
  rw [← show fD n = d from ofNat_field _ _ (by omega), ← show fA n = a from ofNat_field _ _ (by omega), ← show fB n = b from ofNat_field _ _ (by omega)]
  rfl

theorem clz (d : BitVec 5) (a : BitVec 5) : Statement (.clz d a) := by
  refine of_word rfl ?_
  have h_d := d.isLt
  have h_a := a.isLt
  rw [rFmt_toNat _ _ _ _ _ (by omega)]
  obtain ⟨n, hn⟩ : ∃ n, 0x01 * 67108864 + d.toNat * 2097152 + a.toNat * 65536 + 0 * 2048 + 0x38 = n := ⟨_, rfl⟩
  rw [hn]
  rw [at_01 (by omega)]
  unfold decode01
  rw [show n % 2048 = 56 by omega]
  rw [← show fD n = d from ofNat_field _ _ (by omega), ← show fA n = a from ofNat_field _ _ (by omega)]
  exact if_pos (by omega)

theorem ctz (d : BitVec 5) (a : BitVec 5) : Statement (.ctz d a) := by
  refine of_word rfl ?_
  have h_d := d.isLt
  have h_a := a.isLt
  rw [rFmt_toNat _ _ _ _ _ (by omega)]
  obtain ⟨n, hn⟩ : ∃ n, 0x01 * 67108864 + d.toNat * 2097152 + a.toNat * 65536 + 0 * 2048 + 0x39 = n := ⟨_, rfl⟩
  rw [hn]
  rw [at_01 (by omega)]
  unfold decode01
  rw [show n % 2048 = 57 by omega]
  rw [← show fD n = d from ofNat_field _ _ (by omega), ← show fA n = a from ofNat_field _ _ (by omega)]
  exact if_pos (by omega)

theorem popc (d : BitVec 5) (a : BitVec 5) : Statement (.popc d a) := by
  refine of_word rfl ?_
  have h_d := d.isLt
  have h_a := a.isLt
  rw [rFmt_toNat _ _ _ _ _ (by omega)]
  obtain ⟨n, hn⟩ : ∃ n, 0x01 * 67108864 + d.toNat * 2097152 + a.toNat * 65536 + 0 * 2048 + 0x3a = n := ⟨_, rfl⟩
  rw [hn]
  rw [at_01 (by omega)]
  unfold decode01
  rw [show n % 2048 = 58 by omega]
  rw [← show fD n = d from ofNat_field _ _ (by omega), ← show fA n = a from ofNat_field _ _ (by omega)]
  exact if_pos (by omega)

theorem brev (d : BitVec 5) (a : BitVec 5) : Statement (.brev d a) := by
  refine of_word rfl ?_
  have h_d := d.isLt
  have h_a := a.isLt
  rw [rFmt_toNat _ _ _ _ _ (by omega)]
  obtain ⟨n, hn⟩ : ∃ n, 0x01 * 67108864 + d.toNat * 2097152 + a.toNat * 65536 + 0 * 2048 + 0x3b = n := ⟨_, rfl⟩
  rw [hn]
  rw [at_01 (by omega)]
  unfold decode01
  rw [show n % 2048 = 59 by omega]
  rw [← show fD n = d from ofNat_field _ _ (by omega), ← show fA n = a from ofNat_field _ _ (by omega)]
  exact if_pos (by omega)

theorem sextB (d : BitVec 5) (a : BitVec 5) : Statement (.sextB d a) := by
  refine of_word rfl ?_
  have h_d := d.isLt
  have h_a := a.isLt
  rw [rFmt_toNat _ _ _ _ _ (by omega)]
  obtain ⟨n, hn⟩ : ∃ n, 0x01 * 67108864 + d.toNat * 2097152 + a.toNat * 65536 + 0 * 2048 + 0x40 = n := ⟨_, rfl⟩
  rw [hn]
  rw [at_01 (by omega)]
  unfold decode01
  rw [show n % 2048 = 64 by omega]
  rw [← show fD n = d from ofNat_field _ _ (by omega), ← show fA n = a from ofNat_field _ _ (by omega)]
  exact if_pos (by omega)

theorem sextH (d : BitVec 5) (a : BitVec 5) : Statement (.sextH d a) := by
  refine of_word rfl ?_
  have h_d := d.isLt
  have h_a := a.isLt
  rw [rFmt_toNat _ _ _ _ _ (by omega)]
  obtain ⟨n, hn⟩ : ∃ n, 0x01 * 67108864 + d.toNat * 2097152 + a.toNat * 65536 + 0 * 2048 + 0x41 = n := ⟨_, rfl⟩
  rw [hn]
  rw [at_01 (by omega)]
  unfold decode01
  rw [show n % 2048 = 65 by omega]
  rw [← show fD n = d from ofNat_field _ _ (by omega), ← show fA n = a from ofNat_field _ _ (by omega)]
  exact if_pos (by omega)

theorem sextW (d : BitVec 5) (a : BitVec 5) : Statement (.sextW d a) := by
  refine of_word rfl ?_
  have h_d := d.isLt
  have h_a := a.isLt
  rw [rFmt_toNat _ _ _ _ _ (by omega)]
  obtain ⟨n, hn⟩ : ∃ n, 0x01 * 67108864 + d.toNat * 2097152 + a.toNat * 65536 + 0 * 2048 + 0x42 = n := ⟨_, rfl⟩
  rw [hn]
  rw [at_01 (by omega)]
  unfold decode01
  rw [show n % 2048 = 66 by omega]
  rw [← show fD n = d from ofNat_field _ _ (by omega), ← show fA n = a from ofNat_field _ _ (by omega)]
  exact if_pos (by omega)

theorem zextB (d : BitVec 5) (a : BitVec 5) : Statement (.zextB d a) := by
  refine of_word rfl ?_
  have h_d := d.isLt
  have h_a := a.isLt
  rw [rFmt_toNat _ _ _ _ _ (by omega)]
  obtain ⟨n, hn⟩ : ∃ n, 0x01 * 67108864 + d.toNat * 2097152 + a.toNat * 65536 + 0 * 2048 + 0x44 = n := ⟨_, rfl⟩
  rw [hn]
  rw [at_01 (by omega)]
  unfold decode01
  rw [show n % 2048 = 68 by omega]
  rw [← show fD n = d from ofNat_field _ _ (by omega), ← show fA n = a from ofNat_field _ _ (by omega)]
  exact if_pos (by omega)

theorem zextH (d : BitVec 5) (a : BitVec 5) : Statement (.zextH d a) := by
  refine of_word rfl ?_
  have h_d := d.isLt
  have h_a := a.isLt
  rw [rFmt_toNat _ _ _ _ _ (by omega)]
  obtain ⟨n, hn⟩ : ∃ n, 0x01 * 67108864 + d.toNat * 2097152 + a.toNat * 65536 + 0 * 2048 + 0x45 = n := ⟨_, rfl⟩
  rw [hn]
  rw [at_01 (by omega)]
  unfold decode01
  rw [show n % 2048 = 69 by omega]
  rw [← show fD n = d from ofNat_field _ _ (by omega), ← show fA n = a from ofNat_field _ _ (by omega)]
  exact if_pos (by omega)

theorem zextW (d : BitVec 5) (a : BitVec 5) : Statement (.zextW d a) := by
  refine of_word rfl ?_
  have h_d := d.isLt
  have h_a := a.isLt
  rw [rFmt_toNat _ _ _ _ _ (by omega)]
  obtain ⟨n, hn⟩ : ∃ n, 0x01 * 67108864 + d.toNat * 2097152 + a.toNat * 65536 + 0 * 2048 + 0x46 = n := ⟨_, rfl⟩
  rw [hn]
  rw [at_01 (by omega)]
  unfold decode01
  rw [show n % 2048 = 70 by omega]
  rw [← show fD n = d from ofNat_field _ _ (by omega), ← show fA n = a from ofNat_field _ _ (by omega)]
  exact if_pos (by omega)

theorem shadd (d : BitVec 5) (a : BitVec 5) (b : BitVec 5) (k : BitVec 3) : Statement (.shadd d a b k) := by
  refine of_word rfl ?_
  have h_d := d.isLt
  have h_a := a.isLt
  have h_b := b.isLt
  have h_k := k.isLt
  rw [rFmt_toNat _ _ _ _ _ (by omega)]
  obtain ⟨n, hn⟩ : ∃ n, 0x01 * 67108864 + d.toNat * 2097152 + a.toNat * 65536 + b.toNat * 2048 + (0x48 + k.toNat) = n := ⟨_, rfl⟩
  rw [hn]
  rw [at_01 (by omega)]
  unfold decode01
  rcases (by omega : n % 2048 = 72 ∨ n % 2048 = 73 ∨ n % 2048 = 74 ∨ n % 2048 = 75 ∨ n % 2048 = 76 ∨ n % 2048 = 77 ∨ n % 2048 = 78 ∨ n % 2048 = 79) with h | h | h | h | h | h | h | h
  all_goals
    rw [h]
    rw [← show fD n = d from ofNat_field _ _ (by omega), ← show fA n = a from ofNat_field _ _ (by omega), ← show fB n = b from ofNat_field _ _ (by omega), ← show BitVec.ofNat 3 n = k from ofNat_field _ _ (by omega)]
    rfl

theorem addi (d : BitVec 5) (a : BitVec 5) (i : BitVec 16) : Statement (.addi d a i) := by
  refine of_word rfl ?_
  have h_d := d.isLt
  have h_a := a.isLt
  have h_i := i.isLt
  rw [iFmt_toNat _ _ _ _ (by omega)]
  obtain ⟨n, hn⟩ : ∃ n, 0x02 * 67108864 + d.toNat * 2097152 + a.toNat * 65536 + i.toNat = n := ⟨_, rfl⟩
  rw [hn]
  rw [at_02 (by omega)]
  unfold decode02
  simp only [fD, fA]
  rw [show BitVec.ofNat 5 (n / 2097152) = d from ofNat_field _ _ (by omega), show BitVec.ofNat 5 (n / 65536) = a from ofNat_field _ _ (by omega), show BitVec.ofNat 16 n = i from ofNat_field _ _ (by omega)]


theorem andi (d : BitVec 5) (a : BitVec 5) (i : BitVec 13) : Statement (.andi d a i) := by
  refine of_word rfl ?_
  have h_d := d.isLt
  have h_a := a.isLt
  have h_i := i.isLt
  rw [iFmt_toNat _ _ _ _ (by omega)]
  obtain ⟨n, hn⟩ : ∃ n, 0x03 * 67108864 + d.toNat * 2097152 + a.toNat * 65536 + i.toNat = n := ⟨_, rfl⟩
  rw [hn]
  rw [at_03 (by omega)]
  unfold decode03
  rw [show n / 8192 % 8 = 0 by omega]
  rw [← show fD n = d from ofNat_field _ _ (by omega), ← show fA n = a from ofNat_field _ _ (by omega), ← show BitVec.ofNat 13 n = i from ofNat_field _ _ (by omega)]
  rfl

theorem ori (d : BitVec 5) (a : BitVec 5) (i : BitVec 13) : Statement (.ori d a i) := by
  refine of_word rfl ?_
  have h_d := d.isLt
  have h_a := a.isLt
  have h_i := i.isLt
  rw [iFmt_toNat _ _ _ _ (by omega)]
  obtain ⟨n, hn⟩ : ∃ n, 0x03 * 67108864 + d.toNat * 2097152 + a.toNat * 65536 + (0x2000 + i.toNat) = n := ⟨_, rfl⟩
  rw [hn]
  rw [at_03 (by omega)]
  unfold decode03
  rw [show n / 8192 % 8 = 1 by omega]
  rw [← show fD n = d from ofNat_field _ _ (by omega), ← show fA n = a from ofNat_field _ _ (by omega), ← show BitVec.ofNat 13 n = i from ofNat_field _ _ (by omega)]
  rfl

theorem xori (d : BitVec 5) (a : BitVec 5) (i : BitVec 13) : Statement (.xori d a i) := by
  refine of_word rfl ?_
  have h_d := d.isLt
  have h_a := a.isLt
  have h_i := i.isLt
  rw [iFmt_toNat _ _ _ _ (by omega)]
  obtain ⟨n, hn⟩ : ∃ n, 0x03 * 67108864 + d.toNat * 2097152 + a.toNat * 65536 + (0x4000 + i.toNat) = n := ⟨_, rfl⟩
  rw [hn]
  rw [at_03 (by omega)]
  unfold decode03
  rw [show n / 8192 % 8 = 2 by omega]
  rw [← show fD n = d from ofNat_field _ _ (by omega), ← show fA n = a from ofNat_field _ _ (by omega), ← show BitVec.ofNat 13 n = i from ofNat_field _ _ (by omega)]
  rfl

theorem slti (d : BitVec 5) (a : BitVec 5) (i : BitVec 13) : Statement (.slti d a i) := by
  refine of_word rfl ?_
  have h_d := d.isLt
  have h_a := a.isLt
  have h_i := i.isLt
  rw [iFmt_toNat _ _ _ _ (by omega)]
  obtain ⟨n, hn⟩ : ∃ n, 0x03 * 67108864 + d.toNat * 2097152 + a.toNat * 65536 + (0x6000 + i.toNat) = n := ⟨_, rfl⟩
  rw [hn]
  rw [at_03 (by omega)]
  unfold decode03
  rw [show n / 8192 % 8 = 3 by omega]
  rw [← show fD n = d from ofNat_field _ _ (by omega), ← show fA n = a from ofNat_field _ _ (by omega), ← show BitVec.ofNat 13 n = i from ofNat_field _ _ (by omega)]
  rfl

theorem sltiu (d : BitVec 5) (a : BitVec 5) (i : BitVec 13) : Statement (.sltiu d a i) := by
  refine of_word rfl ?_
  have h_d := d.isLt
  have h_a := a.isLt
  have h_i := i.isLt
  rw [iFmt_toNat _ _ _ _ (by omega)]
  obtain ⟨n, hn⟩ : ∃ n, 0x03 * 67108864 + d.toNat * 2097152 + a.toNat * 65536 + (0x8000 + i.toNat) = n := ⟨_, rfl⟩
  rw [hn]
  rw [at_03 (by omega)]
  unfold decode03
  rw [show n / 8192 % 8 = 4 by omega]
  rw [← show fD n = d from ofNat_field _ _ (by omega), ← show fA n = a from ofNat_field _ _ (by omega), ← show BitVec.ofNat 13 n = i from ofNat_field _ _ (by omega)]
  rfl

theorem shli (d : BitVec 5) (a : BitVec 5) (s : BitVec 6) : Statement (.shli d a s) := by
  refine of_word rfl ?_
  have h_d := d.isLt
  have h_a := a.isLt
  have h_s := s.isLt
  rw [iFmt_toNat _ _ _ _ (by omega)]
  obtain ⟨n, hn⟩ : ∃ n, 0x03 * 67108864 + d.toNat * 2097152 + a.toNat * 65536 + (0xa000 + s.toNat) = n := ⟨_, rfl⟩
  rw [hn]
  rw [at_03 (by omega)]
  unfold decode03
  rw [show n / 8192 % 8 = 5 by omega]
  rw [← show fD n = d from ofNat_field _ _ (by omega), ← show fA n = a from ofNat_field _ _ (by omega), ← show BitVec.ofNat 6 n = s from ofNat_field _ _ (by omega)]
  exact if_pos (by omega)

theorem shri (d : BitVec 5) (a : BitVec 5) (s : BitVec 6) : Statement (.shri d a s) := by
  refine of_word rfl ?_
  have h_d := d.isLt
  have h_a := a.isLt
  have h_s := s.isLt
  rw [iFmt_toNat _ _ _ _ (by omega)]
  obtain ⟨n, hn⟩ : ∃ n, 0x03 * 67108864 + d.toNat * 2097152 + a.toNat * 65536 + (0xc000 + s.toNat) = n := ⟨_, rfl⟩
  rw [hn]
  rw [at_03 (by omega)]
  unfold decode03
  rw [show n / 8192 % 8 = 6 by omega]
  rw [← show fD n = d from ofNat_field _ _ (by omega), ← show fA n = a from ofNat_field _ _ (by omega), ← show BitVec.ofNat 6 n = s from ofNat_field _ _ (by omega)]
  exact if_pos (by omega)

theorem sari (d : BitVec 5) (a : BitVec 5) (s : BitVec 6) : Statement (.sari d a s) := by
  refine of_word rfl ?_
  have h_d := d.isLt
  have h_a := a.isLt
  have h_s := s.isLt
  rw [iFmt_toNat _ _ _ _ (by omega)]
  obtain ⟨n, hn⟩ : ∃ n, 0x03 * 67108864 + d.toNat * 2097152 + a.toNat * 65536 + (0xe000 + s.toNat) = n := ⟨_, rfl⟩
  rw [hn]
  rw [at_03 (by omega)]
  unfold decode03
  rw [show n / 8192 % 8 = 7 by omega]
  rw [← show fD n = d from ofNat_field _ _ (by omega), ← show fA n = a from ofNat_field _ _ (by omega), ← show BitVec.ofNat 6 n = s from ofNat_field _ _ (by omega)]
  exact if_pos (by omega)

theorem ldb (d : BitVec 5) (a : BitVec 5) (i : BitVec 13) : Statement (.ldb d a i) := by
  refine of_word rfl ?_
  have h_d := d.isLt
  have h_a := a.isLt
  have h_i := i.isLt
  rw [iFmt_toNat _ _ _ _ (by omega)]
  obtain ⟨n, hn⟩ : ∃ n, 0x06 * 67108864 + d.toNat * 2097152 + a.toNat * 65536 + i.toNat = n := ⟨_, rfl⟩
  rw [hn]
  rw [at_06 (by omega)]
  unfold decode06
  rw [show n / 8192 % 8 = 0 by omega]
  rw [← show fD n = d from ofNat_field _ _ (by omega), ← show fA n = a from ofNat_field _ _ (by omega), ← show BitVec.ofNat 13 n = i from ofNat_field _ _ (by omega)]
  rfl

theorem ldbu (d : BitVec 5) (a : BitVec 5) (i : BitVec 13) : Statement (.ldbu d a i) := by
  refine of_word rfl ?_
  have h_d := d.isLt
  have h_a := a.isLt
  have h_i := i.isLt
  rw [iFmt_toNat _ _ _ _ (by omega)]
  obtain ⟨n, hn⟩ : ∃ n, 0x06 * 67108864 + d.toNat * 2097152 + a.toNat * 65536 + (0x2000 + i.toNat) = n := ⟨_, rfl⟩
  rw [hn]
  rw [at_06 (by omega)]
  unfold decode06
  rw [show n / 8192 % 8 = 1 by omega]
  rw [← show fD n = d from ofNat_field _ _ (by omega), ← show fA n = a from ofNat_field _ _ (by omega), ← show BitVec.ofNat 13 n = i from ofNat_field _ _ (by omega)]
  rfl

theorem ldh (d : BitVec 5) (a : BitVec 5) (i : BitVec 13) : Statement (.ldh d a i) := by
  refine of_word rfl ?_
  have h_d := d.isLt
  have h_a := a.isLt
  have h_i := i.isLt
  rw [iFmt_toNat _ _ _ _ (by omega)]
  obtain ⟨n, hn⟩ : ∃ n, 0x06 * 67108864 + d.toNat * 2097152 + a.toNat * 65536 + (0x4000 + i.toNat) = n := ⟨_, rfl⟩
  rw [hn]
  rw [at_06 (by omega)]
  unfold decode06
  rw [show n / 8192 % 8 = 2 by omega]
  rw [← show fD n = d from ofNat_field _ _ (by omega), ← show fA n = a from ofNat_field _ _ (by omega), ← show BitVec.ofNat 13 n = i from ofNat_field _ _ (by omega)]
  rfl

theorem ldhu (d : BitVec 5) (a : BitVec 5) (i : BitVec 13) : Statement (.ldhu d a i) := by
  refine of_word rfl ?_
  have h_d := d.isLt
  have h_a := a.isLt
  have h_i := i.isLt
  rw [iFmt_toNat _ _ _ _ (by omega)]
  obtain ⟨n, hn⟩ : ∃ n, 0x06 * 67108864 + d.toNat * 2097152 + a.toNat * 65536 + (0x6000 + i.toNat) = n := ⟨_, rfl⟩
  rw [hn]
  rw [at_06 (by omega)]
  unfold decode06
  rw [show n / 8192 % 8 = 3 by omega]
  rw [← show fD n = d from ofNat_field _ _ (by omega), ← show fA n = a from ofNat_field _ _ (by omega), ← show BitVec.ofNat 13 n = i from ofNat_field _ _ (by omega)]
  rfl

theorem ldw (d : BitVec 5) (a : BitVec 5) (i : BitVec 13) : Statement (.ldw d a i) := by
  refine of_word rfl ?_
  have h_d := d.isLt
  have h_a := a.isLt
  have h_i := i.isLt
  rw [iFmt_toNat _ _ _ _ (by omega)]
  obtain ⟨n, hn⟩ : ∃ n, 0x06 * 67108864 + d.toNat * 2097152 + a.toNat * 65536 + (0x8000 + i.toNat) = n := ⟨_, rfl⟩
  rw [hn]
  rw [at_06 (by omega)]
  unfold decode06
  rw [show n / 8192 % 8 = 4 by omega]
  rw [← show fD n = d from ofNat_field _ _ (by omega), ← show fA n = a from ofNat_field _ _ (by omega), ← show BitVec.ofNat 13 n = i from ofNat_field _ _ (by omega)]
  rfl

theorem ldwu (d : BitVec 5) (a : BitVec 5) (i : BitVec 13) : Statement (.ldwu d a i) := by
  refine of_word rfl ?_
  have h_d := d.isLt
  have h_a := a.isLt
  have h_i := i.isLt
  rw [iFmt_toNat _ _ _ _ (by omega)]
  obtain ⟨n, hn⟩ : ∃ n, 0x06 * 67108864 + d.toNat * 2097152 + a.toNat * 65536 + (0xa000 + i.toNat) = n := ⟨_, rfl⟩
  rw [hn]
  rw [at_06 (by omega)]
  unfold decode06
  rw [show n / 8192 % 8 = 5 by omega]
  rw [← show fD n = d from ofNat_field _ _ (by omega), ← show fA n = a from ofNat_field _ _ (by omega), ← show BitVec.ofNat 13 n = i from ofNat_field _ _ (by omega)]
  rfl

theorem ldd (d : BitVec 5) (a : BitVec 5) (i : BitVec 13) : Statement (.ldd d a i) := by
  refine of_word rfl ?_
  have h_d := d.isLt
  have h_a := a.isLt
  have h_i := i.isLt
  rw [iFmt_toNat _ _ _ _ (by omega)]
  obtain ⟨n, hn⟩ : ∃ n, 0x06 * 67108864 + d.toNat * 2097152 + a.toNat * 65536 + (0xc000 + i.toNat) = n := ⟨_, rfl⟩
  rw [hn]
  rw [at_06 (by omega)]
  unfold decode06
  rw [show n / 8192 % 8 = 6 by omega]
  rw [← show fD n = d from ofNat_field _ _ (by omega), ← show fA n = a from ofNat_field _ _ (by omega), ← show BitVec.ofNat 13 n = i from ofNat_field _ _ (by omega)]
  rfl

theorem stb (a : BitVec 5) (b : BitVec 5) (i : BitVec 13) : Statement (.stb a b i) := by
  refine of_word rfl ?_
  have h_a := a.isLt
  have h_b := b.isLt
  have h_i := i.isLt
  rw [iFmt_toNat _ _ _ _ (by omega)]
  obtain ⟨n, hn⟩ : ∃ n, 0x07 * 67108864 + a.toNat * 2097152 + b.toNat * 65536 + i.toNat = n := ⟨_, rfl⟩
  rw [hn]
  rw [at_07 (by omega)]
  unfold decode07
  rw [show n / 8192 % 8 = 0 by omega]
  rw [← show fD n = a from ofNat_field _ _ (by omega), ← show fA n = b from ofNat_field _ _ (by omega), ← show BitVec.ofNat 13 n = i from ofNat_field _ _ (by omega)]
  rfl

theorem sth (a : BitVec 5) (b : BitVec 5) (i : BitVec 13) : Statement (.sth a b i) := by
  refine of_word rfl ?_
  have h_a := a.isLt
  have h_b := b.isLt
  have h_i := i.isLt
  rw [iFmt_toNat _ _ _ _ (by omega)]
  obtain ⟨n, hn⟩ : ∃ n, 0x07 * 67108864 + a.toNat * 2097152 + b.toNat * 65536 + (0x2000 + i.toNat) = n := ⟨_, rfl⟩
  rw [hn]
  rw [at_07 (by omega)]
  unfold decode07
  rw [show n / 8192 % 8 = 1 by omega]
  rw [← show fD n = a from ofNat_field _ _ (by omega), ← show fA n = b from ofNat_field _ _ (by omega), ← show BitVec.ofNat 13 n = i from ofNat_field _ _ (by omega)]
  rfl

theorem stw (a : BitVec 5) (b : BitVec 5) (i : BitVec 13) : Statement (.stw a b i) := by
  refine of_word rfl ?_
  have h_a := a.isLt
  have h_b := b.isLt
  have h_i := i.isLt
  rw [iFmt_toNat _ _ _ _ (by omega)]
  obtain ⟨n, hn⟩ : ∃ n, 0x07 * 67108864 + a.toNat * 2097152 + b.toNat * 65536 + (0x4000 + i.toNat) = n := ⟨_, rfl⟩
  rw [hn]
  rw [at_07 (by omega)]
  unfold decode07
  rw [show n / 8192 % 8 = 2 by omega]
  rw [← show fD n = a from ofNat_field _ _ (by omega), ← show fA n = b from ofNat_field _ _ (by omega), ← show BitVec.ofNat 13 n = i from ofNat_field _ _ (by omega)]
  rfl

theorem std (a : BitVec 5) (b : BitVec 5) (i : BitVec 13) : Statement (.std a b i) := by
  refine of_word rfl ?_
  have h_a := a.isLt
  have h_b := b.isLt
  have h_i := i.isLt
  rw [iFmt_toNat _ _ _ _ (by omega)]
  obtain ⟨n, hn⟩ : ∃ n, 0x07 * 67108864 + a.toNat * 2097152 + b.toNat * 65536 + (0x6000 + i.toNat) = n := ⟨_, rfl⟩
  rw [hn]
  rw [at_07 (by omega)]
  unfold decode07
  rw [show n / 8192 % 8 = 3 by omega]
  rw [← show fD n = a from ofNat_field _ _ (by omega), ← show fA n = b from ofNat_field _ _ (by omega), ← show BitVec.ofNat 13 n = i from ofNat_field _ _ (by omega)]
  rfl

theorem beq (a : BitVec 5) (b : BitVec 5) (i : BitVec 13) : Statement (.beq a b i) := by
  refine of_word rfl ?_
  have h_a := a.isLt
  have h_b := b.isLt
  have h_i := i.isLt
  rw [iFmt_toNat _ _ _ _ (by omega)]
  obtain ⟨n, hn⟩ : ∃ n, 0x08 * 67108864 + a.toNat * 2097152 + b.toNat * 65536 + i.toNat = n := ⟨_, rfl⟩
  rw [hn]
  rw [at_08 (by omega)]
  unfold decode08
  rw [show n / 8192 % 8 = 0 by omega]
  rw [← show fD n = a from ofNat_field _ _ (by omega), ← show fA n = b from ofNat_field _ _ (by omega), ← show BitVec.ofNat 13 n = i from ofNat_field _ _ (by omega)]
  rfl

theorem bne (a : BitVec 5) (b : BitVec 5) (i : BitVec 13) : Statement (.bne a b i) := by
  refine of_word rfl ?_
  have h_a := a.isLt
  have h_b := b.isLt
  have h_i := i.isLt
  rw [iFmt_toNat _ _ _ _ (by omega)]
  obtain ⟨n, hn⟩ : ∃ n, 0x08 * 67108864 + a.toNat * 2097152 + b.toNat * 65536 + (0x2000 + i.toNat) = n := ⟨_, rfl⟩
  rw [hn]
  rw [at_08 (by omega)]
  unfold decode08
  rw [show n / 8192 % 8 = 1 by omega]
  rw [← show fD n = a from ofNat_field _ _ (by omega), ← show fA n = b from ofNat_field _ _ (by omega), ← show BitVec.ofNat 13 n = i from ofNat_field _ _ (by omega)]
  rfl

theorem blt (a : BitVec 5) (b : BitVec 5) (i : BitVec 13) : Statement (.blt a b i) := by
  refine of_word rfl ?_
  have h_a := a.isLt
  have h_b := b.isLt
  have h_i := i.isLt
  rw [iFmt_toNat _ _ _ _ (by omega)]
  obtain ⟨n, hn⟩ : ∃ n, 0x08 * 67108864 + a.toNat * 2097152 + b.toNat * 65536 + (0x4000 + i.toNat) = n := ⟨_, rfl⟩
  rw [hn]
  rw [at_08 (by omega)]
  unfold decode08
  rw [show n / 8192 % 8 = 2 by omega]
  rw [← show fD n = a from ofNat_field _ _ (by omega), ← show fA n = b from ofNat_field _ _ (by omega), ← show BitVec.ofNat 13 n = i from ofNat_field _ _ (by omega)]
  rfl

theorem bge (a : BitVec 5) (b : BitVec 5) (i : BitVec 13) : Statement (.bge a b i) := by
  refine of_word rfl ?_
  have h_a := a.isLt
  have h_b := b.isLt
  have h_i := i.isLt
  rw [iFmt_toNat _ _ _ _ (by omega)]
  obtain ⟨n, hn⟩ : ∃ n, 0x08 * 67108864 + a.toNat * 2097152 + b.toNat * 65536 + (0x6000 + i.toNat) = n := ⟨_, rfl⟩
  rw [hn]
  rw [at_08 (by omega)]
  unfold decode08
  rw [show n / 8192 % 8 = 3 by omega]
  rw [← show fD n = a from ofNat_field _ _ (by omega), ← show fA n = b from ofNat_field _ _ (by omega), ← show BitVec.ofNat 13 n = i from ofNat_field _ _ (by omega)]
  rfl

theorem bltu (a : BitVec 5) (b : BitVec 5) (i : BitVec 13) : Statement (.bltu a b i) := by
  refine of_word rfl ?_
  have h_a := a.isLt
  have h_b := b.isLt
  have h_i := i.isLt
  rw [iFmt_toNat _ _ _ _ (by omega)]
  obtain ⟨n, hn⟩ : ∃ n, 0x08 * 67108864 + a.toNat * 2097152 + b.toNat * 65536 + (0x8000 + i.toNat) = n := ⟨_, rfl⟩
  rw [hn]
  rw [at_08 (by omega)]
  unfold decode08
  rw [show n / 8192 % 8 = 4 by omega]
  rw [← show fD n = a from ofNat_field _ _ (by omega), ← show fA n = b from ofNat_field _ _ (by omega), ← show BitVec.ofNat 13 n = i from ofNat_field _ _ (by omega)]
  rfl

theorem bgeu (a : BitVec 5) (b : BitVec 5) (i : BitVec 13) : Statement (.bgeu a b i) := by
  refine of_word rfl ?_
  have h_a := a.isLt
  have h_b := b.isLt
  have h_i := i.isLt
  rw [iFmt_toNat _ _ _ _ (by omega)]
  obtain ⟨n, hn⟩ : ∃ n, 0x08 * 67108864 + a.toNat * 2097152 + b.toNat * 65536 + (0xa000 + i.toNat) = n := ⟨_, rfl⟩
  rw [hn]
  rw [at_08 (by omega)]
  unfold decode08
  rw [show n / 8192 % 8 = 5 by omega]
  rw [← show fD n = a from ofNat_field _ _ (by omega), ← show fA n = b from ofNat_field _ _ (by omega), ← show BitVec.ofNat 13 n = i from ofNat_field _ _ (by omega)]
  rfl

theorem bpany (p : BitVec 3) (i : BitVec 16) : Statement (.bpany p i) := by
  refine of_word rfl ?_
  have h_p := p.isLt
  have h_i := i.isLt
  rw [iFmt_toNat _ _ _ _ (by omega)]
  obtain ⟨n, hn⟩ : ∃ n, 0x09 * 67108864 + p.toNat * 2097152 + 0 * 65536 + i.toNat = n := ⟨_, rfl⟩
  rw [hn]
  rw [at_09 (by omega)]
  unfold decode09
  rw [show n / 65536 % 32 = 0 by omega]
  rw [← show pD n = p from ofNat_field _ _ (by omega), ← show BitVec.ofNat 16 n = i from ofNat_field _ _ (by omega)]
  exact if_pos (by omega)

theorem bpall (p : BitVec 3) (i : BitVec 16) : Statement (.bpall p i) := by
  refine of_word rfl ?_
  have h_p := p.isLt
  have h_i := i.isLt
  rw [iFmt_toNat _ _ _ _ (by omega)]
  obtain ⟨n, hn⟩ : ∃ n, 0x09 * 67108864 + p.toNat * 2097152 + 1 * 65536 + i.toNat = n := ⟨_, rfl⟩
  rw [hn]
  rw [at_09 (by omega)]
  unfold decode09
  rw [show n / 65536 % 32 = 1 by omega]
  rw [← show pD n = p from ofNat_field _ _ (by omega), ← show BitVec.ofNat 16 n = i from ofNat_field _ _ (by omega)]
  exact if_pos (by omega)

theorem bpnone (p : BitVec 3) (i : BitVec 16) : Statement (.bpnone p i) := by
  refine of_word rfl ?_
  have h_p := p.isLt
  have h_i := i.isLt
  rw [iFmt_toNat _ _ _ _ (by omega)]
  obtain ⟨n, hn⟩ : ∃ n, 0x09 * 67108864 + p.toNat * 2097152 + 2 * 65536 + i.toNat = n := ⟨_, rfl⟩
  rw [hn]
  rw [at_09 (by omega)]
  unfold decode09
  rw [show n / 65536 % 32 = 2 by omega]
  rw [← show pD n = p from ofNat_field _ _ (by omega), ← show BitVec.ofNat 16 n = i from ofNat_field _ _ (by omega)]
  exact if_pos (by omega)

theorem fadd (d : BitVec 5) (a : BitVec 5) (b : BitVec 5) (p : BitVec 1) : Statement (.fadd d a b p) := by
  refine of_word rfl ?_
  have h_d := d.isLt
  have h_a := a.isLt
  have h_b := b.isLt
  have h_p := p.isLt
  rw [rFmt_toNat _ _ _ _ _ (by omega)]
  obtain ⟨n, hn⟩ : ∃ n, 0x0C * 67108864 + d.toNat * 2097152 + a.toNat * 65536 + b.toNat * 2048 + p.toNat = n := ⟨_, rfl⟩
  rw [hn]
  rw [at_0C (by omega)]
  unfold decode0C
  rw [show n / 2 % 1024 = 0 by omega]
  rw [← show fD n = d from ofNat_field _ _ (by omega), ← show fA n = a from ofNat_field _ _ (by omega), ← show fB n = b from ofNat_field _ _ (by omega), ← show BitVec.ofNat 1 n = p from ofNat_field _ _ (by omega)]
  rfl

theorem fsub (d : BitVec 5) (a : BitVec 5) (b : BitVec 5) (p : BitVec 1) : Statement (.fsub d a b p) := by
  refine of_word rfl ?_
  have h_d := d.isLt
  have h_a := a.isLt
  have h_b := b.isLt
  have h_p := p.isLt
  rw [rFmt_toNat _ _ _ _ _ (by omega)]
  obtain ⟨n, hn⟩ : ∃ n, 0x0C * 67108864 + d.toNat * 2097152 + a.toNat * 65536 + b.toNat * 2048 + (0x10 + p.toNat) = n := ⟨_, rfl⟩
  rw [hn]
  rw [at_0C (by omega)]
  unfold decode0C
  rw [show n / 2 % 1024 = 8 by omega]
  rw [← show fD n = d from ofNat_field _ _ (by omega), ← show fA n = a from ofNat_field _ _ (by omega), ← show fB n = b from ofNat_field _ _ (by omega), ← show BitVec.ofNat 1 n = p from ofNat_field _ _ (by omega)]
  rfl

theorem fmul (d : BitVec 5) (a : BitVec 5) (b : BitVec 5) (p : BitVec 1) : Statement (.fmul d a b p) := by
  refine of_word rfl ?_
  have h_d := d.isLt
  have h_a := a.isLt
  have h_b := b.isLt
  have h_p := p.isLt
  rw [rFmt_toNat _ _ _ _ _ (by omega)]
  obtain ⟨n, hn⟩ : ∃ n, 0x0C * 67108864 + d.toNat * 2097152 + a.toNat * 65536 + b.toNat * 2048 + (0x20 + p.toNat) = n := ⟨_, rfl⟩
  rw [hn]
  rw [at_0C (by omega)]
  unfold decode0C
  rw [show n / 2 % 1024 = 16 by omega]
  rw [← show fD n = d from ofNat_field _ _ (by omega), ← show fA n = a from ofNat_field _ _ (by omega), ← show fB n = b from ofNat_field _ _ (by omega), ← show BitVec.ofNat 1 n = p from ofNat_field _ _ (by omega)]
  rfl

theorem fma (d : BitVec 5) (a : BitVec 5) (b : BitVec 5) (p : BitVec 1) : Statement (.fma d a b p) := by
  refine of_word rfl ?_
  have h_d := d.isLt
  have h_a := a.isLt
  have h_b := b.isLt
  have h_p := p.isLt
  rw [rFmt_toNat _ _ _ _ _ (by omega)]
  obtain ⟨n, hn⟩ : ∃ n, 0x0C * 67108864 + d.toNat * 2097152 + a.toNat * 65536 + b.toNat * 2048 + (0x30 + p.toNat) = n := ⟨_, rfl⟩
  rw [hn]
  rw [at_0C (by omega)]
  unfold decode0C
  rw [show n / 2 % 1024 = 24 by omega]
  rw [← show fD n = d from ofNat_field _ _ (by omega), ← show fA n = a from ofNat_field _ _ (by omega), ← show fB n = b from ofNat_field _ _ (by omega), ← show BitVec.ofNat 1 n = p from ofNat_field _ _ (by omega)]
  rfl

theorem fnma (d : BitVec 5) (a : BitVec 5) (b : BitVec 5) (p : BitVec 1) : Statement (.fnma d a b p) := by
  refine of_word rfl ?_
  have h_d := d.isLt
  have h_a := a.isLt
  have h_b := b.isLt
  have h_p := p.isLt
  rw [rFmt_toNat _ _ _ _ _ (by omega)]
  obtain ⟨n, hn⟩ : ∃ n, 0x0C * 67108864 + d.toNat * 2097152 + a.toNat * 65536 + b.toNat * 2048 + (0x40 + p.toNat) = n := ⟨_, rfl⟩
  rw [hn]
  rw [at_0C (by omega)]
  unfold decode0C
  rw [show n / 2 % 1024 = 32 by omega]
  rw [← show fD n = d from ofNat_field _ _ (by omega), ← show fA n = a from ofNat_field _ _ (by omega), ← show fB n = b from ofNat_field _ _ (by omega), ← show BitVec.ofNat 1 n = p from ofNat_field _ _ (by omega)]
  rfl

theorem fdiv (d : BitVec 5) (a : BitVec 5) (b : BitVec 5) (p : BitVec 1) : Statement (.fdiv d a b p) := by
  refine of_word rfl ?_
  have h_d := d.isLt
  have h_a := a.isLt
  have h_b := b.isLt
  have h_p := p.isLt
  rw [rFmt_toNat _ _ _ _ _ (by omega)]
  obtain ⟨n, hn⟩ : ∃ n, 0x0C * 67108864 + d.toNat * 2097152 + a.toNat * 65536 + b.toNat * 2048 + (0x50 + p.toNat) = n := ⟨_, rfl⟩
  rw [hn]
  rw [at_0C (by omega)]
  unfold decode0C
  rw [show n / 2 % 1024 = 40 by omega]
  rw [← show fD n = d from ofNat_field _ _ (by omega), ← show fA n = a from ofNat_field _ _ (by omega), ← show fB n = b from ofNat_field _ _ (by omega), ← show BitVec.ofNat 1 n = p from ofNat_field _ _ (by omega)]
  rfl

theorem fsqrt (d : BitVec 5) (a : BitVec 5) (p : BitVec 1) : Statement (.fsqrt d a p) := by
  refine of_word rfl ?_
  have h_d := d.isLt
  have h_a := a.isLt
  have h_p := p.isLt
  rw [rFmt_toNat _ _ _ _ _ (by omega)]
  obtain ⟨n, hn⟩ : ∃ n, 0x0C * 67108864 + d.toNat * 2097152 + a.toNat * 65536 + 0 * 2048 + (0x60 + p.toNat) = n := ⟨_, rfl⟩
  rw [hn]
  rw [at_0C (by omega)]
  unfold decode0C
  rw [show n / 2 % 1024 = 48 by omega]
  rw [← show fD n = d from ofNat_field _ _ (by omega), ← show fA n = a from ofNat_field _ _ (by omega), ← show BitVec.ofNat 1 n = p from ofNat_field _ _ (by omega)]
  exact if_pos (by omega)

theorem fmin (d : BitVec 5) (a : BitVec 5) (b : BitVec 5) (p : BitVec 1) : Statement (.fmin d a b p) := by
  refine of_word rfl ?_
  have h_d := d.isLt
  have h_a := a.isLt
  have h_b := b.isLt
  have h_p := p.isLt
  rw [rFmt_toNat _ _ _ _ _ (by omega)]
  obtain ⟨n, hn⟩ : ∃ n, 0x0C * 67108864 + d.toNat * 2097152 + a.toNat * 65536 + b.toNat * 2048 + (0x70 + p.toNat) = n := ⟨_, rfl⟩
  rw [hn]
  rw [at_0C (by omega)]
  unfold decode0C
  rw [show n / 2 % 1024 = 56 by omega]
  rw [← show fD n = d from ofNat_field _ _ (by omega), ← show fA n = a from ofNat_field _ _ (by omega), ← show fB n = b from ofNat_field _ _ (by omega), ← show BitVec.ofNat 1 n = p from ofNat_field _ _ (by omega)]
  rfl

theorem fmax (d : BitVec 5) (a : BitVec 5) (b : BitVec 5) (p : BitVec 1) : Statement (.fmax d a b p) := by
  refine of_word rfl ?_
  have h_d := d.isLt
  have h_a := a.isLt
  have h_b := b.isLt
  have h_p := p.isLt
  rw [rFmt_toNat _ _ _ _ _ (by omega)]
  obtain ⟨n, hn⟩ : ∃ n, 0x0C * 67108864 + d.toNat * 2097152 + a.toNat * 65536 + b.toNat * 2048 + (0x80 + p.toNat) = n := ⟨_, rfl⟩
  rw [hn]
  rw [at_0C (by omega)]
  unfold decode0C
  rw [show n / 2 % 1024 = 64 by omega]
  rw [← show fD n = d from ofNat_field _ _ (by omega), ← show fA n = a from ofNat_field _ _ (by omega), ← show fB n = b from ofNat_field _ _ (by omega), ← show BitVec.ofNat 1 n = p from ofNat_field _ _ (by omega)]
  rfl

theorem feq (d : BitVec 5) (a : BitVec 5) (b : BitVec 5) (p : BitVec 1) : Statement (.feq d a b p) := by
  refine of_word rfl ?_
  have h_d := d.isLt
  have h_a := a.isLt
  have h_b := b.isLt
  have h_p := p.isLt
  rw [rFmt_toNat _ _ _ _ _ (by omega)]
  obtain ⟨n, hn⟩ : ∃ n, 0x0C * 67108864 + d.toNat * 2097152 + a.toNat * 65536 + b.toNat * 2048 + (0x90 + p.toNat) = n := ⟨_, rfl⟩
  rw [hn]
  rw [at_0C (by omega)]
  unfold decode0C
  rw [show n / 2 % 1024 = 72 by omega]
  rw [← show fD n = d from ofNat_field _ _ (by omega), ← show fA n = a from ofNat_field _ _ (by omega), ← show fB n = b from ofNat_field _ _ (by omega), ← show BitVec.ofNat 1 n = p from ofNat_field _ _ (by omega)]
  rfl

theorem flt (d : BitVec 5) (a : BitVec 5) (b : BitVec 5) (p : BitVec 1) : Statement (.flt d a b p) := by
  refine of_word rfl ?_
  have h_d := d.isLt
  have h_a := a.isLt
  have h_b := b.isLt
  have h_p := p.isLt
  rw [rFmt_toNat _ _ _ _ _ (by omega)]
  obtain ⟨n, hn⟩ : ∃ n, 0x0C * 67108864 + d.toNat * 2097152 + a.toNat * 65536 + b.toNat * 2048 + (0xa0 + p.toNat) = n := ⟨_, rfl⟩
  rw [hn]
  rw [at_0C (by omega)]
  unfold decode0C
  rw [show n / 2 % 1024 = 80 by omega]
  rw [← show fD n = d from ofNat_field _ _ (by omega), ← show fA n = a from ofNat_field _ _ (by omega), ← show fB n = b from ofNat_field _ _ (by omega), ← show BitVec.ofNat 1 n = p from ofNat_field _ _ (by omega)]
  rfl

theorem fle (d : BitVec 5) (a : BitVec 5) (b : BitVec 5) (p : BitVec 1) : Statement (.fle d a b p) := by
  refine of_word rfl ?_
  have h_d := d.isLt
  have h_a := a.isLt
  have h_b := b.isLt
  have h_p := p.isLt
  rw [rFmt_toNat _ _ _ _ _ (by omega)]
  obtain ⟨n, hn⟩ : ∃ n, 0x0C * 67108864 + d.toNat * 2097152 + a.toNat * 65536 + b.toNat * 2048 + (0xb0 + p.toNat) = n := ⟨_, rfl⟩
  rw [hn]
  rw [at_0C (by omega)]
  unfold decode0C
  rw [show n / 2 % 1024 = 88 by omega]
  rw [← show fD n = d from ofNat_field _ _ (by omega), ← show fA n = a from ofNat_field _ _ (by omega), ← show fB n = b from ofNat_field _ _ (by omega), ← show BitVec.ofNat 1 n = p from ofNat_field _ _ (by omega)]
  rfl

theorem fcvtFf (d : BitVec 5) (a : BitVec 5) (p : BitVec 1) : Statement (.fcvtFf d a p) := by
  refine of_word rfl ?_
  have h_d := d.isLt
  have h_a := a.isLt
  have h_p := p.isLt
  rw [rFmt_toNat _ _ _ _ _ (by omega)]
  obtain ⟨n, hn⟩ : ∃ n, 0x0C * 67108864 + d.toNat * 2097152 + a.toNat * 65536 + 0 * 2048 + (0xc0 + p.toNat) = n := ⟨_, rfl⟩
  rw [hn]
  rw [at_0C (by omega)]
  unfold decode0C
  rw [show n / 2 % 1024 = 96 by omega]
  rw [← show fD n = d from ofNat_field _ _ (by omega), ← show fA n = a from ofNat_field _ _ (by omega), ← show BitVec.ofNat 1 n = p from ofNat_field _ _ (by omega)]
  exact if_pos (by omega)

theorem fcvtFs (d : BitVec 5) (a : BitVec 5) (p : BitVec 1) : Statement (.fcvtFs d a p) := by
  refine of_word rfl ?_
  have h_d := d.isLt
  have h_a := a.isLt
  have h_p := p.isLt
  rw [rFmt_toNat _ _ _ _ _ (by omega)]
  obtain ⟨n, hn⟩ : ∃ n, 0x0C * 67108864 + d.toNat * 2097152 + a.toNat * 65536 + 0 * 2048 + (0xc2 + p.toNat) = n := ⟨_, rfl⟩
  rw [hn]
  rw [at_0C (by omega)]
  unfold decode0C
  rw [show n / 2 % 1024 = 97 by omega]
  rw [← show fD n = d from ofNat_field _ _ (by omega), ← show fA n = a from ofNat_field _ _ (by omega), ← show BitVec.ofNat 1 n = p from ofNat_field _ _ (by omega)]
  exact if_pos (by omega)

theorem fcvtFu (d : BitVec 5) (a : BitVec 5) (p : BitVec 1) : Statement (.fcvtFu d a p) := by
  refine of_word rfl ?_
  have h_d := d.isLt
  have h_a := a.isLt
  have h_p := p.isLt
  rw [rFmt_toNat _ _ _ _ _ (by omega)]
  obtain ⟨n, hn⟩ : ∃ n, 0x0C * 67108864 + d.toNat * 2097152 + a.toNat * 65536 + 0 * 2048 + (0xc4 + p.toNat) = n := ⟨_, rfl⟩
  rw [hn]
  rw [at_0C (by omega)]
  unfold decode0C
  rw [show n / 2 % 1024 = 98 by omega]
  rw [← show fD n = d from ofNat_field _ _ (by omega), ← show fA n = a from ofNat_field _ _ (by omega), ← show BitVec.ofNat 1 n = p from ofNat_field _ _ (by omega)]
  exact if_pos (by omega)

theorem fcvtSf (d : BitVec 5) (a : BitVec 5) (p : BitVec 1) : Statement (.fcvtSf d a p) := by
  refine of_word rfl ?_
  have h_d := d.isLt
  have h_a := a.isLt
  have h_p := p.isLt
  rw [rFmt_toNat _ _ _ _ _ (by omega)]
  obtain ⟨n, hn⟩ : ∃ n, 0x0C * 67108864 + d.toNat * 2097152 + a.toNat * 65536 + 0 * 2048 + (0xc6 + p.toNat) = n := ⟨_, rfl⟩
  rw [hn]
  rw [at_0C (by omega)]
  unfold decode0C
  rw [show n / 2 % 1024 = 99 by omega]
  rw [← show fD n = d from ofNat_field _ _ (by omega), ← show fA n = a from ofNat_field _ _ (by omega), ← show BitVec.ofNat 1 n = p from ofNat_field _ _ (by omega)]
  exact if_pos (by omega)

theorem fcvtUf (d : BitVec 5) (a : BitVec 5) (p : BitVec 1) : Statement (.fcvtUf d a p) := by
  refine of_word rfl ?_
  have h_d := d.isLt
  have h_a := a.isLt
  have h_p := p.isLt
  rw [rFmt_toNat _ _ _ _ _ (by omega)]
  obtain ⟨n, hn⟩ : ∃ n, 0x0C * 67108864 + d.toNat * 2097152 + a.toNat * 65536 + 0 * 2048 + (0xc8 + p.toNat) = n := ⟨_, rfl⟩
  rw [hn]
  rw [at_0C (by omega)]
  unfold decode0C
  rw [show n / 2 % 1024 = 100 by omega]
  rw [← show fD n = d from ofNat_field _ _ (by omega), ← show fA n = a from ofNat_field _ _ (by omega), ← show BitVec.ofNat 1 n = p from ofNat_field _ _ (by omega)]
  exact if_pos (by omega)

theorem fclass (d : BitVec 5) (a : BitVec 5) (p : BitVec 1) : Statement (.fclass d a p) := by
  refine of_word rfl ?_
  have h_d := d.isLt
  have h_a := a.isLt
  have h_p := p.isLt
  rw [rFmt_toNat _ _ _ _ _ (by omega)]
  obtain ⟨n, hn⟩ : ∃ n, 0x0C * 67108864 + d.toNat * 2097152 + a.toNat * 65536 + 0 * 2048 + (0xd0 + p.toNat) = n := ⟨_, rfl⟩
  rw [hn]
  rw [at_0C (by omega)]
  unfold decode0C
  rw [show n / 2 % 1024 = 104 by omega]
  rw [← show fD n = d from ofNat_field _ _ (by omega), ← show fA n = a from ofNat_field _ _ (by omega), ← show BitVec.ofNat 1 n = p from ofNat_field _ _ (by omega)]
  exact if_pos (by omega)

theorem ldacq (d : BitVec 5) (a : BitVec 5) (w : BitVec 2) (s : BitVec 3) : Statement (.ldacq d a w s) := by
  refine of_word rfl ?_
  have h_d := d.isLt
  have h_a := a.isLt
  have h_w := w.isLt
  have h_s := s.isLt
  rw [rFmt_toNat _ _ _ _ _ (by omega)]
  obtain ⟨n, hn⟩ : ∃ n, 0x0D * 67108864 + d.toNat * 2097152 + a.toNat * 65536 + 0 * 2048 + (w.toNat * 64 + s.toNat) = n := ⟨_, rfl⟩
  rw [hn]
  rw [at_0D (by omega)]
  unfold decode0D
  rw [show n / 256 % 8 = 0 by omega]
  rw [← show fD n = d from ofNat_field _ _ (by omega), ← show fA n = a from ofNat_field _ _ (by omega), ← show fld 6 2 n = w from ofNat_field _ _ (by omega), ← show BitVec.ofNat 3 n = s from ofNat_field _ _ (by omega)]
  exact if_pos (by omega)

theorem strel (a : BitVec 5) (b : BitVec 5) (w : BitVec 2) (s : BitVec 3) : Statement (.strel a b w s) := by
  refine of_word rfl ?_
  have h_a := a.isLt
  have h_b := b.isLt
  have h_w := w.isLt
  have h_s := s.isLt
  rw [rFmt_toNat _ _ _ _ _ (by omega)]
  obtain ⟨n, hn⟩ : ∃ n, 0x0D * 67108864 + 0 * 2097152 + a.toNat * 65536 + b.toNat * 2048 + (0x100 + w.toNat * 64 + s.toNat) = n := ⟨_, rfl⟩
  rw [hn]
  rw [at_0D (by omega)]
  unfold decode0D
  rw [show n / 256 % 8 = 1 by omega]
  rw [← show fA n = a from ofNat_field _ _ (by omega), ← show fB n = b from ofNat_field _ _ (by omega), ← show fld 6 2 n = w from ofNat_field _ _ (by omega), ← show BitVec.ofNat 3 n = s from ofNat_field _ _ (by omega)]
  exact if_pos (by omega)

theorem fence (k : BitVec 5) (s : BitVec 3) : Statement (.fence k s) := by
  refine of_word rfl ?_
  have h_k := k.isLt
  have h_s := s.isLt
  rw [rFmt_toNat _ _ _ _ _ (by omega)]
  obtain ⟨n, hn⟩ : ∃ n, 0x0D * 67108864 + 0 * 2097152 + 0 * 65536 + 0 * 2048 + (0x200 + k.toNat * 8 + s.toNat) = n := ⟨_, rfl⟩
  rw [hn]
  rw [at_0D (by omega)]
  unfold decode0D
  rw [show n / 256 % 8 = 2 by omega]
  rw [← show fld 3 5 n = k from ofNat_field _ _ (by omega), ← show BitVec.ofNat 3 n = s from ofNat_field _ _ (by omega)]
  exact if_pos (by omega)

theorem amoadd (d : BitVec 5) (a : BitVec 5) (b : BitVec 5) (w : BitVec 2) (o : BitVec 2) (s : BitVec 3) : Statement (.amoadd d a b w o s) := by
  refine of_word rfl ?_
  have h_d := d.isLt
  have h_a := a.isLt
  have h_b := b.isLt
  have h_w := w.isLt
  have h_o := o.isLt
  have h_s := s.isLt
  rw [rFmt_toNat _ _ _ _ _ (by omega)]
  obtain ⟨n, hn⟩ : ∃ n, 0x0E * 67108864 + d.toNat * 2097152 + a.toNat * 65536 + b.toNat * 2048 + (w.toNat * 32 + o.toNat * 8 + s.toNat) = n := ⟨_, rfl⟩
  rw [hn]
  rw [at_0E (by omega)]
  unfold decode0E
  rw [show n / 128 % 16 = 0 by omega]
  rw [← show fD n = d from ofNat_field _ _ (by omega), ← show fA n = a from ofNat_field _ _ (by omega), ← show fB n = b from ofNat_field _ _ (by omega), ← show fld 5 2 n = w from ofNat_field _ _ (by omega), ← show fld 3 2 n = o from ofNat_field _ _ (by omega), ← show BitVec.ofNat 3 n = s from ofNat_field _ _ (by omega)]
  rfl

theorem amoand (d : BitVec 5) (a : BitVec 5) (b : BitVec 5) (w : BitVec 2) (o : BitVec 2) (s : BitVec 3) : Statement (.amoand d a b w o s) := by
  refine of_word rfl ?_
  have h_d := d.isLt
  have h_a := a.isLt
  have h_b := b.isLt
  have h_w := w.isLt
  have h_o := o.isLt
  have h_s := s.isLt
  rw [rFmt_toNat _ _ _ _ _ (by omega)]
  obtain ⟨n, hn⟩ : ∃ n, 0x0E * 67108864 + d.toNat * 2097152 + a.toNat * 65536 + b.toNat * 2048 + (0x80 + w.toNat * 32 + o.toNat * 8 + s.toNat) = n := ⟨_, rfl⟩
  rw [hn]
  rw [at_0E (by omega)]
  unfold decode0E
  rw [show n / 128 % 16 = 1 by omega]
  rw [← show fD n = d from ofNat_field _ _ (by omega), ← show fA n = a from ofNat_field _ _ (by omega), ← show fB n = b from ofNat_field _ _ (by omega), ← show fld 5 2 n = w from ofNat_field _ _ (by omega), ← show fld 3 2 n = o from ofNat_field _ _ (by omega), ← show BitVec.ofNat 3 n = s from ofNat_field _ _ (by omega)]
  rfl

theorem amoor (d : BitVec 5) (a : BitVec 5) (b : BitVec 5) (w : BitVec 2) (o : BitVec 2) (s : BitVec 3) : Statement (.amoor d a b w o s) := by
  refine of_word rfl ?_
  have h_d := d.isLt
  have h_a := a.isLt
  have h_b := b.isLt
  have h_w := w.isLt
  have h_o := o.isLt
  have h_s := s.isLt
  rw [rFmt_toNat _ _ _ _ _ (by omega)]
  obtain ⟨n, hn⟩ : ∃ n, 0x0E * 67108864 + d.toNat * 2097152 + a.toNat * 65536 + b.toNat * 2048 + (0x100 + w.toNat * 32 + o.toNat * 8 + s.toNat) = n := ⟨_, rfl⟩
  rw [hn]
  rw [at_0E (by omega)]
  unfold decode0E
  rw [show n / 128 % 16 = 2 by omega]
  rw [← show fD n = d from ofNat_field _ _ (by omega), ← show fA n = a from ofNat_field _ _ (by omega), ← show fB n = b from ofNat_field _ _ (by omega), ← show fld 5 2 n = w from ofNat_field _ _ (by omega), ← show fld 3 2 n = o from ofNat_field _ _ (by omega), ← show BitVec.ofNat 3 n = s from ofNat_field _ _ (by omega)]
  rfl

theorem amoxor (d : BitVec 5) (a : BitVec 5) (b : BitVec 5) (w : BitVec 2) (o : BitVec 2) (s : BitVec 3) : Statement (.amoxor d a b w o s) := by
  refine of_word rfl ?_
  have h_d := d.isLt
  have h_a := a.isLt
  have h_b := b.isLt
  have h_w := w.isLt
  have h_o := o.isLt
  have h_s := s.isLt
  rw [rFmt_toNat _ _ _ _ _ (by omega)]
  obtain ⟨n, hn⟩ : ∃ n, 0x0E * 67108864 + d.toNat * 2097152 + a.toNat * 65536 + b.toNat * 2048 + (0x180 + w.toNat * 32 + o.toNat * 8 + s.toNat) = n := ⟨_, rfl⟩
  rw [hn]
  rw [at_0E (by omega)]
  unfold decode0E
  rw [show n / 128 % 16 = 3 by omega]
  rw [← show fD n = d from ofNat_field _ _ (by omega), ← show fA n = a from ofNat_field _ _ (by omega), ← show fB n = b from ofNat_field _ _ (by omega), ← show fld 5 2 n = w from ofNat_field _ _ (by omega), ← show fld 3 2 n = o from ofNat_field _ _ (by omega), ← show BitVec.ofNat 3 n = s from ofNat_field _ _ (by omega)]
  rfl

theorem amomin (d : BitVec 5) (a : BitVec 5) (b : BitVec 5) (w : BitVec 2) (o : BitVec 2) (s : BitVec 3) : Statement (.amomin d a b w o s) := by
  refine of_word rfl ?_
  have h_d := d.isLt
  have h_a := a.isLt
  have h_b := b.isLt
  have h_w := w.isLt
  have h_o := o.isLt
  have h_s := s.isLt
  rw [rFmt_toNat _ _ _ _ _ (by omega)]
  obtain ⟨n, hn⟩ : ∃ n, 0x0E * 67108864 + d.toNat * 2097152 + a.toNat * 65536 + b.toNat * 2048 + (0x200 + w.toNat * 32 + o.toNat * 8 + s.toNat) = n := ⟨_, rfl⟩
  rw [hn]
  rw [at_0E (by omega)]
  unfold decode0E
  rw [show n / 128 % 16 = 4 by omega]
  rw [← show fD n = d from ofNat_field _ _ (by omega), ← show fA n = a from ofNat_field _ _ (by omega), ← show fB n = b from ofNat_field _ _ (by omega), ← show fld 5 2 n = w from ofNat_field _ _ (by omega), ← show fld 3 2 n = o from ofNat_field _ _ (by omega), ← show BitVec.ofNat 3 n = s from ofNat_field _ _ (by omega)]
  rfl

theorem amomax (d : BitVec 5) (a : BitVec 5) (b : BitVec 5) (w : BitVec 2) (o : BitVec 2) (s : BitVec 3) : Statement (.amomax d a b w o s) := by
  refine of_word rfl ?_
  have h_d := d.isLt
  have h_a := a.isLt
  have h_b := b.isLt
  have h_w := w.isLt
  have h_o := o.isLt
  have h_s := s.isLt
  rw [rFmt_toNat _ _ _ _ _ (by omega)]
  obtain ⟨n, hn⟩ : ∃ n, 0x0E * 67108864 + d.toNat * 2097152 + a.toNat * 65536 + b.toNat * 2048 + (0x280 + w.toNat * 32 + o.toNat * 8 + s.toNat) = n := ⟨_, rfl⟩
  rw [hn]
  rw [at_0E (by omega)]
  unfold decode0E
  rw [show n / 128 % 16 = 5 by omega]
  rw [← show fD n = d from ofNat_field _ _ (by omega), ← show fA n = a from ofNat_field _ _ (by omega), ← show fB n = b from ofNat_field _ _ (by omega), ← show fld 5 2 n = w from ofNat_field _ _ (by omega), ← show fld 3 2 n = o from ofNat_field _ _ (by omega), ← show BitVec.ofNat 3 n = s from ofNat_field _ _ (by omega)]
  rfl

theorem amominu (d : BitVec 5) (a : BitVec 5) (b : BitVec 5) (w : BitVec 2) (o : BitVec 2) (s : BitVec 3) : Statement (.amominu d a b w o s) := by
  refine of_word rfl ?_
  have h_d := d.isLt
  have h_a := a.isLt
  have h_b := b.isLt
  have h_w := w.isLt
  have h_o := o.isLt
  have h_s := s.isLt
  rw [rFmt_toNat _ _ _ _ _ (by omega)]
  obtain ⟨n, hn⟩ : ∃ n, 0x0E * 67108864 + d.toNat * 2097152 + a.toNat * 65536 + b.toNat * 2048 + (0x300 + w.toNat * 32 + o.toNat * 8 + s.toNat) = n := ⟨_, rfl⟩
  rw [hn]
  rw [at_0E (by omega)]
  unfold decode0E
  rw [show n / 128 % 16 = 6 by omega]
  rw [← show fD n = d from ofNat_field _ _ (by omega), ← show fA n = a from ofNat_field _ _ (by omega), ← show fB n = b from ofNat_field _ _ (by omega), ← show fld 5 2 n = w from ofNat_field _ _ (by omega), ← show fld 3 2 n = o from ofNat_field _ _ (by omega), ← show BitVec.ofNat 3 n = s from ofNat_field _ _ (by omega)]
  rfl

theorem amomaxu (d : BitVec 5) (a : BitVec 5) (b : BitVec 5) (w : BitVec 2) (o : BitVec 2) (s : BitVec 3) : Statement (.amomaxu d a b w o s) := by
  refine of_word rfl ?_
  have h_d := d.isLt
  have h_a := a.isLt
  have h_b := b.isLt
  have h_w := w.isLt
  have h_o := o.isLt
  have h_s := s.isLt
  rw [rFmt_toNat _ _ _ _ _ (by omega)]
  obtain ⟨n, hn⟩ : ∃ n, 0x0E * 67108864 + d.toNat * 2097152 + a.toNat * 65536 + b.toNat * 2048 + (0x380 + w.toNat * 32 + o.toNat * 8 + s.toNat) = n := ⟨_, rfl⟩
  rw [hn]
  rw [at_0E (by omega)]
  unfold decode0E
  rw [show n / 128 % 16 = 7 by omega]
  rw [← show fD n = d from ofNat_field _ _ (by omega), ← show fA n = a from ofNat_field _ _ (by omega), ← show fB n = b from ofNat_field _ _ (by omega), ← show fld 5 2 n = w from ofNat_field _ _ (by omega), ← show fld 3 2 n = o from ofNat_field _ _ (by omega), ← show BitVec.ofNat 3 n = s from ofNat_field _ _ (by omega)]
  rfl

theorem amoswap (d : BitVec 5) (a : BitVec 5) (b : BitVec 5) (w : BitVec 2) (o : BitVec 2) (s : BitVec 3) : Statement (.amoswap d a b w o s) := by
  refine of_word rfl ?_
  have h_d := d.isLt
  have h_a := a.isLt
  have h_b := b.isLt
  have h_w := w.isLt
  have h_o := o.isLt
  have h_s := s.isLt
  rw [rFmt_toNat _ _ _ _ _ (by omega)]
  obtain ⟨n, hn⟩ : ∃ n, 0x0E * 67108864 + d.toNat * 2097152 + a.toNat * 65536 + b.toNat * 2048 + (0x400 + w.toNat * 32 + o.toNat * 8 + s.toNat) = n := ⟨_, rfl⟩
  rw [hn]
  rw [at_0E (by omega)]
  unfold decode0E
  rw [show n / 128 % 16 = 8 by omega]
  rw [← show fD n = d from ofNat_field _ _ (by omega), ← show fA n = a from ofNat_field _ _ (by omega), ← show fB n = b from ofNat_field _ _ (by omega), ← show fld 5 2 n = w from ofNat_field _ _ (by omega), ← show fld 3 2 n = o from ofNat_field _ _ (by omega), ← show BitVec.ofNat 3 n = s from ofNat_field _ _ (by omega)]
  rfl

theorem amocas (d : BitVec 5) (a : BitVec 5) (b : BitVec 5) (w : BitVec 2) (o : BitVec 2) (s : BitVec 3) : Statement (.amocas d a b w o s) := by
  refine of_word rfl ?_
  have h_d := d.isLt
  have h_a := a.isLt
  have h_b := b.isLt
  have h_w := w.isLt
  have h_o := o.isLt
  have h_s := s.isLt
  rw [rFmt_toNat _ _ _ _ _ (by omega)]
  obtain ⟨n, hn⟩ : ∃ n, 0x0E * 67108864 + d.toNat * 2097152 + a.toNat * 65536 + b.toNat * 2048 + (0x480 + w.toNat * 32 + o.toNat * 8 + s.toNat) = n := ⟨_, rfl⟩
  rw [hn]
  rw [at_0E (by omega)]
  unfold decode0E
  rw [show n / 128 % 16 = 9 by omega]
  rw [← show fD n = d from ofNat_field _ _ (by omega), ← show fA n = a from ofNat_field _ _ (by omega), ← show fB n = b from ofNat_field _ _ (by omega), ← show fld 5 2 n = w from ofNat_field _ _ (by omega), ← show fld 3 2 n = o from ofNat_field _ _ (by omega), ← show BitVec.ofNat 3 n = s from ofNat_field _ _ (by omega)]
  rfl

theorem amofadd (d : BitVec 5) (a : BitVec 5) (b : BitVec 5) (w : BitVec 2) (o : BitVec 2) (s : BitVec 3) : Statement (.amofadd d a b w o s) := by
  refine of_word rfl ?_
  have h_d := d.isLt
  have h_a := a.isLt
  have h_b := b.isLt
  have h_w := w.isLt
  have h_o := o.isLt
  have h_s := s.isLt
  rw [rFmt_toNat _ _ _ _ _ (by omega)]
  obtain ⟨n, hn⟩ : ∃ n, 0x0E * 67108864 + d.toNat * 2097152 + a.toNat * 65536 + b.toNat * 2048 + (0x500 + w.toNat * 32 + o.toNat * 8 + s.toNat) = n := ⟨_, rfl⟩
  rw [hn]
  rw [at_0E (by omega)]
  unfold decode0E
  rw [show n / 128 % 16 = 10 by omega]
  rw [← show fD n = d from ofNat_field _ _ (by omega), ← show fA n = a from ofNat_field _ _ (by omega), ← show fB n = b from ofNat_field _ _ (by omega), ← show fld 5 2 n = w from ofNat_field _ _ (by omega), ← show fld 3 2 n = o from ofNat_field _ _ (by omega), ← show BitVec.ofNat 3 n = s from ofNat_field _ _ (by omega)]
  rfl

theorem amofmin (d : BitVec 5) (a : BitVec 5) (b : BitVec 5) (w : BitVec 2) (o : BitVec 2) (s : BitVec 3) : Statement (.amofmin d a b w o s) := by
  refine of_word rfl ?_
  have h_d := d.isLt
  have h_a := a.isLt
  have h_b := b.isLt
  have h_w := w.isLt
  have h_o := o.isLt
  have h_s := s.isLt
  rw [rFmt_toNat _ _ _ _ _ (by omega)]
  obtain ⟨n, hn⟩ : ∃ n, 0x0E * 67108864 + d.toNat * 2097152 + a.toNat * 65536 + b.toNat * 2048 + (0x580 + w.toNat * 32 + o.toNat * 8 + s.toNat) = n := ⟨_, rfl⟩
  rw [hn]
  rw [at_0E (by omega)]
  unfold decode0E
  rw [show n / 128 % 16 = 11 by omega]
  rw [← show fD n = d from ofNat_field _ _ (by omega), ← show fA n = a from ofNat_field _ _ (by omega), ← show fB n = b from ofNat_field _ _ (by omega), ← show fld 5 2 n = w from ofNat_field _ _ (by omega), ← show fld 3 2 n = o from ofNat_field _ _ (by omega), ← show BitVec.ofNat 3 n = s from ofNat_field _ _ (by omega)]
  rfl

theorem amofmax (d : BitVec 5) (a : BitVec 5) (b : BitVec 5) (w : BitVec 2) (o : BitVec 2) (s : BitVec 3) : Statement (.amofmax d a b w o s) := by
  refine of_word rfl ?_
  have h_d := d.isLt
  have h_a := a.isLt
  have h_b := b.isLt
  have h_w := w.isLt
  have h_o := o.isLt
  have h_s := s.isLt
  rw [rFmt_toNat _ _ _ _ _ (by omega)]
  obtain ⟨n, hn⟩ : ∃ n, 0x0E * 67108864 + d.toNat * 2097152 + a.toNat * 65536 + b.toNat * 2048 + (0x600 + w.toNat * 32 + o.toNat * 8 + s.toNat) = n := ⟨_, rfl⟩
  rw [hn]
  rw [at_0E (by omega)]
  unfold decode0E
  rw [show n / 128 % 16 = 12 by omega]
  rw [← show fD n = d from ofNat_field _ _ (by omega), ← show fA n = a from ofNat_field _ _ (by omega), ← show fB n = b from ofNat_field _ _ (by omega), ← show fld 5 2 n = w from ofNat_field _ _ (by omega), ← show fld 3 2 n = o from ofNat_field _ _ (by omega), ← show BitVec.ofNat 3 n = s from ofNat_field _ _ (by omega)]
  rfl

theorem csrr (d : BitVec 5) (c : BitVec 12) : Statement (.csrr d c) := by
  refine of_word rfl ?_
  have h_d := d.isLt
  have h_c := c.isLt
  rw [iFmt_toNat _ _ _ _ (by omega)]
  obtain ⟨n, hn⟩ : ∃ n, 0x0F * 67108864 + d.toNat * 2097152 + 0 * 65536 + c.toNat = n := ⟨_, rfl⟩
  rw [hn]
  rw [at_0F (by omega)]
  unfold decode0F
  rw [show n / 4096 % 16 = 0 by omega]
  rw [← show fD n = d from ofNat_field _ _ (by omega), ← show BitVec.ofNat 12 n = c from ofNat_field _ _ (by omega)]
  exact if_pos (by omega)

theorem csrw (a : BitVec 5) (c : BitVec 12) : Statement (.csrw a c) := by
  refine of_word rfl ?_
  have h_a := a.isLt
  have h_c := c.isLt
  rw [iFmt_toNat _ _ _ _ (by omega)]
  obtain ⟨n, hn⟩ : ∃ n, 0x0F * 67108864 + 0 * 2097152 + a.toNat * 65536 + (0x1000 + c.toNat) = n := ⟨_, rfl⟩
  rw [hn]
  rw [at_0F (by omega)]
  unfold decode0F
  rw [show n / 4096 % 16 = 1 by omega]
  rw [← show fA n = a from ofNat_field _ _ (by omega), ← show BitVec.ofNat 12 n = c from ofNat_field _ _ (by omega)]
  exact if_pos (by omega)

theorem csrx (d : BitVec 5) (a : BitVec 5) (c : BitVec 12) : Statement (.csrx d a c) := by
  refine of_word rfl ?_
  have h_d := d.isLt
  have h_a := a.isLt
  have h_c := c.isLt
  rw [iFmt_toNat _ _ _ _ (by omega)]
  obtain ⟨n, hn⟩ : ∃ n, 0x0F * 67108864 + d.toNat * 2097152 + a.toNat * 65536 + (0x2000 + c.toNat) = n := ⟨_, rfl⟩
  rw [hn]
  rw [at_0F (by omega)]
  unfold decode0F
  rw [show n / 4096 % 16 = 2 by omega]
  rw [← show fD n = d from ofNat_field _ _ (by omega), ← show fA n = a from ofNat_field _ _ (by omega), ← show BitVec.ofNat 12 n = c from ofNat_field _ _ (by omega)]
  rfl

theorem trap (i : BitVec 12) : Statement (.trap i) := by
  refine of_word rfl ?_
  have h_i := i.isLt
  rw [iFmt_toNat _ _ _ _ (by omega)]
  obtain ⟨n, hn⟩ : ∃ n, 0x0F * 67108864 + 0 * 2097152 + 0 * 65536 + (0x3000 + i.toNat) = n := ⟨_, rfl⟩
  rw [hn]
  rw [at_0F (by omega)]
  unfold decode0F
  rw [show n / 4096 % 16 = 3 by omega]
  rw [← show BitVec.ofNat 12 n = i from ofNat_field _ _ (by omega)]
  exact if_pos (by omega)

theorem brk (i : BitVec 12) : Statement (.brk i) := by
  refine of_word rfl ?_
  have h_i := i.isLt
  rw [iFmt_toNat _ _ _ _ (by omega)]
  obtain ⟨n, hn⟩ : ∃ n, 0x0F * 67108864 + 0 * 2097152 + 0 * 65536 + (0x4000 + i.toNat) = n := ⟨_, rfl⟩
  rw [hn]
  rw [at_0F (by omega)]
  unfold decode0F
  rw [show n / 4096 % 16 = 4 by omega]
  rw [← show BitVec.ofNat 12 n = i from ofNat_field _ _ (by omega)]
  exact if_pos (by omega)

theorem waitw (d : BitVec 5) (a : BitVec 5) : Statement (.waitw d a) := by
  refine of_word rfl ?_
  have h_d := d.isLt
  have h_a := a.isLt
  rw [iFmt_toNat _ _ _ _ (by omega)]
  obtain ⟨n, hn⟩ : ∃ n, 0x0F * 67108864 + d.toNat * 2097152 + a.toNat * 65536 + 0x6000 = n := ⟨_, rfl⟩
  rw [hn]
  rw [at_0F (by omega)]
  unfold decode0F
  rw [show n / 4096 % 16 = 6 by omega]
  rw [← show fD n = d from ofNat_field _ _ (by omega), ← show fA n = a from ofNat_field _ _ (by omega)]
  exact if_pos (by omega)

theorem vadd (d : BitVec 5) (a : BitVec 5) (b : BitVec 5) (h : BitVec 2) : Statement (.vadd d a b h) := by
  refine of_word rfl ?_
  have h_d := d.isLt
  have h_a := a.isLt
  have h_b := b.isLt
  have h_h := h.isLt
  rw [rFmt_toNat _ _ _ _ _ (by omega)]
  obtain ⟨n, hn⟩ : ∃ n, 0x10 * 67108864 + d.toNat * 2097152 + a.toNat * 65536 + b.toNat * 2048 + (h.toNat * 8) = n := ⟨_, rfl⟩
  rw [hn]
  rw [at_10 (by omega)]
  unfold decode10
  rw [show n / 32 % 64 = 0 by omega]
  rw [← show fD n = d from ofNat_field _ _ (by omega), ← show fA n = a from ofNat_field _ _ (by omega), ← show fB n = b from ofNat_field _ _ (by omega), ← show fld 3 2 n = h from ofNat_field _ _ (by omega)]
  exact if_pos (by omega)

theorem vsub (d : BitVec 5) (a : BitVec 5) (b : BitVec 5) (h : BitVec 2) : Statement (.vsub d a b h) := by
  refine of_word rfl ?_
  have h_d := d.isLt
  have h_a := a.isLt
  have h_b := b.isLt
  have h_h := h.isLt
  rw [rFmt_toNat _ _ _ _ _ (by omega)]
  obtain ⟨n, hn⟩ : ∃ n, 0x10 * 67108864 + d.toNat * 2097152 + a.toNat * 65536 + b.toNat * 2048 + (0x20 + h.toNat * 8) = n := ⟨_, rfl⟩
  rw [hn]
  rw [at_10 (by omega)]
  unfold decode10
  rw [show n / 32 % 64 = 1 by omega]
  rw [← show fD n = d from ofNat_field _ _ (by omega), ← show fA n = a from ofNat_field _ _ (by omega), ← show fB n = b from ofNat_field _ _ (by omega), ← show fld 3 2 n = h from ofNat_field _ _ (by omega)]
  exact if_pos (by omega)

theorem vrsub (d : BitVec 5) (a : BitVec 5) (b : BitVec 5) (h : BitVec 2) : Statement (.vrsub d a b h) := by
  refine of_word rfl ?_
  have h_d := d.isLt
  have h_a := a.isLt
  have h_b := b.isLt
  have h_h := h.isLt
  rw [rFmt_toNat _ _ _ _ _ (by omega)]
  obtain ⟨n, hn⟩ : ∃ n, 0x10 * 67108864 + d.toNat * 2097152 + a.toNat * 65536 + b.toNat * 2048 + (0x40 + h.toNat * 8) = n := ⟨_, rfl⟩
  rw [hn]
  rw [at_10 (by omega)]
  unfold decode10
  rw [show n / 32 % 64 = 2 by omega]
  rw [← show fD n = d from ofNat_field _ _ (by omega), ← show fA n = a from ofNat_field _ _ (by omega), ← show fB n = b from ofNat_field _ _ (by omega), ← show fld 3 2 n = h from ofNat_field _ _ (by omega)]
  exact if_pos (by omega)

theorem vmul (d : BitVec 5) (a : BitVec 5) (b : BitVec 5) (h : BitVec 2) : Statement (.vmul d a b h) := by
  refine of_word rfl ?_
  have h_d := d.isLt
  have h_a := a.isLt
  have h_b := b.isLt
  have h_h := h.isLt
  rw [rFmt_toNat _ _ _ _ _ (by omega)]
  obtain ⟨n, hn⟩ : ∃ n, 0x10 * 67108864 + d.toNat * 2097152 + a.toNat * 65536 + b.toNat * 2048 + (0x60 + h.toNat * 8) = n := ⟨_, rfl⟩
  rw [hn]
  rw [at_10 (by omega)]
  unfold decode10
  rw [show n / 32 % 64 = 3 by omega]
  rw [← show fD n = d from ofNat_field _ _ (by omega), ← show fA n = a from ofNat_field _ _ (by omega), ← show fB n = b from ofNat_field _ _ (by omega), ← show fld 3 2 n = h from ofNat_field _ _ (by omega)]
  exact if_pos (by omega)

theorem vmulh (d : BitVec 5) (a : BitVec 5) (b : BitVec 5) (h : BitVec 2) : Statement (.vmulh d a b h) := by
  refine of_word rfl ?_
  have h_d := d.isLt
  have h_a := a.isLt
  have h_b := b.isLt
  have h_h := h.isLt
  rw [rFmt_toNat _ _ _ _ _ (by omega)]
  obtain ⟨n, hn⟩ : ∃ n, 0x10 * 67108864 + d.toNat * 2097152 + a.toNat * 65536 + b.toNat * 2048 + (0x80 + h.toNat * 8) = n := ⟨_, rfl⟩
  rw [hn]
  rw [at_10 (by omega)]
  unfold decode10
  rw [show n / 32 % 64 = 4 by omega]
  rw [← show fD n = d from ofNat_field _ _ (by omega), ← show fA n = a from ofNat_field _ _ (by omega), ← show fB n = b from ofNat_field _ _ (by omega), ← show fld 3 2 n = h from ofNat_field _ _ (by omega)]
  exact if_pos (by omega)

theorem vmulhu (d : BitVec 5) (a : BitVec 5) (b : BitVec 5) (h : BitVec 2) : Statement (.vmulhu d a b h) := by
  refine of_word rfl ?_
  have h_d := d.isLt
  have h_a := a.isLt
  have h_b := b.isLt
  have h_h := h.isLt
  rw [rFmt_toNat _ _ _ _ _ (by omega)]
  obtain ⟨n, hn⟩ : ∃ n, 0x10 * 67108864 + d.toNat * 2097152 + a.toNat * 65536 + b.toNat * 2048 + (0xa0 + h.toNat * 8) = n := ⟨_, rfl⟩
  rw [hn]
  rw [at_10 (by omega)]
  unfold decode10
  rw [show n / 32 % 64 = 5 by omega]
  rw [← show fD n = d from ofNat_field _ _ (by omega), ← show fA n = a from ofNat_field _ _ (by omega), ← show fB n = b from ofNat_field _ _ (by omega), ← show fld 3 2 n = h from ofNat_field _ _ (by omega)]
  exact if_pos (by omega)

theorem vmadd (d : BitVec 5) (a : BitVec 5) (b : BitVec 5) (h : BitVec 2) : Statement (.vmadd d a b h) := by
  refine of_word rfl ?_
  have h_d := d.isLt
  have h_a := a.isLt
  have h_b := b.isLt
  have h_h := h.isLt
  rw [rFmt_toNat _ _ _ _ _ (by omega)]
  obtain ⟨n, hn⟩ : ∃ n, 0x10 * 67108864 + d.toNat * 2097152 + a.toNat * 65536 + b.toNat * 2048 + (0xc0 + h.toNat * 8) = n := ⟨_, rfl⟩
  rw [hn]
  rw [at_10 (by omega)]
  unfold decode10
  rw [show n / 32 % 64 = 6 by omega]
  rw [← show fD n = d from ofNat_field _ _ (by omega), ← show fA n = a from ofNat_field _ _ (by omega), ← show fB n = b from ofNat_field _ _ (by omega), ← show fld 3 2 n = h from ofNat_field _ _ (by omega)]
  exact if_pos (by omega)

theorem vdiv (d : BitVec 5) (a : BitVec 5) (b : BitVec 5) (h : BitVec 2) : Statement (.vdiv d a b h) := by
  refine of_word rfl ?_
  have h_d := d.isLt
  have h_a := a.isLt
  have h_b := b.isLt
  have h_h := h.isLt
  rw [rFmt_toNat _ _ _ _ _ (by omega)]
  obtain ⟨n, hn⟩ : ∃ n, 0x10 * 67108864 + d.toNat * 2097152 + a.toNat * 65536 + b.toNat * 2048 + (0xe0 + h.toNat * 8) = n := ⟨_, rfl⟩
  rw [hn]
  rw [at_10 (by omega)]
  unfold decode10
  rw [show n / 32 % 64 = 7 by omega]
  rw [← show fD n = d from ofNat_field _ _ (by omega), ← show fA n = a from ofNat_field _ _ (by omega), ← show fB n = b from ofNat_field _ _ (by omega), ← show fld 3 2 n = h from ofNat_field _ _ (by omega)]
  exact if_pos (by omega)

theorem vdivu (d : BitVec 5) (a : BitVec 5) (b : BitVec 5) (h : BitVec 2) : Statement (.vdivu d a b h) := by
  refine of_word rfl ?_
  have h_d := d.isLt
  have h_a := a.isLt
  have h_b := b.isLt
  have h_h := h.isLt
  rw [rFmt_toNat _ _ _ _ _ (by omega)]
  obtain ⟨n, hn⟩ : ∃ n, 0x10 * 67108864 + d.toNat * 2097152 + a.toNat * 65536 + b.toNat * 2048 + (0x100 + h.toNat * 8) = n := ⟨_, rfl⟩
  rw [hn]
  rw [at_10 (by omega)]
  unfold decode10
  rw [show n / 32 % 64 = 8 by omega]
  rw [← show fD n = d from ofNat_field _ _ (by omega), ← show fA n = a from ofNat_field _ _ (by omega), ← show fB n = b from ofNat_field _ _ (by omega), ← show fld 3 2 n = h from ofNat_field _ _ (by omega)]
  exact if_pos (by omega)

theorem vrem (d : BitVec 5) (a : BitVec 5) (b : BitVec 5) (h : BitVec 2) : Statement (.vrem d a b h) := by
  refine of_word rfl ?_
  have h_d := d.isLt
  have h_a := a.isLt
  have h_b := b.isLt
  have h_h := h.isLt
  rw [rFmt_toNat _ _ _ _ _ (by omega)]
  obtain ⟨n, hn⟩ : ∃ n, 0x10 * 67108864 + d.toNat * 2097152 + a.toNat * 65536 + b.toNat * 2048 + (0x120 + h.toNat * 8) = n := ⟨_, rfl⟩
  rw [hn]
  rw [at_10 (by omega)]
  unfold decode10
  rw [show n / 32 % 64 = 9 by omega]
  rw [← show fD n = d from ofNat_field _ _ (by omega), ← show fA n = a from ofNat_field _ _ (by omega), ← show fB n = b from ofNat_field _ _ (by omega), ← show fld 3 2 n = h from ofNat_field _ _ (by omega)]
  exact if_pos (by omega)

theorem vmin (d : BitVec 5) (a : BitVec 5) (b : BitVec 5) (h : BitVec 2) : Statement (.vmin d a b h) := by
  refine of_word rfl ?_
  have h_d := d.isLt
  have h_a := a.isLt
  have h_b := b.isLt
  have h_h := h.isLt
  rw [rFmt_toNat _ _ _ _ _ (by omega)]
  obtain ⟨n, hn⟩ : ∃ n, 0x10 * 67108864 + d.toNat * 2097152 + a.toNat * 65536 + b.toNat * 2048 + (0x140 + h.toNat * 8) = n := ⟨_, rfl⟩
  rw [hn]
  rw [at_10 (by omega)]
  unfold decode10
  rw [show n / 32 % 64 = 10 by omega]
  rw [← show fD n = d from ofNat_field _ _ (by omega), ← show fA n = a from ofNat_field _ _ (by omega), ← show fB n = b from ofNat_field _ _ (by omega), ← show fld 3 2 n = h from ofNat_field _ _ (by omega)]
  exact if_pos (by omega)

theorem vmax (d : BitVec 5) (a : BitVec 5) (b : BitVec 5) (h : BitVec 2) : Statement (.vmax d a b h) := by
  refine of_word rfl ?_
  have h_d := d.isLt
  have h_a := a.isLt
  have h_b := b.isLt
  have h_h := h.isLt
  rw [rFmt_toNat _ _ _ _ _ (by omega)]
  obtain ⟨n, hn⟩ : ∃ n, 0x10 * 67108864 + d.toNat * 2097152 + a.toNat * 65536 + b.toNat * 2048 + (0x160 + h.toNat * 8) = n := ⟨_, rfl⟩
  rw [hn]
  rw [at_10 (by omega)]
  unfold decode10
  rw [show n / 32 % 64 = 11 by omega]
  rw [← show fD n = d from ofNat_field _ _ (by omega), ← show fA n = a from ofNat_field _ _ (by omega), ← show fB n = b from ofNat_field _ _ (by omega), ← show fld 3 2 n = h from ofNat_field _ _ (by omega)]
  exact if_pos (by omega)

theorem vminu (d : BitVec 5) (a : BitVec 5) (b : BitVec 5) (h : BitVec 2) : Statement (.vminu d a b h) := by
  refine of_word rfl ?_
  have h_d := d.isLt
  have h_a := a.isLt
  have h_b := b.isLt
  have h_h := h.isLt
  rw [rFmt_toNat _ _ _ _ _ (by omega)]
  obtain ⟨n, hn⟩ : ∃ n, 0x10 * 67108864 + d.toNat * 2097152 + a.toNat * 65536 + b.toNat * 2048 + (0x180 + h.toNat * 8) = n := ⟨_, rfl⟩
  rw [hn]
  rw [at_10 (by omega)]
  unfold decode10
  rw [show n / 32 % 64 = 12 by omega]
  rw [← show fD n = d from ofNat_field _ _ (by omega), ← show fA n = a from ofNat_field _ _ (by omega), ← show fB n = b from ofNat_field _ _ (by omega), ← show fld 3 2 n = h from ofNat_field _ _ (by omega)]
  exact if_pos (by omega)

theorem vmaxu (d : BitVec 5) (a : BitVec 5) (b : BitVec 5) (h : BitVec 2) : Statement (.vmaxu d a b h) := by
  refine of_word rfl ?_
  have h_d := d.isLt
  have h_a := a.isLt
  have h_b := b.isLt
  have h_h := h.isLt
  rw [rFmt_toNat _ _ _ _ _ (by omega)]
  obtain ⟨n, hn⟩ : ∃ n, 0x10 * 67108864 + d.toNat * 2097152 + a.toNat * 65536 + b.toNat * 2048 + (0x1a0 + h.toNat * 8) = n := ⟨_, rfl⟩
  rw [hn]
  rw [at_10 (by omega)]
  unfold decode10
  rw [show n / 32 % 64 = 13 by omega]
  rw [← show fD n = d from ofNat_field _ _ (by omega), ← show fA n = a from ofNat_field _ _ (by omega), ← show fB n = b from ofNat_field _ _ (by omega), ← show fld 3 2 n = h from ofNat_field _ _ (by omega)]
  exact if_pos (by omega)

theorem vand (d : BitVec 5) (a : BitVec 5) (b : BitVec 5) (h : BitVec 2) : Statement (.vand d a b h) := by
  refine of_word rfl ?_
  have h_d := d.isLt
  have h_a := a.isLt
  have h_b := b.isLt
  have h_h := h.isLt
  rw [rFmt_toNat _ _ _ _ _ (by omega)]
  obtain ⟨n, hn⟩ : ∃ n, 0x11 * 67108864 + d.toNat * 2097152 + a.toNat * 65536 + b.toNat * 2048 + (h.toNat * 8) = n := ⟨_, rfl⟩
  rw [hn]
  rw [at_11 (by omega)]
  unfold decode11
  rw [show n / 32 % 64 = 0 by omega]
  rw [← show fD n = d from ofNat_field _ _ (by omega), ← show fA n = a from ofNat_field _ _ (by omega), ← show fB n = b from ofNat_field _ _ (by omega), ← show fld 3 2 n = h from ofNat_field _ _ (by omega)]
  exact if_pos (by omega)

theorem vor (d : BitVec 5) (a : BitVec 5) (b : BitVec 5) (h : BitVec 2) : Statement (.vor d a b h) := by
  refine of_word rfl ?_
  have h_d := d.isLt
  have h_a := a.isLt
  have h_b := b.isLt
  have h_h := h.isLt
  rw [rFmt_toNat _ _ _ _ _ (by omega)]
  obtain ⟨n, hn⟩ : ∃ n, 0x11 * 67108864 + d.toNat * 2097152 + a.toNat * 65536 + b.toNat * 2048 + (0x20 + h.toNat * 8) = n := ⟨_, rfl⟩
  rw [hn]
  rw [at_11 (by omega)]
  unfold decode11
  rw [show n / 32 % 64 = 1 by omega]
  rw [← show fD n = d from ofNat_field _ _ (by omega), ← show fA n = a from ofNat_field _ _ (by omega), ← show fB n = b from ofNat_field _ _ (by omega), ← show fld 3 2 n = h from ofNat_field _ _ (by omega)]
  exact if_pos (by omega)

theorem vxor (d : BitVec 5) (a : BitVec 5) (b : BitVec 5) (h : BitVec 2) : Statement (.vxor d a b h) := by
  refine of_word rfl ?_
  have h_d := d.isLt
  have h_a := a.isLt
  have h_b := b.isLt
  have h_h := h.isLt
  rw [rFmt_toNat _ _ _ _ _ (by omega)]
  obtain ⟨n, hn⟩ : ∃ n, 0x11 * 67108864 + d.toNat * 2097152 + a.toNat * 65536 + b.toNat * 2048 + (0x40 + h.toNat * 8) = n := ⟨_, rfl⟩
  rw [hn]
  rw [at_11 (by omega)]
  unfold decode11
  rw [show n / 32 % 64 = 2 by omega]
  rw [← show fD n = d from ofNat_field _ _ (by omega), ← show fA n = a from ofNat_field _ _ (by omega), ← show fB n = b from ofNat_field _ _ (by omega), ← show fld 3 2 n = h from ofNat_field _ _ (by omega)]
  exact if_pos (by omega)

theorem vshl (d : BitVec 5) (a : BitVec 5) (b : BitVec 5) (h : BitVec 2) : Statement (.vshl d a b h) := by
  refine of_word rfl ?_
  have h_d := d.isLt
  have h_a := a.isLt
  have h_b := b.isLt
  have h_h := h.isLt
  rw [rFmt_toNat _ _ _ _ _ (by omega)]
  obtain ⟨n, hn⟩ : ∃ n, 0x11 * 67108864 + d.toNat * 2097152 + a.toNat * 65536 + b.toNat * 2048 + (0x60 + h.toNat * 8) = n := ⟨_, rfl⟩
  rw [hn]
  rw [at_11 (by omega)]
  unfold decode11
  rw [show n / 32 % 64 = 3 by omega]
  rw [← show fD n = d from ofNat_field _ _ (by omega), ← show fA n = a from ofNat_field _ _ (by omega), ← show fB n = b from ofNat_field _ _ (by omega), ← show fld 3 2 n = h from ofNat_field _ _ (by omega)]
  exact if_pos (by omega)

theorem vshr (d : BitVec 5) (a : BitVec 5) (b : BitVec 5) (h : BitVec 2) : Statement (.vshr d a b h) := by
  refine of_word rfl ?_
  have h_d := d.isLt
  have h_a := a.isLt
  have h_b := b.isLt
  have h_h := h.isLt
  rw [rFmt_toNat _ _ _ _ _ (by omega)]
  obtain ⟨n, hn⟩ : ∃ n, 0x11 * 67108864 + d.toNat * 2097152 + a.toNat * 65536 + b.toNat * 2048 + (0x80 + h.toNat * 8) = n := ⟨_, rfl⟩
  rw [hn]
  rw [at_11 (by omega)]
  unfold decode11
  rw [show n / 32 % 64 = 4 by omega]
  rw [← show fD n = d from ofNat_field _ _ (by omega), ← show fA n = a from ofNat_field _ _ (by omega), ← show fB n = b from ofNat_field _ _ (by omega), ← show fld 3 2 n = h from ofNat_field _ _ (by omega)]
  exact if_pos (by omega)

theorem vsar (d : BitVec 5) (a : BitVec 5) (b : BitVec 5) (h : BitVec 2) : Statement (.vsar d a b h) := by
  refine of_word rfl ?_
  have h_d := d.isLt
  have h_a := a.isLt
  have h_b := b.isLt
  have h_h := h.isLt
  rw [rFmt_toNat _ _ _ _ _ (by omega)]
  obtain ⟨n, hn⟩ : ∃ n, 0x11 * 67108864 + d.toNat * 2097152 + a.toNat * 65536 + b.toNat * 2048 + (0xa0 + h.toNat * 8) = n := ⟨_, rfl⟩
  rw [hn]
  rw [at_11 (by omega)]
  unfold decode11
  rw [show n / 32 % 64 = 5 by omega]
  rw [← show fD n = d from ofNat_field _ _ (by omega), ← show fA n = a from ofNat_field _ _ (by omega), ← show fB n = b from ofNat_field _ _ (by omega), ← show fld 3 2 n = h from ofNat_field _ _ (by omega)]
  exact if_pos (by omega)

theorem vsadd (d : BitVec 5) (a : BitVec 5) (b : BitVec 5) (h : BitVec 2) : Statement (.vsadd d a b h) := by
  refine of_word rfl ?_
  have h_d := d.isLt
  have h_a := a.isLt
  have h_b := b.isLt
  have h_h := h.isLt
  rw [rFmt_toNat _ _ _ _ _ (by omega)]
  obtain ⟨n, hn⟩ : ∃ n, 0x11 * 67108864 + d.toNat * 2097152 + a.toNat * 65536 + b.toNat * 2048 + (0xc0 + h.toNat * 8) = n := ⟨_, rfl⟩
  rw [hn]
  rw [at_11 (by omega)]
  unfold decode11
  rw [show n / 32 % 64 = 6 by omega]
  rw [← show fD n = d from ofNat_field _ _ (by omega), ← show fA n = a from ofNat_field _ _ (by omega), ← show fB n = b from ofNat_field _ _ (by omega), ← show fld 3 2 n = h from ofNat_field _ _ (by omega)]
  exact if_pos (by omega)

theorem vsaddu (d : BitVec 5) (a : BitVec 5) (b : BitVec 5) (h : BitVec 2) : Statement (.vsaddu d a b h) := by
  refine of_word rfl ?_
  have h_d := d.isLt
  have h_a := a.isLt
  have h_b := b.isLt
  have h_h := h.isLt
  rw [rFmt_toNat _ _ _ _ _ (by omega)]
  obtain ⟨n, hn⟩ : ∃ n, 0x11 * 67108864 + d.toNat * 2097152 + a.toNat * 65536 + b.toNat * 2048 + (0xe0 + h.toNat * 8) = n := ⟨_, rfl⟩
  rw [hn]
  rw [at_11 (by omega)]
  unfold decode11
  rw [show n / 32 % 64 = 7 by omega]
  rw [← show fD n = d from ofNat_field _ _ (by omega), ← show fA n = a from ofNat_field _ _ (by omega), ← show fB n = b from ofNat_field _ _ (by omega), ← show fld 3 2 n = h from ofNat_field _ _ (by omega)]
  exact if_pos (by omega)

theorem vssub (d : BitVec 5) (a : BitVec 5) (b : BitVec 5) (h : BitVec 2) : Statement (.vssub d a b h) := by
  refine of_word rfl ?_
  have h_d := d.isLt
  have h_a := a.isLt
  have h_b := b.isLt
  have h_h := h.isLt
  rw [rFmt_toNat _ _ _ _ _ (by omega)]
  obtain ⟨n, hn⟩ : ∃ n, 0x11 * 67108864 + d.toNat * 2097152 + a.toNat * 65536 + b.toNat * 2048 + (0x100 + h.toNat * 8) = n := ⟨_, rfl⟩
  rw [hn]
  rw [at_11 (by omega)]
  unfold decode11
  rw [show n / 32 % 64 = 8 by omega]
  rw [← show fD n = d from ofNat_field _ _ (by omega), ← show fA n = a from ofNat_field _ _ (by omega), ← show fB n = b from ofNat_field _ _ (by omega), ← show fld 3 2 n = h from ofNat_field _ _ (by omega)]
  exact if_pos (by omega)

theorem vssubu (d : BitVec 5) (a : BitVec 5) (b : BitVec 5) (h : BitVec 2) : Statement (.vssubu d a b h) := by
  refine of_word rfl ?_
  have h_d := d.isLt
  have h_a := a.isLt
  have h_b := b.isLt
  have h_h := h.isLt
  rw [rFmt_toNat _ _ _ _ _ (by omega)]
  obtain ⟨n, hn⟩ : ∃ n, 0x11 * 67108864 + d.toNat * 2097152 + a.toNat * 65536 + b.toNat * 2048 + (0x120 + h.toNat * 8) = n := ⟨_, rfl⟩
  rw [hn]
  rw [at_11 (by omega)]
  unfold decode11
  rw [show n / 32 % 64 = 9 by omega]
  rw [← show fD n = d from ofNat_field _ _ (by omega), ← show fA n = a from ofNat_field _ _ (by omega), ← show fB n = b from ofNat_field _ _ (by omega), ← show fld 3 2 n = h from ofNat_field _ _ (by omega)]
  exact if_pos (by omega)

theorem vabs (d : BitVec 5) (a : BitVec 5) : Statement (.vabs d a) := by
  refine of_word rfl ?_
  have h_d := d.isLt
  have h_a := a.isLt
  rw [rFmt_toNat _ _ _ _ _ (by omega)]
  obtain ⟨n, hn⟩ : ∃ n, 0x11 * 67108864 + d.toNat * 2097152 + a.toNat * 65536 + 0 * 2048 + 0x140 = n := ⟨_, rfl⟩
  rw [hn]
  rw [at_11 (by omega)]
  unfold decode11
  rw [show n / 32 % 64 = 10 by omega]
  rw [← show fD n = d from ofNat_field _ _ (by omega), ← show fA n = a from ofNat_field _ _ (by omega)]
  exact if_pos (by omega)

theorem vclz (d : BitVec 5) (a : BitVec 5) : Statement (.vclz d a) := by
  refine of_word rfl ?_
  have h_d := d.isLt
  have h_a := a.isLt
  rw [rFmt_toNat _ _ _ _ _ (by omega)]
  obtain ⟨n, hn⟩ : ∃ n, 0x11 * 67108864 + d.toNat * 2097152 + a.toNat * 65536 + 0 * 2048 + 0x160 = n := ⟨_, rfl⟩
  rw [hn]
  rw [at_11 (by omega)]
  unfold decode11
  rw [show n / 32 % 64 = 11 by omega]
  rw [← show fD n = d from ofNat_field _ _ (by omega), ← show fA n = a from ofNat_field _ _ (by omega)]
  exact if_pos (by omega)

theorem vpopc (d : BitVec 5) (a : BitVec 5) : Statement (.vpopc d a) := by
  refine of_word rfl ?_
  have h_d := d.isLt
  have h_a := a.isLt
  rw [rFmt_toNat _ _ _ _ _ (by omega)]
  obtain ⟨n, hn⟩ : ∃ n, 0x11 * 67108864 + d.toNat * 2097152 + a.toNat * 65536 + 0 * 2048 + 0x180 = n := ⟨_, rfl⟩
  rw [hn]
  rw [at_11 (by omega)]
  unfold decode11
  rw [show n / 32 % 64 = 12 by omega]
  rw [← show fD n = d from ofNat_field _ _ (by omega), ← show fA n = a from ofNat_field _ _ (by omega)]
  exact if_pos (by omega)

theorem vcmp (d : BitVec 3) (a : BitVec 5) (b : BitVec 5) (h : BitVec 2) (c : BitVec 3) : Statement (.vcmp d a b h c) := by
  refine of_word rfl ?_
  have h_d := d.isLt
  have h_a := a.isLt
  have h_b := b.isLt
  have h_h := h.isLt
  have h_c := c.isLt
  rw [rFmt_toNat _ _ _ _ _ (by omega)]
  obtain ⟨n, hn⟩ : ∃ n, 0x12 * 67108864 + d.toNat * 2097152 + a.toNat * 65536 + b.toNat * 2048 + (h.toNat * 8 + c.toNat) = n := ⟨_, rfl⟩
  rw [hn]
  rw [at_12 (by omega)]
  unfold decode12
  rw [show n / 32 % 64 = 0 by omega]
  rw [← show pD n = d from ofNat_field _ _ (by omega), ← show fA n = a from ofNat_field _ _ (by omega), ← show fB n = b from ofNat_field _ _ (by omega), ← show fld 3 2 n = h from ofNat_field _ _ (by omega), ← show BitVec.ofNat 3 n = c from ofNat_field _ _ (by omega)]
  exact if_pos (by omega)

theorem vsel (d : BitVec 5) (a : BitVec 5) (b : BitVec 5) (h : BitVec 2) (p : BitVec 3) : Statement (.vsel d a b h p) := by
  refine of_word rfl ?_
  have h_d := d.isLt
  have h_a := a.isLt
  have h_b := b.isLt
  have h_h := h.isLt
  have h_p := p.isLt
  rw [rFmt_toNat _ _ _ _ _ (by omega)]
  obtain ⟨n, hn⟩ : ∃ n, 0x12 * 67108864 + d.toNat * 2097152 + a.toNat * 65536 + b.toNat * 2048 + (0x20 + h.toNat * 8 + p.toNat) = n := ⟨_, rfl⟩
  rw [hn]
  rw [at_12 (by omega)]
  unfold decode12
  rw [show n / 32 % 64 = 1 by omega]
  rw [← show fD n = d from ofNat_field _ _ (by omega), ← show fA n = a from ofNat_field _ _ (by omega), ← show fB n = b from ofNat_field _ _ (by omega), ← show fld 3 2 n = h from ofNat_field _ _ (by omega), ← show BitVec.ofNat 3 n = p from ofNat_field _ _ (by omega)]
  rfl

theorem vmv (d : BitVec 5) (b : BitVec 5) (h : BitVec 2) : Statement (.vmv d b h) := by
  refine of_word rfl ?_
  have h_d := d.isLt
  have h_b := b.isLt
  have h_h := h.isLt
  rw [rFmt_toNat _ _ _ _ _ (by omega)]
  obtain ⟨n, hn⟩ : ∃ n, 0x12 * 67108864 + d.toNat * 2097152 + 0 * 65536 + b.toNat * 2048 + (0x40 + h.toNat * 8) = n := ⟨_, rfl⟩
  rw [hn]
  rw [at_12 (by omega)]
  unfold decode12
  rw [show n / 32 % 64 = 2 by omega]
  rw [← show fD n = d from ofNat_field _ _ (by omega), ← show fB n = b from ofNat_field _ _ (by omega), ← show fld 3 2 n = h from ofNat_field _ _ (by omega)]
  exact if_pos (by omega)

theorem vid (d : BitVec 5) : Statement (.vid d) := by
  refine of_word rfl ?_
  have h_d := d.isLt
  rw [rFmt_toNat _ _ _ _ _ (by omega)]
  obtain ⟨n, hn⟩ : ∃ n, 0x12 * 67108864 + d.toNat * 2097152 + 0 * 65536 + 0 * 2048 + 0x60 = n := ⟨_, rfl⟩
  rw [hn]
  rw [at_12 (by omega)]
  unfold decode12
  rw [show n / 32 % 64 = 3 by omega]
  rw [← show fD n = d from ofNat_field _ _ (by omega)]
  exact if_pos (by omega)

theorem vext (d : BitVec 5) (a : BitVec 5) (b : BitVec 5) (h : BitVec 2) : Statement (.vext d a b h) := by
  refine of_word rfl ?_
  have h_d := d.isLt
  have h_a := a.isLt
  have h_b := b.isLt
  have h_h := h.isLt
  rw [rFmt_toNat _ _ _ _ _ (by omega)]
  obtain ⟨n, hn⟩ : ∃ n, 0x12 * 67108864 + d.toNat * 2097152 + a.toNat * 65536 + b.toNat * 2048 + (0x80 + h.toNat * 8) = n := ⟨_, rfl⟩
  rw [hn]
  rw [at_12 (by omega)]
  unfold decode12
  rw [show n / 32 % 64 = 4 by omega]
  rw [← show fD n = d from ofNat_field _ _ (by omega), ← show fA n = a from ofNat_field _ _ (by omega), ← show fB n = b from ofNat_field _ _ (by omega), ← show fld 3 2 n = h from ofNat_field _ _ (by omega)]
  exact if_pos (by omega)

theorem vins (d : BitVec 5) (a : BitVec 5) (b : BitVec 5) (h : BitVec 2) : Statement (.vins d a b h) := by
  refine of_word rfl ?_
  have h_d := d.isLt
  have h_a := a.isLt
  have h_b := b.isLt
  have h_h := h.isLt
  rw [rFmt_toNat _ _ _ _ _ (by omega)]
  obtain ⟨n, hn⟩ : ∃ n, 0x12 * 67108864 + d.toNat * 2097152 + a.toNat * 65536 + b.toNat * 2048 + (0xa0 + h.toNat * 8) = n := ⟨_, rfl⟩
  rw [hn]
  rw [at_12 (by omega)]
  unfold decode12
  rw [show n / 32 % 64 = 5 by omega]
  rw [← show fD n = d from ofNat_field _ _ (by omega), ← show fA n = a from ofNat_field _ _ (by omega), ← show fB n = b from ofNat_field _ _ (by omega), ← show fld 3 2 n = h from ofNat_field _ _ (by omega)]
  exact if_pos (by omega)

theorem vwiden (d : BitVec 5) (b : BitVec 5) (k : BitVec 3) : Statement (.vwiden d b k) := by
  refine of_word rfl ?_
  have h_d := d.isLt
  have h_b := b.isLt
  have h_k := k.isLt
  rw [rFmt_toNat _ _ _ _ _ (by omega)]
  obtain ⟨n, hn⟩ : ∃ n, 0x12 * 67108864 + d.toNat * 2097152 + 0 * 65536 + b.toNat * 2048 + (0xc0 + k.toNat) = n := ⟨_, rfl⟩
  rw [hn]
  rw [at_12 (by omega)]
  unfold decode12
  rw [show n / 32 % 64 = 6 by omega]
  rw [← show fD n = d from ofNat_field _ _ (by omega), ← show fB n = b from ofNat_field _ _ (by omega), ← show BitVec.ofNat 3 n = k from ofNat_field _ _ (by omega)]
  exact if_pos (by omega)

theorem vnshr (d : BitVec 5) (a : BitVec 5) (b : BitVec 5) (h : BitVec 2) (k : BitVec 3) : Statement (.vnshr d a b h k) := by
  refine of_word rfl ?_
  have h_d := d.isLt
  have h_a := a.isLt
  have h_b := b.isLt
  have h_h := h.isLt
  have h_k := k.isLt
  rw [rFmt_toNat _ _ _ _ _ (by omega)]
  obtain ⟨n, hn⟩ : ∃ n, 0x12 * 67108864 + d.toNat * 2097152 + a.toNat * 65536 + b.toNat * 2048 + (0xe0 + h.toNat * 8 + k.toNat) = n := ⟨_, rfl⟩
  rw [hn]
  rw [at_12 (by omega)]
  unfold decode12
  rw [show n / 32 % 64 = 7 by omega]
  rw [← show fD n = d from ofNat_field _ _ (by omega), ← show fA n = a from ofNat_field _ _ (by omega), ← show fB n = b from ofNat_field _ _ (by omega), ← show fld 3 2 n = h from ofNat_field _ _ (by omega), ← show BitVec.ofNat 3 n = k from ofNat_field _ _ (by omega)]
  rfl

theorem vfadd (d : BitVec 5) (a : BitVec 5) (b : BitVec 5) (h : BitVec 2) : Statement (.vfadd d a b h) := by
  refine of_word rfl ?_
  have h_d := d.isLt
  have h_a := a.isLt
  have h_b := b.isLt
  have h_h := h.isLt
  rw [rFmt_toNat _ _ _ _ _ (by omega)]
  obtain ⟨n, hn⟩ : ∃ n, 0x13 * 67108864 + d.toNat * 2097152 + a.toNat * 65536 + b.toNat * 2048 + (h.toNat * 8) = n := ⟨_, rfl⟩
  rw [hn]
  rw [at_13 (by omega)]
  unfold decode13
  rw [show n / 32 % 64 = 0 by omega]
  rw [← show fD n = d from ofNat_field _ _ (by omega), ← show fA n = a from ofNat_field _ _ (by omega), ← show fB n = b from ofNat_field _ _ (by omega), ← show fld 3 2 n = h from ofNat_field _ _ (by omega)]
  exact if_pos (by omega)

theorem vfsub (d : BitVec 5) (a : BitVec 5) (b : BitVec 5) (h : BitVec 2) : Statement (.vfsub d a b h) := by
  refine of_word rfl ?_
  have h_d := d.isLt
  have h_a := a.isLt
  have h_b := b.isLt
  have h_h := h.isLt
  rw [rFmt_toNat _ _ _ _ _ (by omega)]
  obtain ⟨n, hn⟩ : ∃ n, 0x13 * 67108864 + d.toNat * 2097152 + a.toNat * 65536 + b.toNat * 2048 + (0x20 + h.toNat * 8) = n := ⟨_, rfl⟩
  rw [hn]
  rw [at_13 (by omega)]
  unfold decode13
  rw [show n / 32 % 64 = 1 by omega]
  rw [← show fD n = d from ofNat_field _ _ (by omega), ← show fA n = a from ofNat_field _ _ (by omega), ← show fB n = b from ofNat_field _ _ (by omega), ← show fld 3 2 n = h from ofNat_field _ _ (by omega)]
  exact if_pos (by omega)

theorem vfmul (d : BitVec 5) (a : BitVec 5) (b : BitVec 5) (h : BitVec 2) : Statement (.vfmul d a b h) := by
  refine of_word rfl ?_
  have h_d := d.isLt
  have h_a := a.isLt
  have h_b := b.isLt
  have h_h := h.isLt
  rw [rFmt_toNat _ _ _ _ _ (by omega)]
  obtain ⟨n, hn⟩ : ∃ n, 0x13 * 67108864 + d.toNat * 2097152 + a.toNat * 65536 + b.toNat * 2048 + (0x40 + h.toNat * 8) = n := ⟨_, rfl⟩
  rw [hn]
  rw [at_13 (by omega)]
  unfold decode13
  rw [show n / 32 % 64 = 2 by omega]
  rw [← show fD n = d from ofNat_field _ _ (by omega), ← show fA n = a from ofNat_field _ _ (by omega), ← show fB n = b from ofNat_field _ _ (by omega), ← show fld 3 2 n = h from ofNat_field _ _ (by omega)]
  exact if_pos (by omega)

theorem vfma (d : BitVec 5) (a : BitVec 5) (b : BitVec 5) (h : BitVec 2) : Statement (.vfma d a b h) := by
  refine of_word rfl ?_
  have h_d := d.isLt
  have h_a := a.isLt
  have h_b := b.isLt
  have h_h := h.isLt
  rw [rFmt_toNat _ _ _ _ _ (by omega)]
  obtain ⟨n, hn⟩ : ∃ n, 0x13 * 67108864 + d.toNat * 2097152 + a.toNat * 65536 + b.toNat * 2048 + (0x60 + h.toNat * 8) = n := ⟨_, rfl⟩
  rw [hn]
  rw [at_13 (by omega)]
  unfold decode13
  rw [show n / 32 % 64 = 3 by omega]
  rw [← show fD n = d from ofNat_field _ _ (by omega), ← show fA n = a from ofNat_field _ _ (by omega), ← show fB n = b from ofNat_field _ _ (by omega), ← show fld 3 2 n = h from ofNat_field _ _ (by omega)]
  exact if_pos (by omega)

theorem vfnma (d : BitVec 5) (a : BitVec 5) (b : BitVec 5) (h : BitVec 2) : Statement (.vfnma d a b h) := by
  refine of_word rfl ?_
  have h_d := d.isLt
  have h_a := a.isLt
  have h_b := b.isLt
  have h_h := h.isLt
  rw [rFmt_toNat _ _ _ _ _ (by omega)]
  obtain ⟨n, hn⟩ : ∃ n, 0x13 * 67108864 + d.toNat * 2097152 + a.toNat * 65536 + b.toNat * 2048 + (0x80 + h.toNat * 8) = n := ⟨_, rfl⟩
  rw [hn]
  rw [at_13 (by omega)]
  unfold decode13
  rw [show n / 32 % 64 = 4 by omega]
  rw [← show fD n = d from ofNat_field _ _ (by omega), ← show fA n = a from ofNat_field _ _ (by omega), ← show fB n = b from ofNat_field _ _ (by omega), ← show fld 3 2 n = h from ofNat_field _ _ (by omega)]
  exact if_pos (by omega)

theorem vfms (d : BitVec 5) (a : BitVec 5) (b : BitVec 5) (h : BitVec 2) : Statement (.vfms d a b h) := by
  refine of_word rfl ?_
  have h_d := d.isLt
  have h_a := a.isLt
  have h_b := b.isLt
  have h_h := h.isLt
  rw [rFmt_toNat _ _ _ _ _ (by omega)]
  obtain ⟨n, hn⟩ : ∃ n, 0x13 * 67108864 + d.toNat * 2097152 + a.toNat * 65536 + b.toNat * 2048 + (0xa0 + h.toNat * 8) = n := ⟨_, rfl⟩
  rw [hn]
  rw [at_13 (by omega)]
  unfold decode13
  rw [show n / 32 % 64 = 5 by omega]
  rw [← show fD n = d from ofNat_field _ _ (by omega), ← show fA n = a from ofNat_field _ _ (by omega), ← show fB n = b from ofNat_field _ _ (by omega), ← show fld 3 2 n = h from ofNat_field _ _ (by omega)]
  exact if_pos (by omega)

theorem vfdiv (d : BitVec 5) (a : BitVec 5) (b : BitVec 5) (h : BitVec 2) : Statement (.vfdiv d a b h) := by
  refine of_word rfl ?_
  have h_d := d.isLt
  have h_a := a.isLt
  have h_b := b.isLt
  have h_h := h.isLt
  rw [rFmt_toNat _ _ _ _ _ (by omega)]
  obtain ⟨n, hn⟩ : ∃ n, 0x13 * 67108864 + d.toNat * 2097152 + a.toNat * 65536 + b.toNat * 2048 + (0xc0 + h.toNat * 8) = n := ⟨_, rfl⟩
  rw [hn]
  rw [at_13 (by omega)]
  unfold decode13
  rw [show n / 32 % 64 = 6 by omega]
  rw [← show fD n = d from ofNat_field _ _ (by omega), ← show fA n = a from ofNat_field _ _ (by omega), ← show fB n = b from ofNat_field _ _ (by omega), ← show fld 3 2 n = h from ofNat_field _ _ (by omega)]
  exact if_pos (by omega)

theorem vfsqrt (d : BitVec 5) (a : BitVec 5) : Statement (.vfsqrt d a) := by
  refine of_word rfl ?_
  have h_d := d.isLt
  have h_a := a.isLt
  rw [rFmt_toNat _ _ _ _ _ (by omega)]
  obtain ⟨n, hn⟩ : ∃ n, 0x13 * 67108864 + d.toNat * 2097152 + a.toNat * 65536 + 0 * 2048 + 0xe0 = n := ⟨_, rfl⟩
  rw [hn]
  rw [at_13 (by omega)]
  unfold decode13
  rw [show n / 32 % 64 = 7 by omega]
  rw [← show fD n = d from ofNat_field _ _ (by omega), ← show fA n = a from ofNat_field _ _ (by omega)]
  exact if_pos (by omega)

theorem vfmin (d : BitVec 5) (a : BitVec 5) (b : BitVec 5) (h : BitVec 2) : Statement (.vfmin d a b h) := by
  refine of_word rfl ?_
  have h_d := d.isLt
  have h_a := a.isLt
  have h_b := b.isLt
  have h_h := h.isLt
  rw [rFmt_toNat _ _ _ _ _ (by omega)]
  obtain ⟨n, hn⟩ : ∃ n, 0x13 * 67108864 + d.toNat * 2097152 + a.toNat * 65536 + b.toNat * 2048 + (0x100 + h.toNat * 8) = n := ⟨_, rfl⟩
  rw [hn]
  rw [at_13 (by omega)]
  unfold decode13
  rw [show n / 32 % 64 = 8 by omega]
  rw [← show fD n = d from ofNat_field _ _ (by omega), ← show fA n = a from ofNat_field _ _ (by omega), ← show fB n = b from ofNat_field _ _ (by omega), ← show fld 3 2 n = h from ofNat_field _ _ (by omega)]
  exact if_pos (by omega)

theorem vfmax (d : BitVec 5) (a : BitVec 5) (b : BitVec 5) (h : BitVec 2) : Statement (.vfmax d a b h) := by
  refine of_word rfl ?_
  have h_d := d.isLt
  have h_a := a.isLt
  have h_b := b.isLt
  have h_h := h.isLt
  rw [rFmt_toNat _ _ _ _ _ (by omega)]
  obtain ⟨n, hn⟩ : ∃ n, 0x13 * 67108864 + d.toNat * 2097152 + a.toNat * 65536 + b.toNat * 2048 + (0x120 + h.toNat * 8) = n := ⟨_, rfl⟩
  rw [hn]
  rw [at_13 (by omega)]
  unfold decode13
  rw [show n / 32 % 64 = 9 by omega]
  rw [← show fD n = d from ofNat_field _ _ (by omega), ← show fA n = a from ofNat_field _ _ (by omega), ← show fB n = b from ofNat_field _ _ (by omega), ← show fld 3 2 n = h from ofNat_field _ _ (by omega)]
  exact if_pos (by omega)

theorem vfsgn (d : BitVec 5) (a : BitVec 5) (b : BitVec 5) (h : BitVec 2) (k : BitVec 3) : Statement (.vfsgn d a b h k) := by
  refine of_word rfl ?_
  have h_d := d.isLt
  have h_a := a.isLt
  have h_b := b.isLt
  have h_h := h.isLt
  have h_k := k.isLt
  rw [rFmt_toNat _ _ _ _ _ (by omega)]
  obtain ⟨n, hn⟩ : ∃ n, 0x13 * 67108864 + d.toNat * 2097152 + a.toNat * 65536 + b.toNat * 2048 + (0x140 + h.toNat * 8 + k.toNat) = n := ⟨_, rfl⟩
  rw [hn]
  rw [at_13 (by omega)]
  unfold decode13
  rw [show n / 32 % 64 = 10 by omega]
  rw [← show fD n = d from ofNat_field _ _ (by omega), ← show fA n = a from ofNat_field _ _ (by omega), ← show fB n = b from ofNat_field _ _ (by omega), ← show fld 3 2 n = h from ofNat_field _ _ (by omega), ← show BitVec.ofNat 3 n = k from ofNat_field _ _ (by omega)]
  rfl

theorem vfrcp (d : BitVec 5) (a : BitVec 5) : Statement (.vfrcp d a) := by
  refine of_word rfl ?_
  have h_d := d.isLt
  have h_a := a.isLt
  rw [rFmt_toNat _ _ _ _ _ (by omega)]
  obtain ⟨n, hn⟩ : ∃ n, 0x14 * 67108864 + d.toNat * 2097152 + a.toNat * 65536 + 0 * 2048 + 0 = n := ⟨_, rfl⟩
  rw [hn]
  rw [at_14 (by omega)]
  unfold decode14
  rw [show n / 32 % 64 = 0 by omega]
  rw [← show fD n = d from ofNat_field _ _ (by omega), ← show fA n = a from ofNat_field _ _ (by omega)]
  exact if_pos (by omega)

theorem vfrsq (d : BitVec 5) (a : BitVec 5) : Statement (.vfrsq d a) := by
  refine of_word rfl ?_
  have h_d := d.isLt
  have h_a := a.isLt
  rw [rFmt_toNat _ _ _ _ _ (by omega)]
  obtain ⟨n, hn⟩ : ∃ n, 0x14 * 67108864 + d.toNat * 2097152 + a.toNat * 65536 + 0 * 2048 + 0x20 = n := ⟨_, rfl⟩
  rw [hn]
  rw [at_14 (by omega)]
  unfold decode14
  rw [show n / 32 % 64 = 1 by omega]
  rw [← show fD n = d from ofNat_field _ _ (by omega), ← show fA n = a from ofNat_field _ _ (by omega)]
  exact if_pos (by omega)

theorem vfexp2 (d : BitVec 5) (a : BitVec 5) : Statement (.vfexp2 d a) := by
  refine of_word rfl ?_
  have h_d := d.isLt
  have h_a := a.isLt
  rw [rFmt_toNat _ _ _ _ _ (by omega)]
  obtain ⟨n, hn⟩ : ∃ n, 0x14 * 67108864 + d.toNat * 2097152 + a.toNat * 65536 + 0 * 2048 + 0x40 = n := ⟨_, rfl⟩
  rw [hn]
  rw [at_14 (by omega)]
  unfold decode14
  rw [show n / 32 % 64 = 2 by omega]
  rw [← show fD n = d from ofNat_field _ _ (by omega), ← show fA n = a from ofNat_field _ _ (by omega)]
  exact if_pos (by omega)

theorem vflog2 (d : BitVec 5) (a : BitVec 5) : Statement (.vflog2 d a) := by
  refine of_word rfl ?_
  have h_d := d.isLt
  have h_a := a.isLt
  rw [rFmt_toNat _ _ _ _ _ (by omega)]
  obtain ⟨n, hn⟩ : ∃ n, 0x14 * 67108864 + d.toNat * 2097152 + a.toNat * 65536 + 0 * 2048 + 0x60 = n := ⟨_, rfl⟩
  rw [hn]
  rw [at_14 (by omega)]
  unfold decode14
  rw [show n / 32 % 64 = 3 by omega]
  rw [← show fD n = d from ofNat_field _ _ (by omega), ← show fA n = a from ofNat_field _ _ (by omega)]
  exact if_pos (by omega)

theorem vfcvt (d : BitVec 5) (a : BitVec 5) (k : BitVec 3) : Statement (.vfcvt d a k) := by
  refine of_word rfl ?_
  have h_d := d.isLt
  have h_a := a.isLt
  have h_k := k.isLt
  rw [rFmt_toNat _ _ _ _ _ (by omega)]
  obtain ⟨n, hn⟩ : ∃ n, 0x14 * 67108864 + d.toNat * 2097152 + a.toNat * 65536 + 0 * 2048 + (0x80 + k.toNat) = n := ⟨_, rfl⟩
  rw [hn]
  rw [at_14 (by omega)]
  unfold decode14
  rw [show n / 32 % 64 = 4 by omega]
  rw [← show fD n = d from ofNat_field _ _ (by omega), ← show fA n = a from ofNat_field _ _ (by omega), ← show BitVec.ofNat 3 n = k from ofNat_field _ _ (by omega)]
  exact if_pos (by omega)

theorem vfclass (d : BitVec 5) (a : BitVec 5) : Statement (.vfclass d a) := by
  refine of_word rfl ?_
  have h_d := d.isLt
  have h_a := a.isLt
  rw [rFmt_toNat _ _ _ _ _ (by omega)]
  obtain ⟨n, hn⟩ : ∃ n, 0x14 * 67108864 + d.toNat * 2097152 + a.toNat * 65536 + 0 * 2048 + 0xa0 = n := ⟨_, rfl⟩
  rw [hn]
  rw [at_14 (by omega)]
  unfold decode14
  rw [show n / 32 % 64 = 5 by omega]
  rw [← show fD n = d from ofNat_field _ _ (by omega), ← show fA n = a from ofNat_field _ _ (by omega)]
  exact if_pos (by omega)

theorem vfcmp (d : BitVec 3) (a : BitVec 5) (b : BitVec 5) (h : BitVec 2) (c : BitVec 3) : Statement (.vfcmp d a b h c) := by
  refine of_word rfl ?_
  have h_d := d.isLt
  have h_a := a.isLt
  have h_b := b.isLt
  have h_h := h.isLt
  have h_c := c.isLt
  rw [rFmt_toNat _ _ _ _ _ (by omega)]
  obtain ⟨n, hn⟩ : ∃ n, 0x14 * 67108864 + d.toNat * 2097152 + a.toNat * 65536 + b.toNat * 2048 + (0xc0 + h.toNat * 8 + c.toNat) = n := ⟨_, rfl⟩
  rw [hn]
  rw [at_14 (by omega)]
  unfold decode14
  rw [show n / 32 % 64 = 6 by omega]
  rw [← show pD n = d from ofNat_field _ _ (by omega), ← show fA n = a from ofNat_field _ _ (by omega), ← show fB n = b from ofNat_field _ _ (by omega), ← show fld 3 2 n = h from ofNat_field _ _ (by omega), ← show BitVec.ofNat 3 n = c from ofNat_field _ _ (by omega)]
  exact if_pos (by omega)

theorem vmulm (d : BitVec 5) (a : BitVec 5) (b : BitVec 5) (h : BitVec 2) (k : BitVec 3) : Statement (.vmulm d a b h k) := by
  refine of_word rfl ?_
  have h_d := d.isLt
  have h_a := a.isLt
  have h_b := b.isLt
  have h_h := h.isLt
  have h_k := k.isLt
  rw [rFmt_toNat _ _ _ _ _ (by omega)]
  obtain ⟨n, hn⟩ : ∃ n, 0x15 * 67108864 + d.toNat * 2097152 + a.toNat * 65536 + b.toNat * 2048 + (h.toNat * 8 + k.toNat) = n := ⟨_, rfl⟩
  rw [hn]
  rw [at_15 (by omega)]
  unfold decode15
  rw [show n / 32 % 64 = 0 by omega]
  rw [← show fD n = d from ofNat_field _ _ (by omega), ← show fA n = a from ofNat_field _ _ (by omega), ← show fB n = b from ofNat_field _ _ (by omega), ← show fld 3 2 n = h from ofNat_field _ _ (by omega), ← show BitVec.ofNat 3 n = k from ofNat_field _ _ (by omega)]
  rfl

theorem vfmam (d : BitVec 5) (a : BitVec 5) (b : BitVec 5) (h : BitVec 2) : Statement (.vfmam d a b h) := by
  refine of_word rfl ?_
  have h_d := d.isLt
  have h_a := a.isLt
  have h_b := b.isLt
  have h_h := h.isLt
  rw [rFmt_toNat _ _ _ _ _ (by omega)]
  obtain ⟨n, hn⟩ : ∃ n, 0x15 * 67108864 + d.toNat * 2097152 + a.toNat * 65536 + b.toNat * 2048 + (0x20 + h.toNat * 8) = n := ⟨_, rfl⟩
  rw [hn]
  rw [at_15 (by omega)]
  unfold decode15
  rw [show n / 32 % 64 = 1 by omega]
  rw [← show fD n = d from ofNat_field _ _ (by omega), ← show fA n = a from ofNat_field _ _ (by omega), ← show fB n = b from ofNat_field _ _ (by omega), ← show fld 3 2 n = h from ofNat_field _ _ (by omega)]
  exact if_pos (by omega)

theorem vredsum (d : BitVec 5) (a : BitVec 5) (b : BitVec 5) (h : BitVec 1) : Statement (.vredsum d a b h) := by
  refine of_word rfl ?_
  have h_d := d.isLt
  have h_a := a.isLt
  have h_b := b.isLt
  have h_h := h.isLt
  rw [rFmt_toNat _ _ _ _ _ (by omega)]
  obtain ⟨n, hn⟩ : ∃ n, 0x16 * 67108864 + d.toNat * 2097152 + a.toNat * 65536 + b.toNat * 2048 + (h.toNat * 8) = n := ⟨_, rfl⟩
  rw [hn]
  rw [at_16 (by omega)]
  unfold decode16
  rw [show n / 32 % 64 = 0 by omega]
  rw [← show fD n = d from ofNat_field _ _ (by omega), ← show fA n = a from ofNat_field _ _ (by omega), ← show fB n = b from ofNat_field _ _ (by omega), ← show fld 3 1 n = h from ofNat_field _ _ (by omega)]
  exact if_pos (by omega)

theorem vredmin (d : BitVec 5) (a : BitVec 5) (b : BitVec 5) (h : BitVec 1) : Statement (.vredmin d a b h) := by
  refine of_word rfl ?_
  have h_d := d.isLt
  have h_a := a.isLt
  have h_b := b.isLt
  have h_h := h.isLt
  rw [rFmt_toNat _ _ _ _ _ (by omega)]
  obtain ⟨n, hn⟩ : ∃ n, 0x16 * 67108864 + d.toNat * 2097152 + a.toNat * 65536 + b.toNat * 2048 + (0x20 + h.toNat * 8) = n := ⟨_, rfl⟩
  rw [hn]
  rw [at_16 (by omega)]
  unfold decode16
  rw [show n / 32 % 64 = 1 by omega]
  rw [← show fD n = d from ofNat_field _ _ (by omega), ← show fA n = a from ofNat_field _ _ (by omega), ← show fB n = b from ofNat_field _ _ (by omega), ← show fld 3 1 n = h from ofNat_field _ _ (by omega)]
  exact if_pos (by omega)

theorem vredmax (d : BitVec 5) (a : BitVec 5) (b : BitVec 5) (h : BitVec 1) : Statement (.vredmax d a b h) := by
  refine of_word rfl ?_
  have h_d := d.isLt
  have h_a := a.isLt
  have h_b := b.isLt
  have h_h := h.isLt
  rw [rFmt_toNat _ _ _ _ _ (by omega)]
  obtain ⟨n, hn⟩ : ∃ n, 0x16 * 67108864 + d.toNat * 2097152 + a.toNat * 65536 + b.toNat * 2048 + (0x40 + h.toNat * 8) = n := ⟨_, rfl⟩
  rw [hn]
  rw [at_16 (by omega)]
  unfold decode16
  rw [show n / 32 % 64 = 2 by omega]
  rw [← show fD n = d from ofNat_field _ _ (by omega), ← show fA n = a from ofNat_field _ _ (by omega), ← show fB n = b from ofNat_field _ _ (by omega), ← show fld 3 1 n = h from ofNat_field _ _ (by omega)]
  exact if_pos (by omega)

theorem vredminu (d : BitVec 5) (a : BitVec 5) (b : BitVec 5) (h : BitVec 1) : Statement (.vredminu d a b h) := by
  refine of_word rfl ?_
  have h_d := d.isLt
  have h_a := a.isLt
  have h_b := b.isLt
  have h_h := h.isLt
  rw [rFmt_toNat _ _ _ _ _ (by omega)]
  obtain ⟨n, hn⟩ : ∃ n, 0x16 * 67108864 + d.toNat * 2097152 + a.toNat * 65536 + b.toNat * 2048 + (0x60 + h.toNat * 8) = n := ⟨_, rfl⟩
  rw [hn]
  rw [at_16 (by omega)]
  unfold decode16
  rw [show n / 32 % 64 = 3 by omega]
  rw [← show fD n = d from ofNat_field _ _ (by omega), ← show fA n = a from ofNat_field _ _ (by omega), ← show fB n = b from ofNat_field _ _ (by omega), ← show fld 3 1 n = h from ofNat_field _ _ (by omega)]
  exact if_pos (by omega)

theorem vredmaxu (d : BitVec 5) (a : BitVec 5) (b : BitVec 5) (h : BitVec 1) : Statement (.vredmaxu d a b h) := by
  refine of_word rfl ?_
  have h_d := d.isLt
  have h_a := a.isLt
  have h_b := b.isLt
  have h_h := h.isLt
  rw [rFmt_toNat _ _ _ _ _ (by omega)]
  obtain ⟨n, hn⟩ : ∃ n, 0x16 * 67108864 + d.toNat * 2097152 + a.toNat * 65536 + b.toNat * 2048 + (0x80 + h.toNat * 8) = n := ⟨_, rfl⟩
  rw [hn]
  rw [at_16 (by omega)]
  unfold decode16
  rw [show n / 32 % 64 = 4 by omega]
  rw [← show fD n = d from ofNat_field _ _ (by omega), ← show fA n = a from ofNat_field _ _ (by omega), ← show fB n = b from ofNat_field _ _ (by omega), ← show fld 3 1 n = h from ofNat_field _ _ (by omega)]
  exact if_pos (by omega)

theorem vredand (d : BitVec 5) (a : BitVec 5) (b : BitVec 5) (h : BitVec 1) : Statement (.vredand d a b h) := by
  refine of_word rfl ?_
  have h_d := d.isLt
  have h_a := a.isLt
  have h_b := b.isLt
  have h_h := h.isLt
  rw [rFmt_toNat _ _ _ _ _ (by omega)]
  obtain ⟨n, hn⟩ : ∃ n, 0x16 * 67108864 + d.toNat * 2097152 + a.toNat * 65536 + b.toNat * 2048 + (0xa0 + h.toNat * 8) = n := ⟨_, rfl⟩
  rw [hn]
  rw [at_16 (by omega)]
  unfold decode16
  rw [show n / 32 % 64 = 5 by omega]
  rw [← show fD n = d from ofNat_field _ _ (by omega), ← show fA n = a from ofNat_field _ _ (by omega), ← show fB n = b from ofNat_field _ _ (by omega), ← show fld 3 1 n = h from ofNat_field _ _ (by omega)]
  exact if_pos (by omega)

theorem vredor (d : BitVec 5) (a : BitVec 5) (b : BitVec 5) (h : BitVec 1) : Statement (.vredor d a b h) := by
  refine of_word rfl ?_
  have h_d := d.isLt
  have h_a := a.isLt
  have h_b := b.isLt
  have h_h := h.isLt
  rw [rFmt_toNat _ _ _ _ _ (by omega)]
  obtain ⟨n, hn⟩ : ∃ n, 0x16 * 67108864 + d.toNat * 2097152 + a.toNat * 65536 + b.toNat * 2048 + (0xc0 + h.toNat * 8) = n := ⟨_, rfl⟩
  rw [hn]
  rw [at_16 (by omega)]
  unfold decode16
  rw [show n / 32 % 64 = 6 by omega]
  rw [← show fD n = d from ofNat_field _ _ (by omega), ← show fA n = a from ofNat_field _ _ (by omega), ← show fB n = b from ofNat_field _ _ (by omega), ← show fld 3 1 n = h from ofNat_field _ _ (by omega)]
  exact if_pos (by omega)

theorem vredxor (d : BitVec 5) (a : BitVec 5) (b : BitVec 5) (h : BitVec 1) : Statement (.vredxor d a b h) := by
  refine of_word rfl ?_
  have h_d := d.isLt
  have h_a := a.isLt
  have h_b := b.isLt
  have h_h := h.isLt
  rw [rFmt_toNat _ _ _ _ _ (by omega)]
  obtain ⟨n, hn⟩ : ∃ n, 0x16 * 67108864 + d.toNat * 2097152 + a.toNat * 65536 + b.toNat * 2048 + (0xe0 + h.toNat * 8) = n := ⟨_, rfl⟩
  rw [hn]
  rw [at_16 (by omega)]
  unfold decode16
  rw [show n / 32 % 64 = 7 by omega]
  rw [← show fD n = d from ofNat_field _ _ (by omega), ← show fA n = a from ofNat_field _ _ (by omega), ← show fB n = b from ofNat_field _ _ (by omega), ← show fld 3 1 n = h from ofNat_field _ _ (by omega)]
  exact if_pos (by omega)

theorem vfredsum (d : BitVec 5) (a : BitVec 5) (b : BitVec 5) (h : BitVec 1) : Statement (.vfredsum d a b h) := by
  refine of_word rfl ?_
  have h_d := d.isLt
  have h_a := a.isLt
  have h_b := b.isLt
  have h_h := h.isLt
  rw [rFmt_toNat _ _ _ _ _ (by omega)]
  obtain ⟨n, hn⟩ : ∃ n, 0x16 * 67108864 + d.toNat * 2097152 + a.toNat * 65536 + b.toNat * 2048 + (0x100 + h.toNat * 8) = n := ⟨_, rfl⟩
  rw [hn]
  rw [at_16 (by omega)]
  unfold decode16
  rw [show n / 32 % 64 = 8 by omega]
  rw [← show fD n = d from ofNat_field _ _ (by omega), ← show fA n = a from ofNat_field _ _ (by omega), ← show fB n = b from ofNat_field _ _ (by omega), ← show fld 3 1 n = h from ofNat_field _ _ (by omega)]
  exact if_pos (by omega)

theorem vfredmin (d : BitVec 5) (a : BitVec 5) (b : BitVec 5) (h : BitVec 1) : Statement (.vfredmin d a b h) := by
  refine of_word rfl ?_
  have h_d := d.isLt
  have h_a := a.isLt
  have h_b := b.isLt
  have h_h := h.isLt
  rw [rFmt_toNat _ _ _ _ _ (by omega)]
  obtain ⟨n, hn⟩ : ∃ n, 0x16 * 67108864 + d.toNat * 2097152 + a.toNat * 65536 + b.toNat * 2048 + (0x120 + h.toNat * 8) = n := ⟨_, rfl⟩
  rw [hn]
  rw [at_16 (by omega)]
  unfold decode16
  rw [show n / 32 % 64 = 9 by omega]
  rw [← show fD n = d from ofNat_field _ _ (by omega), ← show fA n = a from ofNat_field _ _ (by omega), ← show fB n = b from ofNat_field _ _ (by omega), ← show fld 3 1 n = h from ofNat_field _ _ (by omega)]
  exact if_pos (by omega)

theorem vfredmax (d : BitVec 5) (a : BitVec 5) (b : BitVec 5) (h : BitVec 1) : Statement (.vfredmax d a b h) := by
  refine of_word rfl ?_
  have h_d := d.isLt
  have h_a := a.isLt
  have h_b := b.isLt
  have h_h := h.isLt
  rw [rFmt_toNat _ _ _ _ _ (by omega)]
  obtain ⟨n, hn⟩ : ∃ n, 0x16 * 67108864 + d.toNat * 2097152 + a.toNat * 65536 + b.toNat * 2048 + (0x140 + h.toNat * 8) = n := ⟨_, rfl⟩
  rw [hn]
  rw [at_16 (by omega)]
  unfold decode16
  rw [show n / 32 % 64 = 10 by omega]
  rw [← show fD n = d from ofNat_field _ _ (by omega), ← show fA n = a from ofNat_field _ _ (by omega), ← show fB n = b from ofNat_field _ _ (by omega), ← show fld 3 1 n = h from ofNat_field _ _ (by omega)]
  exact if_pos (by omega)

theorem vslideup (d : BitVec 5) (a : BitVec 5) (b : BitVec 5) (h : BitVec 2) : Statement (.vslideup d a b h) := by
  refine of_word rfl ?_
  have h_d := d.isLt
  have h_a := a.isLt
  have h_b := b.isLt
  have h_h := h.isLt
  rw [rFmt_toNat _ _ _ _ _ (by omega)]
  obtain ⟨n, hn⟩ : ∃ n, 0x17 * 67108864 + d.toNat * 2097152 + a.toNat * 65536 + b.toNat * 2048 + (h.toNat * 8) = n := ⟨_, rfl⟩
  rw [hn]
  rw [at_17 (by omega)]
  unfold decode17
  rw [show n / 32 % 64 = 0 by omega]
  rw [← show fD n = d from ofNat_field _ _ (by omega), ← show fA n = a from ofNat_field _ _ (by omega), ← show fB n = b from ofNat_field _ _ (by omega), ← show fld 3 2 n = h from ofNat_field _ _ (by omega)]
  exact if_pos (by omega)

theorem vslidedn (d : BitVec 5) (a : BitVec 5) (b : BitVec 5) (h : BitVec 2) : Statement (.vslidedn d a b h) := by
  refine of_word rfl ?_
  have h_d := d.isLt
  have h_a := a.isLt
  have h_b := b.isLt
  have h_h := h.isLt
  rw [rFmt_toNat _ _ _ _ _ (by omega)]
  obtain ⟨n, hn⟩ : ∃ n, 0x17 * 67108864 + d.toNat * 2097152 + a.toNat * 65536 + b.toNat * 2048 + (0x20 + h.toNat * 8) = n := ⟨_, rfl⟩
  rw [hn]
  rw [at_17 (by omega)]
  unfold decode17
  rw [show n / 32 % 64 = 1 by omega]
  rw [← show fD n = d from ofNat_field _ _ (by omega), ← show fA n = a from ofNat_field _ _ (by omega), ← show fB n = b from ofNat_field _ _ (by omega), ← show fld 3 2 n = h from ofNat_field _ _ (by omega)]
  exact if_pos (by omega)

theorem vperm (d : BitVec 5) (a : BitVec 5) (b : BitVec 5) : Statement (.vperm d a b) := by
  refine of_word rfl ?_
  have h_d := d.isLt
  have h_a := a.isLt
  have h_b := b.isLt
  rw [rFmt_toNat _ _ _ _ _ (by omega)]
  obtain ⟨n, hn⟩ : ∃ n, 0x17 * 67108864 + d.toNat * 2097152 + a.toNat * 65536 + b.toNat * 2048 + 0x40 = n := ⟨_, rfl⟩
  rw [hn]
  rw [at_17 (by omega)]
  unfold decode17
  rw [show n / 32 % 64 = 2 by omega]
  rw [← show fD n = d from ofNat_field _ _ (by omega), ← show fA n = a from ofNat_field _ _ (by omega), ← show fB n = b from ofNat_field _ _ (by omega)]
  exact if_pos (by omega)

theorem vcompress (d : BitVec 5) (a : BitVec 5) : Statement (.vcompress d a) := by
  refine of_word rfl ?_
  have h_d := d.isLt
  have h_a := a.isLt
  rw [rFmt_toNat _ _ _ _ _ (by omega)]
  obtain ⟨n, hn⟩ : ∃ n, 0x17 * 67108864 + d.toNat * 2097152 + a.toNat * 65536 + 0 * 2048 + 0x60 = n := ⟨_, rfl⟩
  rw [hn]
  rw [at_17 (by omega)]
  unfold decode17
  rw [show n / 32 % 64 = 3 by omega]
  rw [← show fD n = d from ofNat_field _ _ (by omega), ← show fA n = a from ofNat_field _ _ (by omega)]
  exact if_pos (by omega)

theorem vexpand (d : BitVec 5) (a : BitVec 5) : Statement (.vexpand d a) := by
  refine of_word rfl ?_
  have h_d := d.isLt
  have h_a := a.isLt
  rw [rFmt_toNat _ _ _ _ _ (by omega)]
  obtain ⟨n, hn⟩ : ∃ n, 0x17 * 67108864 + d.toNat * 2097152 + a.toNat * 65536 + 0 * 2048 + 0x80 = n := ⟨_, rfl⟩
  rw [hn]
  rw [at_17 (by omega)]
  unfold decode17
  rw [show n / 32 % 64 = 4 by omega]
  rw [← show fD n = d from ofNat_field _ _ (by omega), ← show fA n = a from ofNat_field _ _ (by omega)]
  exact if_pos (by omega)

theorem vscan (d : BitVec 5) (a : BitVec 5) (k : BitVec 1) : Statement (.vscan d a k) := by
  refine of_word rfl ?_
  have h_d := d.isLt
  have h_a := a.isLt
  have h_k := k.isLt
  rw [rFmt_toNat _ _ _ _ _ (by omega)]
  obtain ⟨n, hn⟩ : ∃ n, 0x17 * 67108864 + d.toNat * 2097152 + a.toNat * 65536 + 0 * 2048 + (0xa0 + k.toNat) = n := ⟨_, rfl⟩
  rw [hn]
  rw [at_17 (by omega)]
  unfold decode17
  rw [show n / 32 % 64 = 5 by omega]
  rw [← show fD n = d from ofNat_field _ _ (by omega), ← show fA n = a from ofNat_field _ _ (by omega), ← show BitVec.ofNat 1 n = k from ofNat_field _ _ (by omega)]
  exact if_pos (by omega)

theorem vtopk (d : BitVec 5) (a : BitVec 5) (b : BitVec 5) (k : BitVec 1) : Statement (.vtopk d a b k) := by
  refine of_word rfl ?_
  have h_d := d.isLt
  have h_a := a.isLt
  have h_b := b.isLt
  have h_k := k.isLt
  rw [rFmt_toNat _ _ _ _ _ (by omega)]
  obtain ⟨n, hn⟩ : ∃ n, 0x17 * 67108864 + d.toNat * 2097152 + a.toNat * 65536 + b.toNat * 2048 + (0xc8 + k.toNat) = n := ⟨_, rfl⟩
  rw [hn]
  rw [at_17 (by omega)]
  unfold decode17
  rw [show n / 32 % 64 = 6 by omega]
  rw [← show fD n = d from ofNat_field _ _ (by omega), ← show fA n = a from ofNat_field _ _ (by omega), ← show fB n = b from ofNat_field _ _ (by omega), ← show BitVec.ofNat 1 n = k from ofNat_field _ _ (by omega)]
  exact if_pos (by omega)

theorem pand (d : BitVec 3) (a : BitVec 3) (b : BitVec 3) : Statement (.pand d a b) := by
  refine of_word rfl ?_
  have h_d := d.isLt
  have h_a := a.isLt
  have h_b := b.isLt
  rw [rFmt_toNat _ _ _ _ _ (by omega)]
  obtain ⟨n, hn⟩ : ∃ n, 0x18 * 67108864 + d.toNat * 2097152 + a.toNat * 65536 + b.toNat * 2048 + 0 = n := ⟨_, rfl⟩
  rw [hn]
  rw [at_18 (by omega)]
  unfold decode18
  rw [show n / 32 % 64 = 0 by omega]
  rw [← show pD n = d from ofNat_field _ _ (by omega), ← show pA n = a from ofNat_field _ _ (by omega), ← show pB n = b from ofNat_field _ _ (by omega)]
  exact if_pos (by omega)

theorem por (d : BitVec 3) (a : BitVec 3) (b : BitVec 3) : Statement (.por d a b) := by
  refine of_word rfl ?_
  have h_d := d.isLt
  have h_a := a.isLt
  have h_b := b.isLt
  rw [rFmt_toNat _ _ _ _ _ (by omega)]
  obtain ⟨n, hn⟩ : ∃ n, 0x18 * 67108864 + d.toNat * 2097152 + a.toNat * 65536 + b.toNat * 2048 + 0x20 = n := ⟨_, rfl⟩
  rw [hn]
  rw [at_18 (by omega)]
  unfold decode18
  rw [show n / 32 % 64 = 1 by omega]
  rw [← show pD n = d from ofNat_field _ _ (by omega), ← show pA n = a from ofNat_field _ _ (by omega), ← show pB n = b from ofNat_field _ _ (by omega)]
  exact if_pos (by omega)

theorem pxor (d : BitVec 3) (a : BitVec 3) (b : BitVec 3) : Statement (.pxor d a b) := by
  refine of_word rfl ?_
  have h_d := d.isLt
  have h_a := a.isLt
  have h_b := b.isLt
  rw [rFmt_toNat _ _ _ _ _ (by omega)]
  obtain ⟨n, hn⟩ : ∃ n, 0x18 * 67108864 + d.toNat * 2097152 + a.toNat * 65536 + b.toNat * 2048 + 0x40 = n := ⟨_, rfl⟩
  rw [hn]
  rw [at_18 (by omega)]
  unfold decode18
  rw [show n / 32 % 64 = 2 by omega]
  rw [← show pD n = d from ofNat_field _ _ (by omega), ← show pA n = a from ofNat_field _ _ (by omega), ← show pB n = b from ofNat_field _ _ (by omega)]
  exact if_pos (by omega)

theorem pandn (d : BitVec 3) (a : BitVec 3) (b : BitVec 3) : Statement (.pandn d a b) := by
  refine of_word rfl ?_
  have h_d := d.isLt
  have h_a := a.isLt
  have h_b := b.isLt
  rw [rFmt_toNat _ _ _ _ _ (by omega)]
  obtain ⟨n, hn⟩ : ∃ n, 0x18 * 67108864 + d.toNat * 2097152 + a.toNat * 65536 + b.toNat * 2048 + 0x60 = n := ⟨_, rfl⟩
  rw [hn]
  rw [at_18 (by omega)]
  unfold decode18
  rw [show n / 32 % 64 = 3 by omega]
  rw [← show pD n = d from ofNat_field _ _ (by omega), ← show pA n = a from ofNat_field _ _ (by omega), ← show pB n = b from ofNat_field _ _ (by omega)]
  exact if_pos (by omega)

theorem pcnt (d : BitVec 5) (a : BitVec 3) : Statement (.pcnt d a) := by
  refine of_word rfl ?_
  have h_d := d.isLt
  have h_a := a.isLt
  rw [rFmt_toNat _ _ _ _ _ (by omega)]
  obtain ⟨n, hn⟩ : ∃ n, 0x18 * 67108864 + d.toNat * 2097152 + a.toNat * 65536 + 0 * 2048 + 0x80 = n := ⟨_, rfl⟩
  rw [hn]
  rw [at_18 (by omega)]
  unfold decode18
  rw [show n / 32 % 64 = 4 by omega]
  rw [← show fD n = d from ofNat_field _ _ (by omega), ← show pA n = a from ofNat_field _ _ (by omega)]
  exact if_pos (by omega)

theorem pfirst (d : BitVec 5) (a : BitVec 3) : Statement (.pfirst d a) := by
  refine of_word rfl ?_
  have h_d := d.isLt
  have h_a := a.isLt
  rw [rFmt_toNat _ _ _ _ _ (by omega)]
  obtain ⟨n, hn⟩ : ∃ n, 0x18 * 67108864 + d.toNat * 2097152 + a.toNat * 65536 + 0 * 2048 + 0xa0 = n := ⟨_, rfl⟩
  rw [hn]
  rw [at_18 (by omega)]
  unfold decode18
  rw [show n / 32 % 64 = 5 by omega]
  rw [← show fD n = d from ofNat_field _ _ (by omega), ← show pA n = a from ofNat_field _ _ (by omega)]
  exact if_pos (by omega)

theorem psetn (d : BitVec 3) (a : BitVec 5) : Statement (.psetn d a) := by
  refine of_word rfl ?_
  have h_d := d.isLt
  have h_a := a.isLt
  rw [rFmt_toNat _ _ _ _ _ (by omega)]
  obtain ⟨n, hn⟩ : ∃ n, 0x18 * 67108864 + d.toNat * 2097152 + a.toNat * 65536 + 0 * 2048 + 0xc0 = n := ⟨_, rfl⟩
  rw [hn]
  rw [at_18 (by omega)]
  unfold decode18
  rw [show n / 32 % 64 = 6 by omega]
  rw [← show pD n = d from ofNat_field _ _ (by omega), ← show fA n = a from ofNat_field _ _ (by omega)]
  exact if_pos (by omega)

theorem pmovPp (d : BitVec 3) (a : BitVec 3) : Statement (.pmovPp d a) := by
  refine of_word rfl ?_
  have h_d := d.isLt
  have h_a := a.isLt
  rw [rFmt_toNat _ _ _ _ _ (by omega)]
  obtain ⟨n, hn⟩ : ∃ n, 0x18 * 67108864 + d.toNat * 2097152 + a.toNat * 65536 + 0 * 2048 + 0xe0 = n := ⟨_, rfl⟩
  rw [hn]
  rw [at_18 (by omega)]
  unfold decode18
  rw [show n / 32 % 64 = 7 by omega, show n % 8 = 0 by omega]
  rw [← show pD n = d from ofNat_field _ _ (by omega), ← show pA n = a from ofNat_field _ _ (by omega)]
  exact if_pos (by omega)

theorem pmovPv (d : BitVec 5) (a : BitVec 3) : Statement (.pmovPv d a) := by
  refine of_word rfl ?_
  have h_d := d.isLt
  have h_a := a.isLt
  rw [rFmt_toNat _ _ _ _ _ (by omega)]
  obtain ⟨n, hn⟩ : ∃ n, 0x18 * 67108864 + d.toNat * 2097152 + a.toNat * 65536 + 0 * 2048 + 0xe1 = n := ⟨_, rfl⟩
  rw [hn]
  rw [at_18 (by omega)]
  unfold decode18
  rw [show n / 32 % 64 = 7 by omega, show n % 8 = 1 by omega]
  rw [← show fD n = d from ofNat_field _ _ (by omega), ← show pA n = a from ofNat_field _ _ (by omega)]
  exact if_pos (by omega)

theorem pmovVp (d : BitVec 3) (a : BitVec 5) : Statement (.pmovVp d a) := by
  refine of_word rfl ?_
  have h_d := d.isLt
  have h_a := a.isLt
  rw [rFmt_toNat _ _ _ _ _ (by omega)]
  obtain ⟨n, hn⟩ : ∃ n, 0x18 * 67108864 + d.toNat * 2097152 + a.toNat * 65536 + 0 * 2048 + 0xe2 = n := ⟨_, rfl⟩
  rw [hn]
  rw [at_18 (by omega)]
  unfold decode18
  rw [show n / 32 % 64 = 7 by omega, show n % 8 = 2 by omega]
  rw [← show pD n = d from ofNat_field _ _ (by omega), ← show fA n = a from ofNat_field _ _ (by omega)]
  exact if_pos (by omega)

theorem vquant (d : BitVec 5) (a : BitVec 5) (b : BitVec 5) : Statement (.vquant d a b) := by
  refine of_word rfl ?_
  have h_d := d.isLt
  have h_a := a.isLt
  have h_b := b.isLt
  rw [rFmt_toNat _ _ _ _ _ (by omega)]
  obtain ⟨n, hn⟩ : ∃ n, 0x19 * 67108864 + d.toNat * 2097152 + a.toNat * 65536 + b.toNat * 2048 + 8 = n := ⟨_, rfl⟩
  rw [hn]
  rw [at_19 (by omega)]
  unfold decode19
  rw [show n / 32 % 64 = 0 by omega]
  rw [← show fD n = d from ofNat_field _ _ (by omega), ← show fA n = a from ofNat_field _ _ (by omega), ← show fB n = b from ofNat_field _ _ (by omega)]
  exact if_pos (by omega)

theorem vdeq (d : BitVec 5) (a : BitVec 5) (b : BitVec 5) : Statement (.vdeq d a b) := by
  refine of_word rfl ?_
  have h_d := d.isLt
  have h_a := a.isLt
  have h_b := b.isLt
  rw [rFmt_toNat _ _ _ _ _ (by omega)]
  obtain ⟨n, hn⟩ : ∃ n, 0x19 * 67108864 + d.toNat * 2097152 + a.toNat * 65536 + b.toNat * 2048 + 0x28 = n := ⟨_, rfl⟩
  rw [hn]
  rw [at_19 (by omega)]
  unfold decode19
  rw [show n / 32 % 64 = 1 by omega]
  rw [← show fD n = d from ofNat_field _ _ (by omega), ← show fA n = a from ofNat_field _ _ (by omega), ← show fB n = b from ofNat_field _ _ (by omega)]
  exact if_pos (by omega)

theorem vscale (d : BitVec 5) (a : BitVec 5) (b : BitVec 5) : Statement (.vscale d a b) := by
  refine of_word rfl ?_
  have h_d := d.isLt
  have h_a := a.isLt
  have h_b := b.isLt
  rw [rFmt_toNat _ _ _ _ _ (by omega)]
  obtain ⟨n, hn⟩ : ∃ n, 0x19 * 67108864 + d.toNat * 2097152 + a.toNat * 65536 + b.toNat * 2048 + 0x48 = n := ⟨_, rfl⟩
  rw [hn]
  rw [at_19 (by omega)]
  unfold decode19
  rw [show n / 32 % 64 = 2 by omega]
  rw [← show fD n = d from ofNat_field _ _ (by omega), ← show fA n = a from ofNat_field _ _ (by omega), ← show fB n = b from ofNat_field _ _ (by omega)]
  exact if_pos (by omega)

theorem vld (d : BitVec 5) (a : BitVec 5) (o : BitVec 5) (r : BitVec 2) (s : BitVec 3) : Statement (.vld d a o r s) := by
  refine of_word rfl ?_
  have h_d := d.isLt
  have h_a := a.isLt
  have h_o := o.isLt
  have h_r := r.isLt
  have h_s := s.isLt
  rw [rFmt_toNat _ _ _ _ _ (by omega)]
  obtain ⟨n, hn⟩ : ∃ n, 0x20 * 67108864 + d.toNat * 2097152 + a.toNat * 65536 + o.toNat * 2048 + (r.toNat * 8 + s.toNat) = n := ⟨_, rfl⟩
  rw [hn]
  rw [at_20 (by omega)]
  unfold decode20
  rw [show n / 256 % 8 = 0 by omega]
  rw [← show fD n = d from ofNat_field _ _ (by omega), ← show fA n = a from ofNat_field _ _ (by omega), ← show fB n = o from ofNat_field _ _ (by omega), ← show fld 3 2 n = r from ofNat_field _ _ (by omega), ← show BitVec.ofNat 3 n = s from ofNat_field _ _ (by omega)]
  exact if_pos (by omega)

theorem vlds (d : BitVec 5) (a : BitVec 5) (b : BitVec 5) (r : BitVec 2) (s : BitVec 3) : Statement (.vlds d a b r s) := by
  refine of_word rfl ?_
  have h_d := d.isLt
  have h_a := a.isLt
  have h_b := b.isLt
  have h_r := r.isLt
  have h_s := s.isLt
  rw [rFmt_toNat _ _ _ _ _ (by omega)]
  obtain ⟨n, hn⟩ : ∃ n, 0x20 * 67108864 + d.toNat * 2097152 + a.toNat * 65536 + b.toNat * 2048 + (0x100 + r.toNat * 8 + s.toNat) = n := ⟨_, rfl⟩
  rw [hn]
  rw [at_20 (by omega)]
  unfold decode20
  rw [show n / 256 % 8 = 1 by omega]
  rw [← show fD n = d from ofNat_field _ _ (by omega), ← show fA n = a from ofNat_field _ _ (by omega), ← show fB n = b from ofNat_field _ _ (by omega), ← show fld 3 2 n = r from ofNat_field _ _ (by omega), ← show BitVec.ofNat 3 n = s from ofNat_field _ _ (by omega)]
  exact if_pos (by omega)

theorem vldg (d : BitVec 5) (a : BitVec 5) (o : BitVec 5) (f : BitVec 3) (r : BitVec 2) (s : BitVec 3) : Statement (.vldg d a o f r s) := by
  refine of_word rfl ?_
  have h_d := d.isLt
  have h_a := a.isLt
  have h_o := o.isLt
  have h_f := f.isLt
  have h_r := r.isLt
  have h_s := s.isLt
  rw [rFmt_toNat _ _ _ _ _ (by omega)]
  obtain ⟨n, hn⟩ : ∃ n, 0x20 * 67108864 + d.toNat * 2097152 + a.toNat * 65536 + o.toNat * 2048 + (0x200 + f.toNat * 32 + r.toNat * 8 + s.toNat) = n := ⟨_, rfl⟩
  rw [hn]
  rw [at_20 (by omega)]
  unfold decode20
  rw [show n / 256 % 8 = 2 by omega]
  rw [← show fD n = d from ofNat_field _ _ (by omega), ← show fA n = a from ofNat_field _ _ (by omega), ← show fB n = o from ofNat_field _ _ (by omega), ← show fld 5 3 n = f from ofNat_field _ _ (by omega), ← show fld 3 2 n = r from ofNat_field _ _ (by omega), ← show BitVec.ofNat 3 n = s from ofNat_field _ _ (by omega)]
  rfl

theorem vldx (d : BitVec 5) (a : BitVec 5) (b : BitVec 5) (r : BitVec 2) (s : BitVec 3) : Statement (.vldx d a b r s) := by
  refine of_word rfl ?_
  have h_d := d.isLt
  have h_a := a.isLt
  have h_b := b.isLt
  have h_r := r.isLt
  have h_s := s.isLt
  rw [rFmt_toNat _ _ _ _ _ (by omega)]
  obtain ⟨n, hn⟩ : ∃ n, 0x20 * 67108864 + d.toNat * 2097152 + a.toNat * 65536 + b.toNat * 2048 + (0x300 + r.toNat * 8 + s.toNat) = n := ⟨_, rfl⟩
  rw [hn]
  rw [at_20 (by omega)]
  unfold decode20
  rw [show n / 256 % 8 = 3 by omega]
  rw [← show fD n = d from ofNat_field _ _ (by omega), ← show fA n = a from ofNat_field _ _ (by omega), ← show fB n = b from ofNat_field _ _ (by omega), ← show fld 3 2 n = r from ofNat_field _ _ (by omega), ← show BitVec.ofNat 3 n = s from ofNat_field _ _ (by omega)]
  exact if_pos (by omega)

theorem vldff (d : BitVec 5) (a : BitVec 5) (o : BitVec 5) (r : BitVec 2) (s : BitVec 3) : Statement (.vldff d a o r s) := by
  refine of_word rfl ?_
  have h_d := d.isLt
  have h_a := a.isLt
  have h_o := o.isLt
  have h_r := r.isLt
  have h_s := s.isLt
  rw [rFmt_toNat _ _ _ _ _ (by omega)]
  obtain ⟨n, hn⟩ : ∃ n, 0x20 * 67108864 + d.toNat * 2097152 + a.toNat * 65536 + o.toNat * 2048 + (0x400 + r.toNat * 8 + s.toNat) = n := ⟨_, rfl⟩
  rw [hn]
  rw [at_20 (by omega)]
  unfold decode20
  rw [show n / 256 % 8 = 4 by omega]
  rw [← show fD n = d from ofNat_field _ _ (by omega), ← show fA n = a from ofNat_field _ _ (by omega), ← show fB n = o from ofNat_field _ _ (by omega), ← show fld 3 2 n = r from ofNat_field _ _ (by omega), ← show BitVec.ofNat 3 n = s from ofNat_field _ _ (by omega)]
  exact if_pos (by omega)

theorem vst (d : BitVec 5) (a : BitVec 5) (o : BitVec 5) (r : BitVec 2) (s : BitVec 3) : Statement (.vst d a o r s) := by
  refine of_word rfl ?_
  have h_d := d.isLt
  have h_a := a.isLt
  have h_o := o.isLt
  have h_r := r.isLt
  have h_s := s.isLt
  rw [rFmt_toNat _ _ _ _ _ (by omega)]
  obtain ⟨n, hn⟩ : ∃ n, 0x21 * 67108864 + d.toNat * 2097152 + a.toNat * 65536 + o.toNat * 2048 + (r.toNat * 8 + s.toNat) = n := ⟨_, rfl⟩
  rw [hn]
  rw [at_21 (by omega)]
  unfold decode21
  rw [show n / 256 % 8 = 0 by omega]
  rw [← show fD n = d from ofNat_field _ _ (by omega), ← show fA n = a from ofNat_field _ _ (by omega), ← show fB n = o from ofNat_field _ _ (by omega), ← show fld 3 2 n = r from ofNat_field _ _ (by omega), ← show BitVec.ofNat 3 n = s from ofNat_field _ _ (by omega)]
  exact if_pos (by omega)

theorem vsts (d : BitVec 5) (a : BitVec 5) (b : BitVec 5) (r : BitVec 2) (s : BitVec 3) : Statement (.vsts d a b r s) := by
  refine of_word rfl ?_
  have h_d := d.isLt
  have h_a := a.isLt
  have h_b := b.isLt
  have h_r := r.isLt
  have h_s := s.isLt
  rw [rFmt_toNat _ _ _ _ _ (by omega)]
  obtain ⟨n, hn⟩ : ∃ n, 0x21 * 67108864 + d.toNat * 2097152 + a.toNat * 65536 + b.toNat * 2048 + (0x100 + r.toNat * 8 + s.toNat) = n := ⟨_, rfl⟩
  rw [hn]
  rw [at_21 (by omega)]
  unfold decode21
  rw [show n / 256 % 8 = 1 by omega]
  rw [← show fD n = d from ofNat_field _ _ (by omega), ← show fA n = a from ofNat_field _ _ (by omega), ← show fB n = b from ofNat_field _ _ (by omega), ← show fld 3 2 n = r from ofNat_field _ _ (by omega), ← show BitVec.ofNat 3 n = s from ofNat_field _ _ (by omega)]
  exact if_pos (by omega)

theorem vstg (d : BitVec 5) (a : BitVec 5) (o : BitVec 5) (f : BitVec 3) (r : BitVec 2) (s : BitVec 3) : Statement (.vstg d a o f r s) := by
  refine of_word rfl ?_
  have h_d := d.isLt
  have h_a := a.isLt
  have h_o := o.isLt
  have h_f := f.isLt
  have h_r := r.isLt
  have h_s := s.isLt
  rw [rFmt_toNat _ _ _ _ _ (by omega)]
  obtain ⟨n, hn⟩ : ∃ n, 0x21 * 67108864 + d.toNat * 2097152 + a.toNat * 65536 + o.toNat * 2048 + (0x200 + f.toNat * 32 + r.toNat * 8 + s.toNat) = n := ⟨_, rfl⟩
  rw [hn]
  rw [at_21 (by omega)]
  unfold decode21
  rw [show n / 256 % 8 = 2 by omega]
  rw [← show fD n = d from ofNat_field _ _ (by omega), ← show fA n = a from ofNat_field _ _ (by omega), ← show fB n = o from ofNat_field _ _ (by omega), ← show fld 5 3 n = f from ofNat_field _ _ (by omega), ← show fld 3 2 n = r from ofNat_field _ _ (by omega), ← show BitVec.ofNat 3 n = s from ofNat_field _ _ (by omega)]
  rfl

theorem vstx (d : BitVec 5) (a : BitVec 5) (b : BitVec 5) (r : BitVec 2) (s : BitVec 3) : Statement (.vstx d a b r s) := by
  refine of_word rfl ?_
  have h_d := d.isLt
  have h_a := a.isLt
  have h_b := b.isLt
  have h_r := r.isLt
  have h_s := s.isLt
  rw [rFmt_toNat _ _ _ _ _ (by omega)]
  obtain ⟨n, hn⟩ : ∃ n, 0x21 * 67108864 + d.toNat * 2097152 + a.toNat * 65536 + b.toNat * 2048 + (0x300 + r.toNat * 8 + s.toNat) = n := ⟨_, rfl⟩
  rw [hn]
  rw [at_21 (by omega)]
  unfold decode21
  rw [show n / 256 % 8 = 3 by omega]
  rw [← show fD n = d from ofNat_field _ _ (by omega), ← show fA n = a from ofNat_field _ _ (by omega), ← show fB n = b from ofNat_field _ _ (by omega), ← show fld 3 2 n = r from ofNat_field _ _ (by omega), ← show BitVec.ofNat 3 n = s from ofNat_field _ _ (by omega)]
  exact if_pos (by omega)

theorem vstxa (d : BitVec 5) (a : BitVec 5) (b : BitVec 5) (r : BitVec 2) (s : BitVec 3) : Statement (.vstxa d a b r s) := by
  refine of_word rfl ?_
  have h_d := d.isLt
  have h_a := a.isLt
  have h_b := b.isLt
  have h_r := r.isLt
  have h_s := s.isLt
  rw [rFmt_toNat _ _ _ _ _ (by omega)]
  obtain ⟨n, hn⟩ : ∃ n, 0x22 * 67108864 + d.toNat * 2097152 + a.toNat * 65536 + b.toNat * 2048 + (0x300 + r.toNat * 8 + s.toNat) = n := ⟨_, rfl⟩
  rw [hn]
  rw [at_22 (by omega)]
  unfold decode22
  rw [show n / 256 % 8 = 3 by omega]
  rw [← show fD n = d from ofNat_field _ _ (by omega), ← show fA n = a from ofNat_field _ _ (by omega), ← show fB n = b from ofNat_field _ _ (by omega), ← show fld 3 2 n = r from ofNat_field _ _ (by omega), ← show BitVec.ofNat 3 n = s from ofNat_field _ _ (by omega)]
  exact if_pos (by omega)

theorem vstxc (d : BitVec 5) (a : BitVec 5) (b : BitVec 5) (r : BitVec 2) (s : BitVec 3) : Statement (.vstxc d a b r s) := by
  refine of_word rfl ?_
  have h_d := d.isLt
  have h_a := a.isLt
  have h_b := b.isLt
  have h_r := r.isLt
  have h_s := s.isLt
  rw [rFmt_toNat _ _ _ _ _ (by omega)]
  obtain ⟨n, hn⟩ : ∃ n, 0x23 * 67108864 + d.toNat * 2097152 + a.toNat * 65536 + b.toNat * 2048 + (0x300 + r.toNat * 8 + s.toNat) = n := ⟨_, rfl⟩
  rw [hn]
  rw [at_23 (by omega)]
  unfold decode23
  rw [show n / 256 % 8 = 3 by omega]
  rw [← show fD n = d from ofNat_field _ _ (by omega), ← show fA n = a from ofNat_field _ _ (by omega), ← show fB n = b from ofNat_field _ _ (by omega), ← show fld 3 2 n = r from ofNat_field _ _ (by omega), ← show BitVec.ofNat 3 n = s from ofNat_field _ _ (by omega)]
  exact if_pos (by omega)

theorem pld (d : BitVec 3) (a : BitVec 5) (o : BitVec 5) (r : BitVec 2) (s : BitVec 3) : Statement (.pld d a o r s) := by
  refine of_word rfl ?_
  have h_d := d.isLt
  have h_a := a.isLt
  have h_o := o.isLt
  have h_r := r.isLt
  have h_s := s.isLt
  rw [rFmt_toNat _ _ _ _ _ (by omega)]
  obtain ⟨n, hn⟩ : ∃ n, 0x24 * 67108864 + d.toNat * 2097152 + a.toNat * 65536 + o.toNat * 2048 + (r.toNat * 8 + s.toNat) = n := ⟨_, rfl⟩
  rw [hn]
  rw [at_24 (by omega)]
  unfold decode24
  rw [show n / 256 % 8 = 0 by omega]
  rw [← show pD n = d from ofNat_field _ _ (by omega), ← show fA n = a from ofNat_field _ _ (by omega), ← show fB n = o from ofNat_field _ _ (by omega), ← show fld 3 2 n = r from ofNat_field _ _ (by omega), ← show BitVec.ofNat 3 n = s from ofNat_field _ _ (by omega)]
  exact if_pos (by omega)

theorem pst (d : BitVec 3) (a : BitVec 5) (o : BitVec 5) (r : BitVec 2) (s : BitVec 3) : Statement (.pst d a o r s) := by
  refine of_word rfl ?_
  have h_d := d.isLt
  have h_a := a.isLt
  have h_o := o.isLt
  have h_r := r.isLt
  have h_s := s.isLt
  rw [rFmt_toNat _ _ _ _ _ (by omega)]
  obtain ⟨n, hn⟩ : ∃ n, 0x25 * 67108864 + d.toNat * 2097152 + a.toNat * 65536 + o.toNat * 2048 + (r.toNat * 8 + s.toNat) = n := ⟨_, rfl⟩
  rw [hn]
  rw [at_25 (by omega)]
  unfold decode25
  rw [show n / 256 % 8 = 0 by omega]
  rw [← show pD n = d from ofNat_field _ _ (by omega), ← show fA n = a from ofNat_field _ _ (by omega), ← show fB n = o from ofNat_field _ _ (by omega), ← show fld 3 2 n = r from ofNat_field _ _ (by omega), ← show BitVec.ofNat 3 n = s from ofNat_field _ _ (by omega)]
  exact if_pos (by omega)

theorem sbind (d : BitVec 2) (a : BitVec 5) : Statement (.sbind d a) := by
  refine of_word rfl ?_
  have h_d := d.isLt
  have h_a := a.isLt
  rw [rFmt_toNat _ _ _ _ _ (by omega)]
  obtain ⟨n, hn⟩ : ∃ n, 0x26 * 67108864 + (0x1c + d.toNat) * 2097152 + a.toNat * 65536 + 0 * 2048 + 0 = n := ⟨_, rfl⟩
  rw [hn]
  rw [at_26 (by omega)]
  unfold decode26
  rw [show n / 32 % 64 = 0 by omega]
  rw [← show fld 21 2 n = d from ofNat_field _ _ (by omega), ← show fA n = a from ofNat_field _ _ (by omega)]
  exact if_pos (by omega)

theorem sunbind (d : BitVec 2) : Statement (.sunbind d) := by
  refine of_word rfl ?_
  have h_d := d.isLt
  rw [rFmt_toNat _ _ _ _ _ (by omega)]
  obtain ⟨n, hn⟩ : ∃ n, 0x26 * 67108864 + (0x1c + d.toNat) * 2097152 + 0 * 65536 + 0 * 2048 + 0x20 = n := ⟨_, rfl⟩
  rw [hn]
  rw [at_26 (by omega)]
  unfold decode26
  rw [show n / 32 % 64 = 1 by omega]
  rw [← show fld 21 2 n = d from ofNat_field _ _ (by omega)]
  exact if_pos (by omega)

theorem spos (d : BitVec 5) (a : BitVec 2) : Statement (.spos d a) := by
  refine of_word rfl ?_
  have h_d := d.isLt
  have h_a := a.isLt
  rw [rFmt_toNat _ _ _ _ _ (by omega)]
  obtain ⟨n, hn⟩ : ∃ n, 0x26 * 67108864 + d.toNat * 2097152 + (0x1c + a.toNat) * 65536 + 0 * 2048 + 0x40 = n := ⟨_, rfl⟩
  rw [hn]
  rw [at_26 (by omega)]
  unfold decode26
  rw [show n / 32 % 64 = 2 by omega]
  rw [← show fD n = d from ofNat_field _ _ (by omega), ← show fld 16 2 n = a from ofNat_field _ _ (by omega)]
  exact if_pos (by omega)

theorem mzero (d : BitVec 5) : Statement (.mzero d) := by
  refine of_word rfl ?_
  have h_d := d.isLt
  rw [rFmt_toNat _ _ _ _ _ (by omega)]
  obtain ⟨n, hn⟩ : ∃ n, 0x28 * 67108864 + d.toNat * 2097152 + 0 * 65536 + 0 * 2048 + 0 = n := ⟨_, rfl⟩
  rw [hn]
  rw [at_28 (by omega)]
  unfold decode28
  rw [show n / 32 % 64 = 0 by omega]
  rw [← show fD n = d from ofNat_field _ _ (by omega)]
  exact if_pos (by omega)

theorem mma (d : BitVec 5) (a : BitVec 5) (b : BitVec 5) : Statement (.mma d a b) := by
  refine of_word rfl ?_
  have h_d := d.isLt
  have h_a := a.isLt
  have h_b := b.isLt
  rw [rFmt_toNat _ _ _ _ _ (by omega)]
  obtain ⟨n, hn⟩ : ∃ n, 0x28 * 67108864 + d.toNat * 2097152 + a.toNat * 65536 + b.toNat * 2048 + 0x20 = n := ⟨_, rfl⟩
  rw [hn]
  rw [at_28 (by omega)]
  unfold decode28
  rw [show n / 32 % 64 = 1 by omega]
  rw [← show fD n = d from ofNat_field _ _ (by omega), ← show fA n = a from ofNat_field _ _ (by omega), ← show fB n = b from ofNat_field _ _ (by omega)]
  exact if_pos (by omega)

theorem mmam (d : BitVec 5) (a : BitVec 5) (b : BitVec 5) : Statement (.mmam d a b) := by
  refine of_word rfl ?_
  have h_d := d.isLt
  have h_a := a.isLt
  have h_b := b.isLt
  rw [rFmt_toNat _ _ _ _ _ (by omega)]
  obtain ⟨n, hn⟩ : ∃ n, 0x29 * 67108864 + d.toNat * 2097152 + a.toNat * 65536 + b.toNat * 2048 + 0 = n := ⟨_, rfl⟩
  rw [hn]
  rw [at_29 (by omega)]
  unfold decode29
  rw [← show fD n = d from ofNat_field _ _ (by omega), ← show fA n = a from ofNat_field _ _ (by omega), ← show fB n = b from ofNat_field _ _ (by omega)]
  exact if_pos (by omega)

theorem mdrain (d : BitVec 5) (a : BitVec 5) (b : BitVec 5) (f : BitVec 6) (m : BitVec 5) : Statement (.mdrain d a b f m) := by
  refine of_word rfl ?_
  have h_d := d.isLt
  have h_a := a.isLt
  have h_b := b.isLt
  have h_f := f.isLt
  have h_m := m.isLt
  rw [rFmt_toNat _ _ _ _ _ (by omega)]
  obtain ⟨n, hn⟩ : ∃ n, 0x2A * 67108864 + d.toNat * 2097152 + a.toNat * 65536 + b.toNat * 2048 + (f.toNat * 32 + m.toNat) = n := ⟨_, rfl⟩
  rw [hn]
  rw [at_2A (by omega)]
  unfold decode2A
  rw [← show fD n = d from ofNat_field _ _ (by omega), ← show fA n = a from ofNat_field _ _ (by omega), ← show fB n = b from ofNat_field _ _ (by omega), ← show fld 5 6 n = f from ofNat_field _ _ (by omega), ← show BitVec.ofNat 5 n = m from ofNat_field _ _ (by omega)]

theorem mpert (a : BitVec 5) (b : BitVec 5) : Statement (.mpert a b) := by
  refine of_word rfl ?_
  have h_a := a.isLt
  have h_b := b.isLt
  rw [rFmt_toNat _ _ _ _ _ (by omega)]
  obtain ⟨n, hn⟩ : ∃ n, 0x2B * 67108864 + 0 * 2097152 + a.toNat * 65536 + b.toNat * 2048 + 0 = n := ⟨_, rfl⟩
  rw [hn]
  rw [at_2B (by omega)]
  unfold decode2B
  rw [← show fA n = a from ofNat_field _ _ (by omega), ← show fB n = b from ofNat_field _ _ (by omega)]
  exact if_pos (by omega)

theorem tldef (a : BitVec 5) (b : BitVec 5) : Statement (.tldef a b) := by
  refine of_word rfl ?_
  have h_a := a.isLt
  have h_b := b.isLt
  rw [rFmt_toNat _ _ _ _ _ (by omega)]
  obtain ⟨n, hn⟩ : ∃ n, 0x2C * 67108864 + 0 * 2097152 + a.toNat * 65536 + b.toNat * 2048 + 0 = n := ⟨_, rfl⟩
  rw [hn]
  rw [at_2C (by omega)]
  unfold decode2C
  rw [show n / 32 % 64 = 0 by omega]
  rw [← show fA n = a from ofNat_field _ _ (by omega), ← show fB n = b from ofNat_field _ _ (by omega)]
  exact if_pos (by omega)

theorem tlexp (a : BitVec 5) (b : BitVec 5) : Statement (.tlexp a b) := by
  refine of_word rfl ?_
  have h_a := a.isLt
  have h_b := b.isLt
  rw [rFmt_toNat _ _ _ _ _ (by omega)]
  obtain ⟨n, hn⟩ : ∃ n, 0x2C * 67108864 + 0 * 2097152 + a.toNat * 65536 + b.toNat * 2048 + 0x20 = n := ⟨_, rfl⟩
  rw [hn]
  rw [at_2C (by omega)]
  unfold decode2C
  rw [show n / 32 % 64 = 1 by omega]
  rw [← show fA n = a from ofNat_field _ _ (by omega), ← show fB n = b from ofNat_field _ _ (by omega)]
  exact if_pos (by omega)

theorem tlwait (a : BitVec 5) (b : BitVec 5) : Statement (.tlwait a b) := by
  refine of_word rfl ?_
  have h_a := a.isLt
  have h_b := b.isLt
  rw [rFmt_toNat _ _ _ _ _ (by omega)]
  obtain ⟨n, hn⟩ : ∃ n, 0x2C * 67108864 + 0 * 2097152 + a.toNat * 65536 + b.toNat * 2048 + 0x40 = n := ⟨_, rfl⟩
  rw [hn]
  rw [at_2C (by omega)]
  unfold decode2C
  rw [show n / 32 % 64 = 2 by omega]
  rw [← show fA n = a from ofNat_field _ _ (by omega), ← show fB n = b from ofNat_field _ _ (by omega)]
  exact if_pos (by omega)

theorem tlrel (a : BitVec 5) : Statement (.tlrel a) := by
  refine of_word rfl ?_
  have h_a := a.isLt
  rw [rFmt_toNat _ _ _ _ _ (by omega)]
  obtain ⟨n, hn⟩ : ∃ n, 0x2C * 67108864 + 0 * 2097152 + a.toNat * 65536 + 0 * 2048 + 0x60 = n := ⟨_, rfl⟩
  rw [hn]
  rw [at_2C (by omega)]
  unfold decode2C
  rw [show n / 32 % 64 = 3 by omega]
  rw [← show fA n = a from ofNat_field _ _ (by omega)]
  exact if_pos (by omega)

theorem cpy (a : BitVec 5) (b : BitVec 5) : Statement (.cpy a b) := by
  refine of_word rfl ?_
  have h_a := a.isLt
  have h_b := b.isLt
  rw [rFmt_toNat _ _ _ _ _ (by omega)]
  obtain ⟨n, hn⟩ : ∃ n, 0x2D * 67108864 + 0 * 2097152 + a.toNat * 65536 + b.toNat * 2048 + 0 = n := ⟨_, rfl⟩
  rw [hn]
  rw [at_2D (by omega)]
  unfold decode2D
  rw [show n / 32 % 64 = 0 by omega]
  rw [← show fA n = a from ofNat_field _ _ (by omega), ← show fB n = b from ofNat_field _ _ (by omega)]
  exact if_pos (by omega)

theorem cpyp (a : BitVec 5) (b : BitVec 5) : Statement (.cpyp a b) := by
  refine of_word rfl ?_
  have h_a := a.isLt
  have h_b := b.isLt
  rw [rFmt_toNat _ _ _ _ _ (by omega)]
  obtain ⟨n, hn⟩ : ∃ n, 0x2D * 67108864 + 0 * 2097152 + a.toNat * 65536 + b.toNat * 2048 + 0x20 = n := ⟨_, rfl⟩
  rw [hn]
  rw [at_2D (by omega)]
  unfold decode2D
  rw [show n / 32 % 64 = 1 by omega]
  rw [← show fA n = a from ofNat_field _ _ (by omega), ← show fB n = b from ofNat_field _ _ (by omega)]
  exact if_pos (by omega)

theorem cpyg (a : BitVec 5) (b : BitVec 5) : Statement (.cpyg a b) := by
  refine of_word rfl ?_
  have h_a := a.isLt
  have h_b := b.isLt
  rw [rFmt_toNat _ _ _ _ _ (by omega)]
  obtain ⟨n, hn⟩ : ∃ n, 0x2D * 67108864 + 0 * 2097152 + a.toNat * 65536 + b.toNat * 2048 + 0x40 = n := ⟨_, rfl⟩
  rw [hn]
  rw [at_2D (by omega)]
  unfold decode2D
  rw [show n / 32 % 64 = 2 by omega]
  rw [← show fA n = a from ofNat_field _ _ (by omega), ← show fB n = b from ofNat_field _ _ (by omega)]
  exact if_pos (by omega)

theorem cpys (a : BitVec 5) (b : BitVec 5) : Statement (.cpys a b) := by
  refine of_word rfl ?_
  have h_a := a.isLt
  have h_b := b.isLt
  rw [rFmt_toNat _ _ _ _ _ (by omega)]
  obtain ⟨n, hn⟩ : ∃ n, 0x2D * 67108864 + 0 * 2097152 + a.toNat * 65536 + b.toNat * 2048 + 0x60 = n := ⟨_, rfl⟩
  rw [hn]
  rw [at_2D (by omega)]
  unfold decode2D
  rw [show n / 32 % 64 = 3 by omega]
  rw [← show fA n = a from ofNat_field _ _ (by omega), ← show fB n = b from ofNat_field _ _ (by omega)]
  exact if_pos (by omega)

theorem mshq (d : BitVec 2) (a : BitVec 5) (b : BitVec 5) : Statement (.mshq d a b) := by
  refine of_word rfl ?_
  have h_d := d.isLt
  have h_a := a.isLt
  have h_b := b.isLt
  rw [rFmt_toNat _ _ _ _ _ (by omega)]
  obtain ⟨n, hn⟩ : ∃ n, 0x30 * 67108864 + (0x1c + d.toNat) * 2097152 + a.toNat * 65536 + b.toNat * 2048 + 0 = n := ⟨_, rfl⟩
  rw [hn]
  rw [at_30 (by omega)]
  unfold decode30
  rw [show n / 32 % 64 = 0 by omega]
  rw [← show fld 21 2 n = d from ofNat_field _ _ (by omega), ← show fA n = a from ofNat_field _ _ (by omega), ← show fB n = b from ofNat_field _ _ (by omega)]
  exact if_pos (by omega)

theorem mshgl (a : BitVec 5) : Statement (.mshgl a) := by
  refine of_word rfl ?_
  have h_a := a.isLt
  rw [rFmt_toNat _ _ _ _ _ (by omega)]
  obtain ⟨n, hn⟩ : ∃ n, 0x30 * 67108864 + 0 * 2097152 + a.toNat * 65536 + 0 * 2048 + 0x20 = n := ⟨_, rfl⟩
  rw [hn]
  rw [at_30 (by omega)]
  unfold decode30
  rw [show n / 32 % 64 = 1 by omega]
  rw [← show fA n = a from ofNat_field _ _ (by omega)]
  exact if_pos (by omega)

theorem mshref (a : BitVec 5) : Statement (.mshref a) := by
  refine of_word rfl ?_
  have h_a := a.isLt
  rw [rFmt_toNat _ _ _ _ _ (by omega)]
  obtain ⟨n, hn⟩ : ∃ n, 0x30 * 67108864 + 0 * 2097152 + a.toNat * 65536 + 0 * 2048 + 0x40 = n := ⟨_, rfl⟩
  rw [hn]
  rw [at_30 (by omega)]
  unfold decode30
  rw [show n / 32 % 64 = 2 by omega]
  rw [← show fA n = a from ofNat_field _ _ (by omega)]
  exact if_pos (by omega)

theorem mshcrs (a : BitVec 5) : Statement (.mshcrs a) := by
  refine of_word rfl ?_
  have h_a := a.isLt
  rw [rFmt_toNat _ _ _ _ _ (by omega)]
  obtain ⟨n, hn⟩ : ∃ n, 0x30 * 67108864 + 0 * 2097152 + a.toNat * 65536 + 0 * 2048 + 0x60 = n := ⟨_, rfl⟩
  rw [hn]
  rw [at_30 (by omega)]
  unfold decode30
  rw [show n / 32 % 64 = 3 by omega]
  rw [← show fA n = a from ofNat_field _ _ (by omega)]
  exact if_pos (by omega)

theorem mshren (a : BitVec 5) : Statement (.mshren a) := by
  refine of_word rfl ?_
  have h_a := a.isLt
  rw [rFmt_toNat _ _ _ _ _ (by omega)]
  obtain ⟨n, hn⟩ : ∃ n, 0x30 * 67108864 + 0 * 2097152 + a.toNat * 65536 + 0 * 2048 + 0x80 = n := ⟨_, rfl⟩
  rw [hn]
  rw [at_30 (by omega)]
  unfold decode30
  rw [show n / 32 % 64 = 4 by omega]
  rw [← show fA n = a from ofNat_field _ _ (by omega)]
  exact if_pos (by omega)

theorem mshcut (a : BitVec 5) : Statement (.mshcut a) := by
  refine of_word rfl ?_
  have h_a := a.isLt
  rw [rFmt_toNat _ _ _ _ _ (by omega)]
  obtain ⟨n, hn⟩ : ∃ n, 0x30 * 67108864 + 0 * 2097152 + a.toNat * 65536 + 0 * 2048 + 0xa0 = n := ⟨_, rfl⟩
  rw [hn]
  rw [at_30 (by omega)]
  unfold decode30
  rw [show n / 32 % 64 = 5 by omega]
  rw [← show fA n = a from ofNat_field _ _ (by omega)]
  exact if_pos (by omega)

theorem mshmig (a : BitVec 5) : Statement (.mshmig a) := by
  refine of_word rfl ?_
  have h_a := a.isLt
  rw [rFmt_toNat _ _ _ _ _ (by omega)]
  obtain ⟨n, hn⟩ : ∃ n, 0x30 * 67108864 + 0 * 2097152 + a.toNat * 65536 + 0 * 2048 + 0xc0 = n := ⟨_, rfl⟩
  rw [hn]
  rw [at_30 (by omega)]
  unfold decode30
  rw [show n / 32 % 64 = 6 by omega]
  rw [← show fA n = a from ofNat_field _ _ (by omega)]
  exact if_pos (by omega)

theorem mshwait (a : BitVec 5) : Statement (.mshwait a) := by
  refine of_word rfl ?_
  have h_a := a.isLt
  rw [rFmt_toNat _ _ _ _ _ (by omega)]
  obtain ⟨n, hn⟩ : ∃ n, 0x30 * 67108864 + 0 * 2097152 + a.toNat * 65536 + 0 * 2048 + 0xe0 = n := ⟨_, rfl⟩
  rw [hn]
  rw [at_30 (by omega)]
  unfold decode30
  rw [show n / 32 % 64 = 7 by omega]
  rw [← show fA n = a from ofNat_field _ _ (by omega)]
  exact if_pos (by omega)

theorem clrgen (a : BitVec 5) : Statement (.clrgen a) := by
  refine of_word rfl ?_
  have h_a := a.isLt
  rw [rFmt_toNat _ _ _ _ _ (by omega)]
  obtain ⟨n, hn⟩ : ∃ n, 0x31 * 67108864 + 0 * 2097152 + a.toNat * 65536 + 0 * 2048 + 0 = n := ⟨_, rfl⟩
  rw [hn]
  rw [at_31 (by omega)]
  unfold decode31
  rw [show n / 32 % 64 = 0 by omega]
  rw [← show fA n = a from ofNat_field _ _ (by omega)]
  exact if_pos (by omega)

theorem binapp (d : BitVec 5) (a : BitVec 5) (b : BitVec 5) : Statement (.binapp d a b) := by
  refine of_word rfl ?_
  have h_d := d.isLt
  have h_a := a.isLt
  have h_b := b.isLt
  rw [rFmt_toNat _ _ _ _ _ (by omega)]
  obtain ⟨n, hn⟩ : ∃ n, 0x31 * 67108864 + d.toNat * 2097152 + a.toNat * 65536 + b.toNat * 2048 + 0x20 = n := ⟨_, rfl⟩
  rw [hn]
  rw [at_31 (by omega)]
  unfold decode31
  rw [show n / 32 % 64 = 1 by omega]
  rw [← show fD n = d from ofNat_field _ _ (by omega), ← show fA n = a from ofNat_field _ _ (by omega), ← show fB n = b from ofNat_field _ _ (by omega)]
  exact if_pos (by omega)

theorem binplay (a : BitVec 5) : Statement (.binplay a) := by
  refine of_word rfl ?_
  have h_a := a.isLt
  rw [rFmt_toNat _ _ _ _ _ (by omega)]
  obtain ⟨n, hn⟩ : ∃ n, 0x31 * 67108864 + 0 * 2097152 + a.toNat * 65536 + 0 * 2048 + 0x40 = n := ⟨_, rfl⟩
  rw [hn]
  rw [at_31 (by omega)]
  unfold decode31
  rw [show n / 32 % 64 = 2 by omega]
  rw [← show fA n = a from ofNat_field _ _ (by omega)]
  exact if_pos (by omega)

theorem binwait (a : BitVec 5) : Statement (.binwait a) := by
  refine of_word rfl ?_
  have h_a := a.isLt
  rw [rFmt_toNat _ _ _ _ _ (by omega)]
  obtain ⟨n, hn⟩ : ∃ n, 0x31 * 67108864 + 0 * 2097152 + a.toNat * 65536 + 0 * 2048 + 0x60 = n := ⟨_, rfl⟩
  rw [hn]
  rw [at_31 (by omega)]
  unfold decode31
  rw [show n / 32 % 64 = 3 by omega]
  rw [← show fA n = a from ofNat_field _ _ (by omega)]
  exact if_pos (by omega)

theorem tagset (a : BitVec 5) : Statement (.tagset a) := by
  refine of_word rfl ?_
  have h_a := a.isLt
  rw [rFmt_toNat _ _ _ _ _ (by omega)]
  obtain ⟨n, hn⟩ : ∃ n, 0x34 * 67108864 + 0 * 2097152 + a.toNat * 65536 + 0 * 2048 + 0x20 = n := ⟨_, rfl⟩
  rw [hn]
  rw [at_34 (by omega)]
  unfold decode34
  rw [show n / 32 % 64 = 1 by omega]
  rw [← show fA n = a from ofNat_field _ _ (by omega)]
  exact if_pos (by omega)

theorem tagtest (d : BitVec 5) (a : BitVec 5) : Statement (.tagtest d a) := by
  refine of_word rfl ?_
  have h_d := d.isLt
  have h_a := a.isLt
  rw [rFmt_toNat _ _ _ _ _ (by omega)]
  obtain ⟨n, hn⟩ : ∃ n, 0x34 * 67108864 + d.toNat * 2097152 + a.toNat * 65536 + 0 * 2048 + 0x40 = n := ⟨_, rfl⟩
  rw [hn]
  rw [at_34 (by omega)]
  unfold decode34
  rw [show n / 32 % 64 = 2 by omega]
  rw [← show fD n = d from ofNat_field _ _ (by omega), ← show fA n = a from ofNat_field _ _ (by omega)]
  exact if_pos (by omega)

theorem rget (d : BitVec 5) (a : BitVec 5) (b : BitVec 5) : Statement (.rget d a b) := by
  refine of_word rfl ?_
  have h_d := d.isLt
  have h_a := a.isLt
  have h_b := b.isLt
  rw [rFmt_toNat _ _ _ _ _ (by omega)]
  obtain ⟨n, hn⟩ : ∃ n, 0x35 * 67108864 + d.toNat * 2097152 + a.toNat * 65536 + b.toNat * 2048 + 0 = n := ⟨_, rfl⟩
  rw [hn]
  rw [at_35 (by omega)]
  unfold decode35
  rw [show n / 32 % 64 = 0 by omega]
  rw [← show fD n = d from ofNat_field _ _ (by omega), ← show fA n = a from ofNat_field _ _ (by omega), ← show fB n = b from ofNat_field _ _ (by omega)]
  exact if_pos (by omega)

theorem rput (d : BitVec 5) (a : BitVec 5) : Statement (.rput d a) := by
  refine of_word rfl ?_
  have h_d := d.isLt
  have h_a := a.isLt
  rw [rFmt_toNat _ _ _ _ _ (by omega)]
  obtain ⟨n, hn⟩ : ∃ n, 0x35 * 67108864 + d.toNat * 2097152 + a.toNat * 65536 + 0 * 2048 + 0x20 = n := ⟨_, rfl⟩
  rw [hn]
  rw [at_35 (by omega)]
  unfold decode35
  rw [show n / 32 % 64 = 1 by omega]
  rw [← show fD n = d from ofNat_field _ _ (by omega), ← show fA n = a from ofNat_field _ _ (by omega)]
  exact if_pos (by omega)

theorem ratom (d : BitVec 5) (a : BitVec 5) (b : BitVec 5) (c : BitVec 4) (w : BitVec 1) : Statement (.ratom d a b c w) := by
  refine of_word rfl ?_
  have h_d := d.isLt
  have h_a := a.isLt
  have h_b := b.isLt
  have h_c := c.isLt
  have h_w := w.isLt
  rw [rFmt_toNat _ _ _ _ _ (by omega)]
  obtain ⟨n, hn⟩ : ∃ n, 0x35 * 67108864 + d.toNat * 2097152 + a.toNat * 65536 + b.toNat * 2048 + (0x40 + c.toNat * 2 + w.toNat) = n := ⟨_, rfl⟩
  rw [hn]
  rw [at_35 (by omega)]
  unfold decode35
  rw [show n / 32 % 64 = 2 by omega]
  rw [← show fD n = d from ofNat_field _ _ (by omega), ← show fA n = a from ofNat_field _ _ (by omega), ← show fB n = b from ofNat_field _ _ (by omega), ← show fld 1 4 n = c from ofNat_field _ _ (by omega), ← show BitVec.ofNat 1 n = w from ofNat_field _ _ (by omega)]
  rfl

theorem cred (a : BitVec 5) : Statement (.cred a) := by
  refine of_word rfl ?_
  have h_a := a.isLt
  rw [rFmt_toNat _ _ _ _ _ (by omega)]
  obtain ⟨n, hn⟩ : ∃ n, 0x35 * 67108864 + 0 * 2097152 + a.toNat * 65536 + 0 * 2048 + 0x80 = n := ⟨_, rfl⟩
  rw [hn]
  rw [at_35 (by omega)]
  unfold decode35
  rw [show n / 32 % 64 = 4 by omega]
  rw [← show fA n = a from ofNat_field _ _ (by omega)]
  exact if_pos (by omega)

theorem cbcast (a : BitVec 5) : Statement (.cbcast a) := by
  refine of_word rfl ?_
  have h_a := a.isLt
  rw [rFmt_toNat _ _ _ _ _ (by omega)]
  obtain ⟨n, hn⟩ : ∃ n, 0x35 * 67108864 + 0 * 2097152 + a.toNat * 65536 + 0 * 2048 + 0xa0 = n := ⟨_, rfl⟩
  rw [hn]
  rw [at_35 (by omega)]
  unfold decode35
  rw [show n / 32 % 64 = 5 by omega]
  rw [← show fA n = a from ofNat_field _ _ (by omega)]
  exact if_pos (by omega)

theorem vsetl (d : BitVec 5) (a : BitVec 5) (g : BitVec 3) (e : BitVec 3) (f : BitVec 3) : Statement (.vsetl d a g e f) := by
  refine of_word rfl ?_
  have h_d := d.isLt
  have h_a := a.isLt
  have h_g := g.isLt
  have h_e := e.isLt
  have h_f := f.isLt
  rw [cFmt_toNat _ _ _ _ (by omega)]
  obtain ⟨n, hn⟩ : ∃ n, 0x39 * 67108864 + d.toNat * 2097152 + 0 * 524288 + (a.toNat * 16384 + g.toNat * 64 + e.toNat * 8 + f.toNat) = n := ⟨_, rfl⟩
  rw [hn]
  rw [at_39 (by omega)]
  unfold decode39
  rw [show n / 524288 % 4 = 0 by omega]
  rw [← show fD n = d from ofNat_field _ _ (by omega), ← show fld 14 5 n = a from ofNat_field _ _ (by omega), ← show fld 6 3 n = g from ofNat_field _ _ (by omega), ← show fld 3 3 n = e from ofNat_field _ _ (by omega), ← show BitVec.ofNat 3 n = f from ofNat_field _ _ (by omega)]
  exact if_pos (by omega)

theorem vsetli (d : BitVec 5) (v : BitVec 10) (g : BitVec 3) (e : BitVec 3) (f : BitVec 3) : Statement (.vsetli d v g e f) := by
  refine of_word rfl ?_
  have h_d := d.isLt
  have h_v := v.isLt
  have h_g := g.isLt
  have h_e := e.isLt
  have h_f := f.isLt
  rw [cFmt_toNat _ _ _ _ (by omega)]
  obtain ⟨n, hn⟩ : ∃ n, 0x39 * 67108864 + d.toNat * 2097152 + 1 * 524288 + (v.toNat * 512 + g.toNat * 64 + e.toNat * 8 + f.toNat) = n := ⟨_, rfl⟩
  rw [hn]
  rw [at_39 (by omega)]
  unfold decode39
  rw [show n / 524288 % 4 = 1 by omega]
  rw [← show fD n = d from ofNat_field _ _ (by omega), ← show fld 9 10 n = v from ofNat_field _ _ (by omega), ← show fld 6 3 n = g from ofNat_field _ _ (by omega), ← show fld 3 3 n = e from ofNat_field _ _ (by omega), ← show BitVec.ofNat 3 n = f from ofNat_field _ _ (by omega)]
  rfl

theorem setmode (d : BitVec 5) (l : BitVec 4) (m : BitVec 15) : Statement (.setmode d l m) := by
  refine of_word rfl ?_
  have h_d := d.isLt
  have h_l := l.isLt
  have h_m := m.isLt
  rw [cFmt_toNat _ _ _ _ (by omega)]
  obtain ⟨n, hn⟩ : ∃ n, 0x39 * 67108864 + d.toNat * 2097152 + 2 * 524288 + (l.toNat * 32768 + m.toNat) = n := ⟨_, rfl⟩
  rw [hn]
  rw [at_39 (by omega)]
  unfold decode39
  rw [show n / 524288 % 4 = 2 by omega]
  rw [← show fD n = d from ofNat_field _ _ (by omega), ← show fld 15 4 n = l from ofNat_field _ _ (by omega), ← show BitVec.ofNat 15 n = m from ofNat_field _ _ (by omega)]
  rfl

theorem setmodev (d : BitVec 5) (a : BitVec 5) : Statement (.setmodev d a) := by
  refine of_word rfl ?_
  have h_d := d.isLt
  have h_a := a.isLt
  rw [cFmt_toNat _ _ _ _ (by omega)]
  obtain ⟨n, hn⟩ : ∃ n, 0x39 * 67108864 + d.toNat * 2097152 + 3 * 524288 + (a.toNat * 16384) = n := ⟨_, rfl⟩
  rw [hn]
  rw [at_39 (by omega)]
  unfold decode39
  rw [show n / 524288 % 4 = 3 by omega]
  rw [← show fD n = d from ofNat_field _ _ (by omega), ← show fld 14 5 n = a from ofNat_field _ _ (by omega)]
  exact if_pos (by omega)

theorem ldhi (d : BitVec 5) (q : BitVec 2) (i : BitVec 16) : Statement (.ldhi d q i) := by
  refine of_word rfl ?_
  have h_d := d.isLt
  have h_q := q.isLt
  have h_i := i.isLt
  rw [iFmt_toNat _ _ _ _ (by omega)]
  obtain ⟨n, hn⟩ : ∃ n, 0x04 * 67108864 + d.toNat * 2097152 + q.toNat * 65536 + i.toNat = n := ⟨_, rfl⟩
  rw [hn]
  rw [at_04 (by omega)]
  unfold decode04
  rw [← show fD n = d from ofNat_field _ _ (by omega), ← show fld 16 2 n = q from ofNat_field _ _ (by omega), ← show BitVec.ofNat 16 n = i from ofNat_field _ _ (by omega)]
  exact if_pos (by omega)

theorem addpc (d : BitVec 5) (i : BitVec 16) : Statement (.addpc d i) := by
  refine of_word rfl ?_
  have h_d := d.isLt
  have h_i := i.isLt
  rw [iFmt_toNat _ _ _ _ (by omega)]
  obtain ⟨n, hn⟩ : ∃ n, 0x05 * 67108864 + d.toNat * 2097152 + 0 * 65536 + i.toNat = n := ⟨_, rfl⟩
  rw [hn]
  rw [at_05 (by omega)]
  unfold decode05
  rw [← show fD n = d from ofNat_field _ _ (by omega), ← show BitVec.ofNat 16 n = i from ofNat_field _ _ (by omega)]
  exact if_pos (by omega)

theorem jal (i : BitVec 26) : Statement (.jal i) := by
  refine of_word rfl ?_
  have h_i := i.isLt
  rw [jFmt_toNat _ _ (by omega)]
  obtain ⟨n, hn⟩ : ∃ n, 0x0A * 67108864 + i.toNat = n := ⟨_, rfl⟩
  rw [hn]
  rw [at_0A (by omega)]
  unfold decode0A
  rw [← show BitVec.ofNat 26 n = i from ofNat_field _ _ (by omega)]

theorem jalr (d : BitVec 5) (a : BitVec 5) (i : BitVec 16) : Statement (.jalr d a i) := by
  refine of_word rfl ?_
  have h_d := d.isLt
  have h_a := a.isLt
  have h_i := i.isLt
  rw [iFmt_toNat _ _ _ _ (by omega)]
  obtain ⟨n, hn⟩ : ∃ n, 0x0B * 67108864 + d.toNat * 2097152 + a.toNat * 65536 + i.toNat = n := ⟨_, rfl⟩
  rw [hn]
  rw [at_0B (by omega)]
  unfold decode0B
  rw [← show fD n = d from ofNat_field _ _ (by omega), ← show fA n = a from ofNat_field _ _ (by omega), ← show BitVec.ofNat 16 n = i from ofNat_field _ _ (by omega)]

theorem rep (c : BitVec 6) (s : BitVec 3) (t : BitVec 2) : Statement (.rep c s t) := by
  refine of_word rfl ?_
  have h_c := c.isLt
  have h_s := s.isLt
  have h_t := t.isLt
  rw [jFmt_toNat _ _ (by omega)]
  obtain ⟨n, hn⟩ : ∃ n, 0x38 * 67108864 + (c.toNat * 1048576 + s.toNat * 131072 + t.toNat * 32768) = n := ⟨_, rfl⟩
  rw [hn]
  rw [at_38 (by omega)]
  unfold decode38
  rw [← show fld 20 6 n = c from ofNat_field _ _ (by omega), ← show fld 17 3 n = s from ofNat_field _ _ (by omega), ← show fld 15 2 n = t from ofNat_field _ _ (by omega)]
  exact if_pos (by omega)

theorem eret : Statement .eret := by
  refine of_word rfl ?_
  rw [iFmt_toNat _ _ _ _ (by omega)]
  obtain ⟨n, hn⟩ : ∃ n, 0x0F * 67108864 + 0 * 2097152 + 0 * 65536 + 0x5000 = n := ⟨_, rfl⟩
  rw [hn]
  rw [at_0F (by omega)]
  unfold decode0F
  rw [show n / 4096 % 16 = 5 by omega]
  exact if_pos (by omega)

theorem yield : Statement .yield := by
  refine of_word rfl ?_
  rw [iFmt_toNat _ _ _ _ (by omega)]
  obtain ⟨n, hn⟩ : ∃ n, 0x0F * 67108864 + 0 * 2097152 + 0 * 65536 + 0x7000 = n := ⟨_, rfl⟩
  rw [hn]
  rw [at_0F (by omega)]
  unfold decode0F
  rw [show n / 4096 % 16 = 7 by omega]
  exact if_pos (by omega)

theorem vsync : Statement .vsync := by
  refine of_word rfl ?_
  rw [iFmt_toNat _ _ _ _ (by omega)]
  obtain ⟨n, hn⟩ : ∃ n, 0x0F * 67108864 + 0 * 2097152 + 0 * 65536 + 0x8000 = n := ⟨_, rfl⟩
  rw [hn]
  rw [at_0F (by omega)]
  unfold decode0F
  rw [show n / 4096 % 16 = 8 by omega]
  exact if_pos (by omega)

theorem tend : Statement .tend := by
  refine of_word rfl ?_
  rw [rFmt_toNat _ _ _ _ _ (by omega)]
  obtain ⟨n, hn⟩ : ∃ n, 0x34 * 67108864 + 0 * 2097152 + 0 * 65536 + 0 * 2048 + 0 = n := ⟨_, rfl⟩
  rw [hn]
  rw [at_34 (by omega)]
  unfold decode34
  rw [show n / 32 % 64 = 0 by omega]
  exact if_pos (by omega)

theorem rflush : Statement .rflush := by
  refine of_word rfl ?_
  rw [rFmt_toNat _ _ _ _ _ (by omega)]
  obtain ⟨n, hn⟩ : ∃ n, 0x35 * 67108864 + 0 * 2097152 + 0 * 65536 + 0 * 2048 + 0x60 = n := ⟨_, rfl⟩
  rw [hn]
  rw [at_35 (by omega)]
  unfold decode35
  rw [show n / 32 % 64 = 3 by omega]
  exact if_pos (by omega)

theorem microOperationIssue (n j : Nat) (e : DataError) : Statement (.microOperationIssue n j e) :=
  of_none rfl

theorem vectorCommit (n j : Nat) (w : WriteBack) : Statement (.vectorCommit n j w) :=
  of_none rfl

theorem heldInstructionRetire (n : Nat) : Statement (.heldInstructionRetire n) :=
  of_none rfl

theorem hartWake (n : Nat) : Statement (.hartWake n) :=
  of_none rfl

theorem waitwRecheck (n : Nat) : Statement (.waitwRecheck n) :=
  of_none rfl

theorem blockDispatch (n : Nat) : Statement (.blockDispatch n) :=
  of_none rfl

theorem commandClaimRegistration (e : EngineKind) (k : Nat) : Statement (.commandClaimRegistration e k) :=
  of_none rfl

theorem copyCommandRun (core : Nat) : Statement (.copyCommandRun core) :=
  of_none rfl

theorem tileWatchdogExpiry (lv : Level) (k : Nat) (base : Nat) : Statement (.tileWatchdogExpiry lv k base) :=
  of_none rfl

theorem topologyCommandRun (die : Nat) : Statement (.topologyCommandRun die) :=
  of_none rfl

theorem colouringCommandRun (die : Nat) : Statement (.colouringCommandRun die) :=
  of_none rfl

theorem binAppendWrite (die : Nat) : Statement (.binAppendWrite die) :=
  of_none rfl

theorem binningCommandRun (die : Nat) : Statement (.binningCommandRun die) :=
  of_none rfl

theorem hodTileTransfer (t : TileData) : Statement (.hodTileTransfer t) :=
  of_none rfl

theorem remoteRequestAtPeer (src : BitVec 8) (ctx : Nat) (q : PeerRequest) : Statement (.remoteRequestAtPeer src ctx q) :=
  of_none rfl

theorem peerAccessArrival (src : BitVec 8) (ctx : Nat) (q : PeerAccess) : Statement (.peerAccessArrival src ctx q) :=
  of_none rfl

theorem collectiveComplete (id : Nat) (agree : Bool) (parts : List (Nat × List Byte)) : Statement (.collectiveComplete id agree parts) :=
  of_none rfl

theorem collectiveTimeout (id : Nat) : Statement (.collectiveTimeout id) :=
  of_none rfl

theorem kick (w : BitVec 4) (bits : Word) : Statement (.kick w bits) :=
  of_none rfl

theorem take (w : BitVec 4) (bits : Word) : Statement (.take w bits) :=
  of_none rfl

theorem slotTake (slot : Nat) : Statement (.slotTake slot) :=
  of_none rfl

theorem kernelNodeLaunch (slot : Nat) (node : Nat) : Statement (.kernelNodeLaunch slot node) :=
  of_none rfl

theorem launchPacket (die : Nat) (slot : Nat) (node : Nat) : Statement (.launchPacket die slot node) :=
  of_none rfl

theorem copyNode (slot : Nat) (node : Nat) : Statement (.copyNode slot node) :=
  of_none rfl

theorem conditionalNode (slot : Nat) (node : Nat) : Statement (.conditionalNode slot node) :=
  of_none rfl

theorem switchNode (slot : Nat) (node : Nat) : Statement (.switchNode slot node) :=
  of_none rfl

theorem loopNode (slot : Nat) (node : Nat) : Statement (.loopNode slot node) :=
  of_none rfl

theorem loopBodyEnd (slot : Nat) (node : Nat) : Statement (.loopBodyEnd slot node) :=
  of_none rfl

theorem eventWaitNode (slot : Nat) (node : Nat) : Statement (.eventWaitNode slot node) :=
  of_none rfl

theorem eventSignalNode (slot : Nat) (node : Nat) : Statement (.eventSignalNode slot node) :=
  of_none rfl

theorem selfTestNode (slot : Nat) (node : Nat) : Statement (.selfTestNode slot node) :=
  of_none rfl

theorem endNode (slot : Nat) (node : Nat) : Statement (.endNode slot node) :=
  of_none rfl

theorem nodeCompletion (slot : Nat) (node : Nat) : Statement (.nodeCompletion slot node) :=
  of_none rfl

theorem completionAcknowledge (die : Nat) (slot : Nat) (node : Nat) : Statement (.completionAcknowledge die slot node) :=
  of_none rfl

theorem replayEnd (slot : Nat) : Statement (.replayEnd slot) :=
  of_none rfl

theorem heartbeatTimeout : Statement .heartbeatTimeout :=
  of_none rfl

theorem controlHartMemoryError (n : Nat) (addr : Word) (e : CtlError) : Statement (.controlHartMemoryError n addr e) :=
  of_none rfl

theorem takeoverTimeout : Statement .takeoverTimeout :=
  of_none rfl

theorem ctxkick (bits : Word) : Statement (.ctxkick bits) :=
  of_none rfl

theorem inval (bits : Word) : Statement (.inval bits) :=
  of_none rfl

theorem translationInvalidationComplete (ctx : Nat) : Statement (.translationInvalidationComplete ctx) :=
  of_none rfl

theorem preempt (bits : Word) : Statement (.preempt bits) :=
  of_none rfl

theorem preemptAcknowledge (ctx : Nat) (u : StopUnit) : Statement (.preemptAcknowledge ctx u) :=
  of_none rfl

theorem preemptTimeout (ctx : Nat) (u : StopUnit) : Statement (.preemptTimeout ctx u) :=
  of_none rfl

theorem resume (bits : Word) : Statement (.resume bits) :=
  of_none rfl

theorem inboundPostedWrite (port : Nat) (fn : Nat) (tgt : HostTarget) (data : List Byte) : Statement (.inboundPostedWrite port fn tgt data) :=
  of_none rfl

theorem inboundGo (port num : Nat) (go : Go) : Statement (.inboundGo port num go) :=
  of_none rfl

theorem inboundAcknowledgement (port : Nat) (num : Nat) (home : Nat) : Statement (.inboundAcknowledgement port num home) :=
  of_none rfl

theorem hostReadRequest (port : Nat) (fn : Nat) (tgt : HostTarget) (len : Nat) : Statement (.hostReadRequest port fn tgt len) :=
  of_none rfl

theorem releaseRecord (bank : Nat) (idx : Nat) : Statement (.releaseRecord bank idx) :=
  of_none rfl

theorem retireChannel (die : Nat) (ch : Nat) : Statement (.retireChannel die ch) :=
  of_none rfl

theorem releaseReserve (die : Nat) : Statement (.releaseReserve die) :=
  of_none rfl

theorem setPatrol (die : Nat) (hours : Nat) : Statement (.setPatrol die hours) :=
  of_none rfl

theorem setSelftest (period : Nat) : Statement (.setSelftest period) :=
  of_none rfl

theorem setRelayshare (die : Nat) (share : Nat) : Statement (.setRelayshare die share) :=
  of_none rfl

theorem readCoverage (die : Nat) : Statement (.readCoverage die) :=
  of_none rfl

theorem setDeviceNumber (d : Nat) : Statement (.setDeviceNumber d) :=
  of_none rfl

theorem writeRoute (d : Nat) (mask : Nat) : Statement (.writeRoute d mask) :=
  of_none rfl

theorem spdmRequest (q : SpdmRequest) : Statement (.spdmRequest q) :=
  of_none rfl

theorem firmwareUpdate (q : UpdateRequest) : Statement (.firmwareUpdate q) :=
  of_none rfl

theorem svnAdvance : Statement .svnAdvance :=
  of_none rfl

theorem injectCorrectable (u : Nat) (off : Nat) (mask : Word) (cnt : BitVec 8) : Statement (.injectCorrectable u off mask cnt) :=
  of_none rfl

theorem injectUncorrectable (u : Nat) (off : Nat) (mask : Word) (cnt : BitVec 8) : Statement (.injectUncorrectable u off mask cnt) :=
  of_none rfl

theorem injectPoison (u : Nat) (off : Nat) (cnt : BitVec 8) : Statement (.injectPoison u off cnt) :=
  of_none rfl

theorem injectFailChannel (u : Nat) (ch : Nat) : Statement (.injectFailChannel u ch) :=
  of_none rfl

theorem channelFailure (die : Nat) (ch : Nat) : Statement (.channelFailure die ch) :=
  of_none rfl

theorem relayGranuleMove (die : Nat) (count : Nat) : Statement (.relayGranuleMove die count) :=
  of_none rfl

theorem spareRebuild (die : Nat) : Statement (.spareRebuild die) :=
  of_none rfl

theorem patrolPeriodStart (die : Nat) : Statement (.patrolPeriodStart die) :=
  of_none rfl

theorem patrolRead (die : Nat) (region : Nat) : Statement (.patrolRead die region) :=
  of_none rfl

theorem alertBackoff (die : Nat) (bank : Nat) (postponed : Nat) : Statement (.alertBackoff die bank postponed) :=
  of_none rfl

theorem retentionEntry (lv : Level) (k : Nat) (arr : Nat) : Statement (.retentionEntry lv k arr) :=
  of_none rfl

theorem retentionExit (lv : Level) (k : Nat) (arr : Nat) (corrected : Nat) : Statement (.retentionExit lv k arr corrected) :=
  of_none rfl

theorem housekeeperSelfTest (core : Nat) (full : Bool) : Statement (.housekeeperSelfTest core full) :=
  of_none rfl

theorem selfTestEnd (core : Nat) (pass : Bool) (block : Nat) : Statement (.selfTestEnd core pass block) :=
  of_none rfl

theorem selfTestLimit (core : Nat) : Statement (.selfTestLimit core) :=
  of_none rfl

theorem selfTestAbandon (core : Nat) : Statement (.selfTestAbandon core) :=
  of_none rfl

theorem powerMeasurement (watts : Nat) : Statement (.powerMeasurement watts) :=
  of_none rfl

theorem clockRaise : Statement .clockRaise :=
  of_none rfl

theorem thermalLimit (sn : Sensor) (celsius : Nat) : Statement (.thermalLimit sn celsius) :=
  of_none rfl

theorem idleEntry (die : Nat) : Statement (.idleEntry die) :=
  of_none rfl

theorem standbyRequest : Statement .standbyRequest :=
  of_none rfl

theorem powerLoss : Statement .powerLoss :=
  of_none rfl

theorem coldReset (strap : Word) (t : Option Training) (badCores : List Nat) : Statement (.coldReset strap t badCores) :=
  of_none rfl

theorem warmReset (t : Option Training) (badCores : List Nat) : Statement (.warmReset t badCores) :=
  of_none rfl

theorem beydinPortDown (e : LinkError) : Statement (.beydinPortDown e) :=
  of_none rfl

theorem pciePortDown (p : Nat) (e : AerError) : Statement (.pciePortDown p e) :=
  of_none rfl

theorem registerWrite (target : Nat) (off : Nat) (v : Word) : Statement (.registerWrite target off v) :=
  of_none rfl

theorem wordNotAnInstruction (w : IWord) : Statement (.wordNotAnInstruction w) :=
  of_none rfl

theorem instructionFetchFault (denied : Bool) (va : Word) : Statement (.instructionFetchFault denied va) :=
  of_none rfl

theorem streamReadAhead (n : Nat) (r : BitVec 2) : Statement (.streamReadAhead n r) :=
  of_none rfl

theorem peerReply (n : Nat) (dev : Nat) (status : Nat) : Statement (.peerReply n dev status) :=
  of_none rfl

theorem controlHartReload (n : Nat) (pass : Bool) : Statement (.controlHartReload n pass) :=
  of_none rfl

theorem standbyExit : Statement .standbyExit :=
  of_none rfl

end Sys2Proof.Laws.RoundTrip
end

