-- ==== Sys2Proof/Laws/State.lean ====
section
/-! SUPPORT. What each update of a state or a hart leaves in each field. -/

namespace Sys2Proof.Machine

/-! ### State.setS -/

@[simp] theorem State.setS_hart (s : State) (r : SReg) (v : Word) : (s.setS r v).hart = s.hart.writeS r v := rfl
@[simp] theorem State.setS_parked (s : State) (r : SReg) (v : Word) : (s.setS r v).parked = s.parked := rfl
@[simp] theorem State.setS_agenda (s : State) (r : SReg) (v : Word) : (s.setS r v).agenda = s.agenda := rfl
@[simp] theorem State.setS_mem (s : State) (r : SReg) (v : Word) : (s.setS r v).mem = s.mem := rfl
@[simp] theorem State.setS_clock (s : State) (r : SReg) (v : Word) : (s.setS r v).clock = s.clock := rfl
@[simp] theorem State.setS_ticks (s : State) (r : SReg) (v : Word) : (s.setS r v).ticks = s.ticks := rfl
@[simp] theorem State.setS_stamp (s : State) (r : SReg) (v : Word) : (s.setS r v).stamp = s.stamp := rfl
@[simp] theorem State.setS_tlb (s : State) (r : SReg) (v : Word) : (s.setS r v).tlb = s.tlb := rfl
@[simp] theorem State.setS_tiles (s : State) (r : SReg) (v : Word) : (s.setS r v).tiles = s.tiles := rfl
@[simp] theorem State.setS_claims (s : State) (r : SReg) (v : Word) : (s.setS r v).claims = s.claims := rfl
@[simp] theorem State.setS_cmds (s : State) (r : SReg) (v : Word) : (s.setS r v).cmds = s.cmds := rfl
@[simp] theorem State.setS_fe (s : State) (r : SReg) (v : Word) : (s.setS r v).fe = s.fe := rfl
@[simp] theorem State.setS_cx (s : State) (r : SReg) (v : Word) : (s.setS r v).cx = s.cx := rfl
@[simp] theorem State.setS_rel (s : State) (r : SReg) (v : Word) : (s.setS r v).rel = s.rel := rfl
@[simp] theorem State.setS_pow (s : State) (r : SReg) (v : Word) : (s.setS r v).pow = s.pow := rfl
@[simp] theorem State.setS_fab (s : State) (r : SReg) (v : Word) : (s.setS r v).fab = s.fab := rfl
@[simp] theorem State.setS_host (s : State) (r : SReg) (v : Word) : (s.setS r v).host = s.host := rfl
@[simp] theorem State.setS_fw (s : State) (r : SReg) (v : Word) : (s.setS r v).fw = s.fw := rfl
@[simp] theorem State.setS_peers (s : State) (r : SReg) (v : Word) : (s.setS r v).peers = s.peers := rfl

/-! ### State.setPc -/

@[simp] theorem State.setPc_hart (s : State) (v : Word) : (s.setPc v).hart = { s.hart with pc := v } := rfl
@[simp] theorem State.setPc_parked (s : State) (v : Word) : (s.setPc v).parked = s.parked := rfl
@[simp] theorem State.setPc_agenda (s : State) (v : Word) : (s.setPc v).agenda = s.agenda := rfl
@[simp] theorem State.setPc_mem (s : State) (v : Word) : (s.setPc v).mem = s.mem := rfl
@[simp] theorem State.setPc_clock (s : State) (v : Word) : (s.setPc v).clock = s.clock := rfl
@[simp] theorem State.setPc_ticks (s : State) (v : Word) : (s.setPc v).ticks = s.ticks := rfl
@[simp] theorem State.setPc_stamp (s : State) (v : Word) : (s.setPc v).stamp = s.stamp := rfl
@[simp] theorem State.setPc_tlb (s : State) (v : Word) : (s.setPc v).tlb = s.tlb := rfl
@[simp] theorem State.setPc_tiles (s : State) (v : Word) : (s.setPc v).tiles = s.tiles := rfl
@[simp] theorem State.setPc_claims (s : State) (v : Word) : (s.setPc v).claims = s.claims := rfl
@[simp] theorem State.setPc_cmds (s : State) (v : Word) : (s.setPc v).cmds = s.cmds := rfl
@[simp] theorem State.setPc_fe (s : State) (v : Word) : (s.setPc v).fe = s.fe := rfl
@[simp] theorem State.setPc_cx (s : State) (v : Word) : (s.setPc v).cx = s.cx := rfl
@[simp] theorem State.setPc_rel (s : State) (v : Word) : (s.setPc v).rel = s.rel := rfl
@[simp] theorem State.setPc_pow (s : State) (v : Word) : (s.setPc v).pow = s.pow := rfl
@[simp] theorem State.setPc_fab (s : State) (v : Word) : (s.setPc v).fab = s.fab := rfl
@[simp] theorem State.setPc_host (s : State) (v : Word) : (s.setPc v).host = s.host := rfl
@[simp] theorem State.setPc_fw (s : State) (v : Word) : (s.setPc v).fw = s.fw := rfl
@[simp] theorem State.setPc_peers (s : State) (v : Word) : (s.setPc v).peers = s.peers := rfl

/-! ### State.retire -/

@[simp] theorem State.retire_hart (s : State) (n : Nat) : (s.retire n).hart = { s.hart with retired := s.hart.retired + BitVec.ofNat 64 n } := rfl
@[simp] theorem State.retire_parked (s : State) (n : Nat) : (s.retire n).parked = s.parked := rfl
@[simp] theorem State.retire_agenda (s : State) (n : Nat) : (s.retire n).agenda = s.agenda := rfl
@[simp] theorem State.retire_mem (s : State) (n : Nat) : (s.retire n).mem = s.mem := rfl
@[simp] theorem State.retire_clock (s : State) (n : Nat) : (s.retire n).clock = s.clock := rfl
@[simp] theorem State.retire_ticks (s : State) (n : Nat) : (s.retire n).ticks = s.ticks := rfl
@[simp] theorem State.retire_stamp (s : State) (n : Nat) : (s.retire n).stamp = s.stamp := rfl
@[simp] theorem State.retire_tlb (s : State) (n : Nat) : (s.retire n).tlb = s.tlb := rfl
@[simp] theorem State.retire_tiles (s : State) (n : Nat) : (s.retire n).tiles = s.tiles := rfl
@[simp] theorem State.retire_claims (s : State) (n : Nat) : (s.retire n).claims = s.claims := rfl
@[simp] theorem State.retire_cmds (s : State) (n : Nat) : (s.retire n).cmds = s.cmds := rfl
@[simp] theorem State.retire_fe (s : State) (n : Nat) : (s.retire n).fe = s.fe := rfl
@[simp] theorem State.retire_cx (s : State) (n : Nat) : (s.retire n).cx = s.cx := rfl
@[simp] theorem State.retire_rel (s : State) (n : Nat) : (s.retire n).rel = s.rel := rfl
@[simp] theorem State.retire_pow (s : State) (n : Nat) : (s.retire n).pow = s.pow := rfl
@[simp] theorem State.retire_fab (s : State) (n : Nat) : (s.retire n).fab = s.fab := rfl
@[simp] theorem State.retire_host (s : State) (n : Nat) : (s.retire n).host = s.host := rfl
@[simp] theorem State.retire_fw (s : State) (n : Nat) : (s.retire n).fw = s.fw := rfl
@[simp] theorem State.retire_peers (s : State) (n : Nat) : (s.retire n).peers = s.peers := rfl

/-! ### State.past -/

@[simp] theorem State.past_hart (s : State) : (s.past).hart = { s.hart with retired := s.hart.retired + BitVec.ofNat 64 1, pc := s.hart.pc + 4 } := rfl
@[simp] theorem State.past_parked (s : State) : (s.past).parked = s.parked := rfl
@[simp] theorem State.past_agenda (s : State) : (s.past).agenda = s.agenda := rfl
@[simp] theorem State.past_mem (s : State) : (s.past).mem = s.mem := rfl
@[simp] theorem State.past_clock (s : State) : (s.past).clock = s.clock := rfl
@[simp] theorem State.past_ticks (s : State) : (s.past).ticks = s.ticks := rfl
@[simp] theorem State.past_stamp (s : State) : (s.past).stamp = s.stamp := rfl
@[simp] theorem State.past_tlb (s : State) : (s.past).tlb = s.tlb := rfl
@[simp] theorem State.past_tiles (s : State) : (s.past).tiles = s.tiles := rfl
@[simp] theorem State.past_claims (s : State) : (s.past).claims = s.claims := rfl
@[simp] theorem State.past_cmds (s : State) : (s.past).cmds = s.cmds := rfl
@[simp] theorem State.past_fe (s : State) : (s.past).fe = s.fe := rfl
@[simp] theorem State.past_cx (s : State) : (s.past).cx = s.cx := rfl
@[simp] theorem State.past_rel (s : State) : (s.past).rel = s.rel := rfl
@[simp] theorem State.past_pow (s : State) : (s.past).pow = s.pow := rfl
@[simp] theorem State.past_fab (s : State) : (s.past).fab = s.fab := rfl
@[simp] theorem State.past_host (s : State) : (s.past).host = s.host := rfl
@[simp] theorem State.past_fw (s : State) : (s.past).fw = s.fw := rfl
@[simp] theorem State.past_peers (s : State) : (s.past).peers = s.peers := rfl

/-! ### State.waits -/

@[simp] theorem State.waits_hart (s : State) : (s.waits).hart = { s.hart with st := .waiting } := rfl
@[simp] theorem State.waits_parked (s : State) : (s.waits).parked = s.parked := rfl
@[simp] theorem State.waits_agenda (s : State) : (s.waits).agenda = s.agenda := rfl
@[simp] theorem State.waits_mem (s : State) : (s.waits).mem = s.mem := rfl
@[simp] theorem State.waits_clock (s : State) : (s.waits).clock = s.clock := rfl
@[simp] theorem State.waits_ticks (s : State) : (s.waits).ticks = s.ticks := rfl
@[simp] theorem State.waits_stamp (s : State) : (s.waits).stamp = s.stamp := rfl
@[simp] theorem State.waits_tlb (s : State) : (s.waits).tlb = s.tlb := rfl
@[simp] theorem State.waits_tiles (s : State) : (s.waits).tiles = s.tiles := rfl
@[simp] theorem State.waits_claims (s : State) : (s.waits).claims = s.claims := rfl
@[simp] theorem State.waits_cmds (s : State) : (s.waits).cmds = s.cmds := rfl
@[simp] theorem State.waits_fe (s : State) : (s.waits).fe = s.fe := rfl
@[simp] theorem State.waits_cx (s : State) : (s.waits).cx = s.cx := rfl
@[simp] theorem State.waits_rel (s : State) : (s.waits).rel = s.rel := rfl
@[simp] theorem State.waits_pow (s : State) : (s.waits).pow = s.pow := rfl
@[simp] theorem State.waits_fab (s : State) : (s.waits).fab = s.fab := rfl
@[simp] theorem State.waits_host (s : State) : (s.waits).host = s.host := rfl
@[simp] theorem State.waits_fw (s : State) : (s.waits).fw = s.fw := rfl
@[simp] theorem State.waits_peers (s : State) : (s.waits).peers = s.peers := rfl

/-! ### State.setRepidx -/

@[simp] theorem State.setRepidx_hart (s : State) (n : Nat) : (s.setRepidx n).hart = { s.hart with repidx := BitVec.ofNat 6 n } := rfl
@[simp] theorem State.setRepidx_parked (s : State) (n : Nat) : (s.setRepidx n).parked = s.parked := rfl
@[simp] theorem State.setRepidx_agenda (s : State) (n : Nat) : (s.setRepidx n).agenda = s.agenda := rfl
@[simp] theorem State.setRepidx_mem (s : State) (n : Nat) : (s.setRepidx n).mem = s.mem := rfl
@[simp] theorem State.setRepidx_clock (s : State) (n : Nat) : (s.setRepidx n).clock = s.clock := rfl
@[simp] theorem State.setRepidx_ticks (s : State) (n : Nat) : (s.setRepidx n).ticks = s.ticks := rfl
@[simp] theorem State.setRepidx_stamp (s : State) (n : Nat) : (s.setRepidx n).stamp = s.stamp := rfl
@[simp] theorem State.setRepidx_tlb (s : State) (n : Nat) : (s.setRepidx n).tlb = s.tlb := rfl
@[simp] theorem State.setRepidx_tiles (s : State) (n : Nat) : (s.setRepidx n).tiles = s.tiles := rfl
@[simp] theorem State.setRepidx_claims (s : State) (n : Nat) : (s.setRepidx n).claims = s.claims := rfl
@[simp] theorem State.setRepidx_cmds (s : State) (n : Nat) : (s.setRepidx n).cmds = s.cmds := rfl
@[simp] theorem State.setRepidx_fe (s : State) (n : Nat) : (s.setRepidx n).fe = s.fe := rfl
@[simp] theorem State.setRepidx_cx (s : State) (n : Nat) : (s.setRepidx n).cx = s.cx := rfl
@[simp] theorem State.setRepidx_rel (s : State) (n : Nat) : (s.setRepidx n).rel = s.rel := rfl
@[simp] theorem State.setRepidx_pow (s : State) (n : Nat) : (s.setRepidx n).pow = s.pow := rfl
@[simp] theorem State.setRepidx_fab (s : State) (n : Nat) : (s.setRepidx n).fab = s.fab := rfl
@[simp] theorem State.setRepidx_host (s : State) (n : Nat) : (s.setRepidx n).host = s.host := rfl
@[simp] theorem State.setRepidx_fw (s : State) (n : Nat) : (s.setRepidx n).fw = s.fw := rfl
@[simp] theorem State.setRepidx_peers (s : State) (n : Nat) : (s.setRepidx n).peers = s.peers := rfl

/-! ### State.setTile -/

@[simp] theorem State.setTile_hart (s : State) (t : Tile) : (s.setTile t).hart = s.hart := rfl
@[simp] theorem State.setTile_parked (s : State) (t : Tile) : (s.setTile t).parked = s.parked := rfl
@[simp] theorem State.setTile_agenda (s : State) (t : Tile) : (s.setTile t).agenda = s.agenda := rfl
@[simp] theorem State.setTile_mem (s : State) (t : Tile) : (s.setTile t).mem = s.mem := rfl
@[simp] theorem State.setTile_clock (s : State) (t : Tile) : (s.setTile t).clock = s.clock := rfl
@[simp] theorem State.setTile_ticks (s : State) (t : Tile) : (s.setTile t).ticks = s.ticks := rfl
@[simp] theorem State.setTile_stamp (s : State) (t : Tile) : (s.setTile t).stamp = s.stamp := rfl
@[simp] theorem State.setTile_tlb (s : State) (t : Tile) : (s.setTile t).tlb = s.tlb := rfl
@[simp] theorem State.setTile_tiles (s : State) (t : Tile) : (s.setTile t).tiles = s.tiles.map fun u => if u.lv = t.lv ∧ u.inst = t.inst ∧ u.base = t.base then t else u := rfl
@[simp] theorem State.setTile_claims (s : State) (t : Tile) : (s.setTile t).claims = s.claims := rfl
@[simp] theorem State.setTile_cmds (s : State) (t : Tile) : (s.setTile t).cmds = s.cmds := rfl
@[simp] theorem State.setTile_fe (s : State) (t : Tile) : (s.setTile t).fe = s.fe := rfl
@[simp] theorem State.setTile_cx (s : State) (t : Tile) : (s.setTile t).cx = s.cx := rfl
@[simp] theorem State.setTile_rel (s : State) (t : Tile) : (s.setTile t).rel = s.rel := rfl
@[simp] theorem State.setTile_pow (s : State) (t : Tile) : (s.setTile t).pow = s.pow := rfl
@[simp] theorem State.setTile_fab (s : State) (t : Tile) : (s.setTile t).fab = s.fab := rfl
@[simp] theorem State.setTile_host (s : State) (t : Tile) : (s.setTile t).host = s.host := rfl
@[simp] theorem State.setTile_fw (s : State) (t : Tile) : (s.setTile t).fw = s.fw := rfl
@[simp] theorem State.setTile_peers (s : State) (t : Tile) : (s.setTile t).peers = s.peers := rfl

/-! ### State.setMemSt -/

@[simp] theorem State.setMemSt_hart (s : State) (d : Nat) (m : MemSt) : (s.setMemSt d m).hart = s.hart := rfl
@[simp] theorem State.setMemSt_parked (s : State) (d : Nat) (m : MemSt) : (s.setMemSt d m).parked = s.parked := rfl
@[simp] theorem State.setMemSt_agenda (s : State) (d : Nat) (m : MemSt) : (s.setMemSt d m).agenda = s.agenda := rfl
@[simp] theorem State.setMemSt_mem (s : State) (d : Nat) (m : MemSt) : (s.setMemSt d m).mem = s.mem := rfl
@[simp] theorem State.setMemSt_clock (s : State) (d : Nat) (m : MemSt) : (s.setMemSt d m).clock = s.clock := rfl
@[simp] theorem State.setMemSt_ticks (s : State) (d : Nat) (m : MemSt) : (s.setMemSt d m).ticks = s.ticks := rfl
@[simp] theorem State.setMemSt_stamp (s : State) (d : Nat) (m : MemSt) : (s.setMemSt d m).stamp = s.stamp := rfl
@[simp] theorem State.setMemSt_tlb (s : State) (d : Nat) (m : MemSt) : (s.setMemSt d m).tlb = s.tlb := rfl
@[simp] theorem State.setMemSt_tiles (s : State) (d : Nat) (m : MemSt) : (s.setMemSt d m).tiles = s.tiles := rfl
@[simp] theorem State.setMemSt_claims (s : State) (d : Nat) (m : MemSt) : (s.setMemSt d m).claims = s.claims := rfl
@[simp] theorem State.setMemSt_cmds (s : State) (d : Nat) (m : MemSt) : (s.setMemSt d m).cmds = s.cmds := rfl
@[simp] theorem State.setMemSt_fe (s : State) (d : Nat) (m : MemSt) : (s.setMemSt d m).fe = s.fe := rfl
@[simp] theorem State.setMemSt_cx (s : State) (d : Nat) (m : MemSt) : (s.setMemSt d m).cx = s.cx := rfl
@[simp] theorem State.setMemSt_rel (s : State) (d : Nat) (m : MemSt) : (s.setMemSt d m).rel = { s.rel with mems := Table.set s.rel.mems d m } := rfl
@[simp] theorem State.setMemSt_pow (s : State) (d : Nat) (m : MemSt) : (s.setMemSt d m).pow = s.pow := rfl
@[simp] theorem State.setMemSt_fab (s : State) (d : Nat) (m : MemSt) : (s.setMemSt d m).fab = s.fab := rfl
@[simp] theorem State.setMemSt_host (s : State) (d : Nat) (m : MemSt) : (s.setMemSt d m).host = s.host := rfl
@[simp] theorem State.setMemSt_fw (s : State) (d : Nat) (m : MemSt) : (s.setMemSt d m).fw = s.fw := rfl
@[simp] theorem State.setMemSt_peers (s : State) (d : Nat) (m : MemSt) : (s.setMemSt d m).peers = s.peers := rfl

/-! ### State.setCtx -/

@[simp] theorem State.setCtx_hart (s : State) (c : Nat) (x : Ctx) : (s.setCtx c x).hart = s.hart := rfl
@[simp] theorem State.setCtx_parked (s : State) (c : Nat) (x : Ctx) : (s.setCtx c x).parked = s.parked := rfl
@[simp] theorem State.setCtx_agenda (s : State) (c : Nat) (x : Ctx) : (s.setCtx c x).agenda = s.agenda := rfl
@[simp] theorem State.setCtx_mem (s : State) (c : Nat) (x : Ctx) : (s.setCtx c x).mem = s.mem := rfl
@[simp] theorem State.setCtx_clock (s : State) (c : Nat) (x : Ctx) : (s.setCtx c x).clock = s.clock := rfl
@[simp] theorem State.setCtx_ticks (s : State) (c : Nat) (x : Ctx) : (s.setCtx c x).ticks = s.ticks := rfl
@[simp] theorem State.setCtx_stamp (s : State) (c : Nat) (x : Ctx) : (s.setCtx c x).stamp = s.stamp := rfl
@[simp] theorem State.setCtx_tlb (s : State) (c : Nat) (x : Ctx) : (s.setCtx c x).tlb = s.tlb := rfl
@[simp] theorem State.setCtx_tiles (s : State) (c : Nat) (x : Ctx) : (s.setCtx c x).tiles = s.tiles := rfl
@[simp] theorem State.setCtx_claims (s : State) (c : Nat) (x : Ctx) : (s.setCtx c x).claims = s.claims := rfl
@[simp] theorem State.setCtx_cmds (s : State) (c : Nat) (x : Ctx) : (s.setCtx c x).cmds = s.cmds := rfl
@[simp] theorem State.setCtx_fe (s : State) (c : Nat) (x : Ctx) : (s.setCtx c x).fe = s.fe := rfl
@[simp] theorem State.setCtx_cx (s : State) (c : Nat) (x : Ctx) : (s.setCtx c x).cx = { s.cx with ctxs := Table.set s.cx.ctxs c x } := rfl
@[simp] theorem State.setCtx_rel (s : State) (c : Nat) (x : Ctx) : (s.setCtx c x).rel = s.rel := rfl
@[simp] theorem State.setCtx_pow (s : State) (c : Nat) (x : Ctx) : (s.setCtx c x).pow = s.pow := rfl
@[simp] theorem State.setCtx_fab (s : State) (c : Nat) (x : Ctx) : (s.setCtx c x).fab = s.fab := rfl
@[simp] theorem State.setCtx_host (s : State) (c : Nat) (x : Ctx) : (s.setCtx c x).host = s.host := rfl
@[simp] theorem State.setCtx_fw (s : State) (c : Nat) (x : Ctx) : (s.setCtx c x).fw = s.fw := rfl
@[simp] theorem State.setCtx_peers (s : State) (c : Nat) (x : Ctx) : (s.setCtx c x).peers = s.peers := rfl

/-! ### State.setBank -/

@[simp] theorem State.setBank_hart (s : State) (b : Nat) (k : Bank) : (s.setBank b k).hart = s.hart := rfl
@[simp] theorem State.setBank_parked (s : State) (b : Nat) (k : Bank) : (s.setBank b k).parked = s.parked := rfl
@[simp] theorem State.setBank_agenda (s : State) (b : Nat) (k : Bank) : (s.setBank b k).agenda = s.agenda := rfl
@[simp] theorem State.setBank_mem (s : State) (b : Nat) (k : Bank) : (s.setBank b k).mem = s.mem := rfl
@[simp] theorem State.setBank_clock (s : State) (b : Nat) (k : Bank) : (s.setBank b k).clock = s.clock := rfl
@[simp] theorem State.setBank_ticks (s : State) (b : Nat) (k : Bank) : (s.setBank b k).ticks = s.ticks := rfl
@[simp] theorem State.setBank_stamp (s : State) (b : Nat) (k : Bank) : (s.setBank b k).stamp = s.stamp := rfl
@[simp] theorem State.setBank_tlb (s : State) (b : Nat) (k : Bank) : (s.setBank b k).tlb = s.tlb := rfl
@[simp] theorem State.setBank_tiles (s : State) (b : Nat) (k : Bank) : (s.setBank b k).tiles = s.tiles := rfl
@[simp] theorem State.setBank_claims (s : State) (b : Nat) (k : Bank) : (s.setBank b k).claims = s.claims := rfl
@[simp] theorem State.setBank_cmds (s : State) (b : Nat) (k : Bank) : (s.setBank b k).cmds = s.cmds := rfl
@[simp] theorem State.setBank_fe (s : State) (b : Nat) (k : Bank) : (s.setBank b k).fe = s.fe := rfl
@[simp] theorem State.setBank_cx (s : State) (b : Nat) (k : Bank) : (s.setBank b k).cx = s.cx := rfl
@[simp] theorem State.setBank_rel (s : State) (b : Nat) (k : Bank) : (s.setBank b k).rel = { s.rel with banks := Table.set s.rel.banks b k } := rfl
@[simp] theorem State.setBank_pow (s : State) (b : Nat) (k : Bank) : (s.setBank b k).pow = s.pow := rfl
@[simp] theorem State.setBank_fab (s : State) (b : Nat) (k : Bank) : (s.setBank b k).fab = s.fab := rfl
@[simp] theorem State.setBank_host (s : State) (b : Nat) (k : Bank) : (s.setBank b k).host = s.host := rfl
@[simp] theorem State.setBank_fw (s : State) (b : Nat) (k : Bank) : (s.setBank b k).fw = s.fw := rfl
@[simp] theorem State.setBank_peers (s : State) (b : Nat) (k : Bank) : (s.setBank b k).peers = s.peers := rfl

/-! ### State.count -/

@[simp] theorem State.count_hart (s : State) (off : Nat) : (s.count off).hart = s.hart := rfl
@[simp] theorem State.count_parked (s : State) (off : Nat) : (s.count off).parked = s.parked := rfl
@[simp] theorem State.count_agenda (s : State) (off : Nat) : (s.count off).agenda = s.agenda := rfl
@[simp] theorem State.count_mem (s : State) (off : Nat) : (s.count off).mem = s.mem := rfl
@[simp] theorem State.count_clock (s : State) (off : Nat) : (s.count off).clock = s.clock := rfl
@[simp] theorem State.count_ticks (s : State) (off : Nat) : (s.count off).ticks = s.ticks := rfl
@[simp] theorem State.count_stamp (s : State) (off : Nat) : (s.count off).stamp = s.stamp := rfl
@[simp] theorem State.count_tlb (s : State) (off : Nat) : (s.count off).tlb = s.tlb := rfl
@[simp] theorem State.count_tiles (s : State) (off : Nat) : (s.count off).tiles = s.tiles := rfl
@[simp] theorem State.count_claims (s : State) (off : Nat) : (s.count off).claims = s.claims := rfl
@[simp] theorem State.count_cmds (s : State) (off : Nat) : (s.count off).cmds = s.cmds := rfl
@[simp] theorem State.count_fe (s : State) (off : Nat) : (s.count off).fe = s.fe := rfl
@[simp] theorem State.count_cx (s : State) (off : Nat) : (s.count off).cx = s.cx := rfl
@[simp] theorem State.count_rel (s : State) (off : Nat) : (s.count off).rel = { s.rel with tele := Table.set s.rel.tele off (Table.get s.rel.tele off 0 + 1) } := rfl
@[simp] theorem State.count_pow (s : State) (off : Nat) : (s.count off).pow = s.pow := rfl
@[simp] theorem State.count_fab (s : State) (off : Nat) : (s.count off).fab = s.fab := rfl
@[simp] theorem State.count_host (s : State) (off : Nat) : (s.count off).host = s.host := rfl
@[simp] theorem State.count_fw (s : State) (off : Nat) : (s.count off).fw = s.fw := rfl
@[simp] theorem State.count_peers (s : State) (off : Nat) : (s.count off).peers = s.peers := rfl

/-! ### Hart.raise -/

@[simp] theorem Hart.raise_num (h : Hart) (f : Flags) : (h.raise f).num = h.num := rfl
@[simp] theorem Hart.raise_st (h : Hart) (f : Flags) : (h.raise f).st = h.st := rfl
@[simp] theorem Hart.raise_regs (h : Hart) (f : Flags) : (h.raise f).regs = h.regs := rfl
@[simp] theorem Hart.raise_vregs (h : Hart) (f : Flags) : (h.raise f).vregs = h.vregs := rfl
@[simp] theorem Hart.raise_tags (h : Hart) (f : Flags) : (h.raise f).tags = h.tags := rfl
@[simp] theorem Hart.raise_preds (h : Hart) (f : Flags) : (h.raise f).preds = h.preds := rfl
@[simp] theorem Hart.raise_pc (h : Hart) (f : Flags) : (h.raise f).pc = h.pc := rfl
@[simp] theorem Hart.raise_vl (h : Hart) (f : Flags) : (h.raise f).vl = h.vl := rfl
@[simp] theorem Hart.raise_vlmax (h : Hart) (f : Flags) : (h.raise f).vlmax = h.vlmax := rfl
@[simp] theorem Hart.raise_vstart (h : Hart) (f : Flags) : (h.raise f).vstart = h.vstart := rfl
@[simp] theorem Hart.raise_mstart (h : Hart) (f : Flags) : (h.raise f).mstart = h.mstart := rfl
@[simp] theorem Hart.raise_repidx (h : Hart) (f : Flags) : (h.raise f).repidx = h.repidx := rfl
@[simp] theorem Hart.raise_vcfg (h : Hart) (f : Flags) : (h.raise f).vcfg = h.vcfg := rfl
@[simp] theorem Hart.raise_mode (h : Hart) (f : Flags) : (h.raise f).mode = h.mode := rfl
@[simp] theorem Hart.raise_fflags (h : Hart) (f : Flags) : (h.raise f).fflags = h.fflags ||| f.bits := rfl
@[simp] theorem Hart.raise_xstatus (h : Hart) (f : Flags) : (h.raise f).xstatus = h.xstatus := rfl
@[simp] theorem Hart.raise_xcause (h : Hart) (f : Flags) : (h.raise f).xcause = h.xcause := rfl
@[simp] theorem Hart.raise_xepc (h : Hart) (f : Flags) : (h.raise f).xepc = h.xepc := rfl
@[simp] theorem Hart.raise_xtval (h : Hart) (f : Flags) : (h.raise f).xtval = h.xtval := rfl
@[simp] theorem Hart.raise_xvec (h : Hart) (f : Flags) : (h.raise f).xvec = h.xvec := rfl
@[simp] theorem Hart.raise_xscratch (h : Hart) (f : Flags) : (h.raise f).xscratch = h.xscratch := rfl
@[simp] theorem Hart.raise_heapbase (h : Hart) (f : Flags) : (h.raise f).heapbase = h.heapbase := rfl
@[simp] theorem Hart.raise_heaplim (h : Hart) (f : Flags) : (h.raise f).heaplim = h.heaplim := rfl
@[simp] theorem Hart.raise_heapoff (h : Hart) (f : Flags) : (h.raise f).heapoff = h.heapoff := rfl
@[simp] theorem Hart.raise_ptroot (h : Hart) (f : Flags) : (h.raise f).ptroot = h.ptroot := rfl
@[simp] theorem Hart.raise_ctxcfg (h : Hart) (f : Flags) : (h.raise f).ctxcfg = h.ctxcfg := rfl
@[simp] theorem Hart.raise_atmem (h : Hart) (f : Flags) : (h.raise f).atmem = h.atmem := rfl
@[simp] theorem Hart.raise_atscr (h : Hart) (f : Flags) : (h.raise f).atscr = h.atscr := rfl
@[simp] theorem Hart.raise_atiod (h : Hart) (f : Flags) : (h.raise f).atiod = h.atiod := rfl
@[simp] theorem Hart.raise_atport (h : Hart) (f : Flags) : (h.raise f).atport = h.atport := rfl
@[simp] theorem Hart.raise_ctxid (h : Hart) (f : Flags) : (h.raise f).ctxid = h.ctxid := rfl
@[simp] theorem Hart.raise_blklo (h : Hart) (f : Flags) : (h.raise f).blklo = h.blklo := rfl
@[simp] theorem Hart.raise_blkhi (h : Hart) (f : Flags) : (h.raise f).blkhi = h.blkhi := rfl
@[simp] theorem Hart.raise_slot (h : Hart) (f : Flags) : (h.raise f).slot = h.slot := rfl
@[simp] theorem Hart.raise_node (h : Hart) (f : Flags) : (h.raise f).node = h.node := rfl
@[simp] theorem Hart.raise_gen (h : Hart) (f : Flags) : (h.raise f).gen = h.gen := rfl
@[simp] theorem Hart.raise_retired (h : Hart) (f : Flags) : (h.raise f).retired = h.retired := rfl
@[simp] theorem Hart.raise_streams (h : Hart) (f : Flags) : (h.raise f).streams = h.streams := rfl
@[simp] theorem Hart.raise_arming (h : Hart) (f : Flags) : (h.raise f).arming = h.arming := rfl
@[simp] theorem Hart.raise_vcommit (h : Hart) (f : Flags) : (h.raise f).vcommit = h.vcommit := rfl
@[simp] theorem Hart.raise_yielded (h : Hart) (f : Flags) : (h.raise f).yielded = h.yielded := rfl
@[simp] theorem Hart.raise_relMark (h : Hart) (f : Flags) : (h.raise f).relMark = h.relMark := rfl
@[simp] theorem Hart.raise_scatter (h : Hart) (f : Flags) : (h.raise f).scatter = h.scatter := rfl
@[simp] theorem Hart.raise_asked (h : Hart) (f : Flags) : (h.raise f).asked = h.asked := rfl
@[simp] theorem Hart.raise_replies (h : Hart) (f : Flags) : (h.raise f).replies = h.replies := rfl
@[simp] theorem Hart.raise_block (h : Hart) (f : Flags) : (h.raise f).block = h.block := rfl

/-! ### Hart.setTag -/

@[simp] theorem Hart.setTag_num (h : Hart) (n : Nat) (t : BitVec 6) : (h.setTag n t).num = h.num := rfl
@[simp] theorem Hart.setTag_st (h : Hart) (n : Nat) (t : BitVec 6) : (h.setTag n t).st = h.st := rfl
@[simp] theorem Hart.setTag_regs (h : Hart) (n : Nat) (t : BitVec 6) : (h.setTag n t).regs = h.regs := rfl
@[simp] theorem Hart.setTag_vregs (h : Hart) (n : Nat) (t : BitVec 6) : (h.setTag n t).vregs = h.vregs := rfl
@[simp] theorem Hart.setTag_tags (h : Hart) (n : Nat) (t : BitVec 6) : (h.setTag n t).tags = h.tags.setIfInBounds n t := rfl
@[simp] theorem Hart.setTag_preds (h : Hart) (n : Nat) (t : BitVec 6) : (h.setTag n t).preds = h.preds := rfl
@[simp] theorem Hart.setTag_pc (h : Hart) (n : Nat) (t : BitVec 6) : (h.setTag n t).pc = h.pc := rfl
@[simp] theorem Hart.setTag_vl (h : Hart) (n : Nat) (t : BitVec 6) : (h.setTag n t).vl = h.vl := rfl
@[simp] theorem Hart.setTag_vlmax (h : Hart) (n : Nat) (t : BitVec 6) : (h.setTag n t).vlmax = h.vlmax := rfl
@[simp] theorem Hart.setTag_vstart (h : Hart) (n : Nat) (t : BitVec 6) : (h.setTag n t).vstart = h.vstart := rfl
@[simp] theorem Hart.setTag_mstart (h : Hart) (n : Nat) (t : BitVec 6) : (h.setTag n t).mstart = h.mstart := rfl
@[simp] theorem Hart.setTag_repidx (h : Hart) (n : Nat) (t : BitVec 6) : (h.setTag n t).repidx = h.repidx := rfl
@[simp] theorem Hart.setTag_vcfg (h : Hart) (n : Nat) (t : BitVec 6) : (h.setTag n t).vcfg = h.vcfg := rfl
@[simp] theorem Hart.setTag_mode (h : Hart) (n : Nat) (t : BitVec 6) : (h.setTag n t).mode = h.mode := rfl
@[simp] theorem Hart.setTag_fflags (h : Hart) (n : Nat) (t : BitVec 6) : (h.setTag n t).fflags = h.fflags := rfl
@[simp] theorem Hart.setTag_xstatus (h : Hart) (n : Nat) (t : BitVec 6) : (h.setTag n t).xstatus = h.xstatus := rfl
@[simp] theorem Hart.setTag_xcause (h : Hart) (n : Nat) (t : BitVec 6) : (h.setTag n t).xcause = h.xcause := rfl
@[simp] theorem Hart.setTag_xepc (h : Hart) (n : Nat) (t : BitVec 6) : (h.setTag n t).xepc = h.xepc := rfl
@[simp] theorem Hart.setTag_xtval (h : Hart) (n : Nat) (t : BitVec 6) : (h.setTag n t).xtval = h.xtval := rfl
@[simp] theorem Hart.setTag_xvec (h : Hart) (n : Nat) (t : BitVec 6) : (h.setTag n t).xvec = h.xvec := rfl
@[simp] theorem Hart.setTag_xscratch (h : Hart) (n : Nat) (t : BitVec 6) : (h.setTag n t).xscratch = h.xscratch := rfl
@[simp] theorem Hart.setTag_heapbase (h : Hart) (n : Nat) (t : BitVec 6) : (h.setTag n t).heapbase = h.heapbase := rfl
@[simp] theorem Hart.setTag_heaplim (h : Hart) (n : Nat) (t : BitVec 6) : (h.setTag n t).heaplim = h.heaplim := rfl
@[simp] theorem Hart.setTag_heapoff (h : Hart) (n : Nat) (t : BitVec 6) : (h.setTag n t).heapoff = h.heapoff := rfl
@[simp] theorem Hart.setTag_ptroot (h : Hart) (n : Nat) (t : BitVec 6) : (h.setTag n t).ptroot = h.ptroot := rfl
@[simp] theorem Hart.setTag_ctxcfg (h : Hart) (n : Nat) (t : BitVec 6) : (h.setTag n t).ctxcfg = h.ctxcfg := rfl
@[simp] theorem Hart.setTag_atmem (h : Hart) (n : Nat) (t : BitVec 6) : (h.setTag n t).atmem = h.atmem := rfl
@[simp] theorem Hart.setTag_atscr (h : Hart) (n : Nat) (t : BitVec 6) : (h.setTag n t).atscr = h.atscr := rfl
@[simp] theorem Hart.setTag_atiod (h : Hart) (n : Nat) (t : BitVec 6) : (h.setTag n t).atiod = h.atiod := rfl
@[simp] theorem Hart.setTag_atport (h : Hart) (n : Nat) (t : BitVec 6) : (h.setTag n t).atport = h.atport := rfl
@[simp] theorem Hart.setTag_ctxid (h : Hart) (n : Nat) (t : BitVec 6) : (h.setTag n t).ctxid = h.ctxid := rfl
@[simp] theorem Hart.setTag_blklo (h : Hart) (n : Nat) (t : BitVec 6) : (h.setTag n t).blklo = h.blklo := rfl
@[simp] theorem Hart.setTag_blkhi (h : Hart) (n : Nat) (t : BitVec 6) : (h.setTag n t).blkhi = h.blkhi := rfl
@[simp] theorem Hart.setTag_slot (h : Hart) (n : Nat) (t : BitVec 6) : (h.setTag n t).slot = h.slot := rfl
@[simp] theorem Hart.setTag_node (h : Hart) (n : Nat) (t : BitVec 6) : (h.setTag n t).node = h.node := rfl
@[simp] theorem Hart.setTag_gen (h : Hart) (n : Nat) (t : BitVec 6) : (h.setTag n t).gen = h.gen := rfl
@[simp] theorem Hart.setTag_retired (h : Hart) (n : Nat) (t : BitVec 6) : (h.setTag n t).retired = h.retired := rfl
@[simp] theorem Hart.setTag_streams (h : Hart) (n : Nat) (t : BitVec 6) : (h.setTag n t).streams = h.streams := rfl
@[simp] theorem Hart.setTag_arming (h : Hart) (n : Nat) (t : BitVec 6) : (h.setTag n t).arming = h.arming := rfl
@[simp] theorem Hart.setTag_vcommit (h : Hart) (n : Nat) (t : BitVec 6) : (h.setTag n t).vcommit = h.vcommit := rfl
@[simp] theorem Hart.setTag_yielded (h : Hart) (n : Nat) (t : BitVec 6) : (h.setTag n t).yielded = h.yielded := rfl
@[simp] theorem Hart.setTag_relMark (h : Hart) (n : Nat) (t : BitVec 6) : (h.setTag n t).relMark = h.relMark := rfl
@[simp] theorem Hart.setTag_scatter (h : Hart) (n : Nat) (t : BitVec 6) : (h.setTag n t).scatter = h.scatter := rfl
@[simp] theorem Hart.setTag_asked (h : Hart) (n : Nat) (t : BitVec 6) : (h.setTag n t).asked = h.asked := rfl
@[simp] theorem Hart.setTag_replies (h : Hart) (n : Nat) (t : BitVec 6) : (h.setTag n t).replies = h.replies := rfl
@[simp] theorem Hart.setTag_block (h : Hart) (n : Nat) (t : BitVec 6) : (h.setTag n t).block = h.block := rfl

/-! ### Hart.writeV -/

@[simp] theorem Hart.writeV_num (h : Hart) (n : Nat) (v : VWord) : (h.writeV n v).num = h.num := rfl
@[simp] theorem Hart.writeV_st (h : Hart) (n : Nat) (v : VWord) : (h.writeV n v).st = h.st := rfl
@[simp] theorem Hart.writeV_regs (h : Hart) (n : Nat) (v : VWord) : (h.writeV n v).regs = h.regs := rfl
@[simp] theorem Hart.writeV_vregs (h : Hart) (n : Nat) (v : VWord) : (h.writeV n v).vregs = h.vregs.setIfInBounds n v := rfl
@[simp] theorem Hart.writeV_tags (h : Hart) (n : Nat) (v : VWord) : (h.writeV n v).tags = h.tags := rfl
@[simp] theorem Hart.writeV_preds (h : Hart) (n : Nat) (v : VWord) : (h.writeV n v).preds = h.preds := rfl
@[simp] theorem Hart.writeV_pc (h : Hart) (n : Nat) (v : VWord) : (h.writeV n v).pc = h.pc := rfl
@[simp] theorem Hart.writeV_vl (h : Hart) (n : Nat) (v : VWord) : (h.writeV n v).vl = h.vl := rfl
@[simp] theorem Hart.writeV_vlmax (h : Hart) (n : Nat) (v : VWord) : (h.writeV n v).vlmax = h.vlmax := rfl
@[simp] theorem Hart.writeV_vstart (h : Hart) (n : Nat) (v : VWord) : (h.writeV n v).vstart = h.vstart := rfl
@[simp] theorem Hart.writeV_mstart (h : Hart) (n : Nat) (v : VWord) : (h.writeV n v).mstart = h.mstart := rfl
@[simp] theorem Hart.writeV_repidx (h : Hart) (n : Nat) (v : VWord) : (h.writeV n v).repidx = h.repidx := rfl
@[simp] theorem Hart.writeV_vcfg (h : Hart) (n : Nat) (v : VWord) : (h.writeV n v).vcfg = h.vcfg := rfl
@[simp] theorem Hart.writeV_mode (h : Hart) (n : Nat) (v : VWord) : (h.writeV n v).mode = h.mode := rfl
@[simp] theorem Hart.writeV_fflags (h : Hart) (n : Nat) (v : VWord) : (h.writeV n v).fflags = h.fflags := rfl
@[simp] theorem Hart.writeV_xstatus (h : Hart) (n : Nat) (v : VWord) : (h.writeV n v).xstatus = h.xstatus := rfl
@[simp] theorem Hart.writeV_xcause (h : Hart) (n : Nat) (v : VWord) : (h.writeV n v).xcause = h.xcause := rfl
@[simp] theorem Hart.writeV_xepc (h : Hart) (n : Nat) (v : VWord) : (h.writeV n v).xepc = h.xepc := rfl
@[simp] theorem Hart.writeV_xtval (h : Hart) (n : Nat) (v : VWord) : (h.writeV n v).xtval = h.xtval := rfl
@[simp] theorem Hart.writeV_xvec (h : Hart) (n : Nat) (v : VWord) : (h.writeV n v).xvec = h.xvec := rfl
@[simp] theorem Hart.writeV_xscratch (h : Hart) (n : Nat) (v : VWord) : (h.writeV n v).xscratch = h.xscratch := rfl
@[simp] theorem Hart.writeV_heapbase (h : Hart) (n : Nat) (v : VWord) : (h.writeV n v).heapbase = h.heapbase := rfl
@[simp] theorem Hart.writeV_heaplim (h : Hart) (n : Nat) (v : VWord) : (h.writeV n v).heaplim = h.heaplim := rfl
@[simp] theorem Hart.writeV_heapoff (h : Hart) (n : Nat) (v : VWord) : (h.writeV n v).heapoff = h.heapoff := rfl
@[simp] theorem Hart.writeV_ptroot (h : Hart) (n : Nat) (v : VWord) : (h.writeV n v).ptroot = h.ptroot := rfl
@[simp] theorem Hart.writeV_ctxcfg (h : Hart) (n : Nat) (v : VWord) : (h.writeV n v).ctxcfg = h.ctxcfg := rfl
@[simp] theorem Hart.writeV_atmem (h : Hart) (n : Nat) (v : VWord) : (h.writeV n v).atmem = h.atmem := rfl
@[simp] theorem Hart.writeV_atscr (h : Hart) (n : Nat) (v : VWord) : (h.writeV n v).atscr = h.atscr := rfl
@[simp] theorem Hart.writeV_atiod (h : Hart) (n : Nat) (v : VWord) : (h.writeV n v).atiod = h.atiod := rfl
@[simp] theorem Hart.writeV_atport (h : Hart) (n : Nat) (v : VWord) : (h.writeV n v).atport = h.atport := rfl
@[simp] theorem Hart.writeV_ctxid (h : Hart) (n : Nat) (v : VWord) : (h.writeV n v).ctxid = h.ctxid := rfl
@[simp] theorem Hart.writeV_blklo (h : Hart) (n : Nat) (v : VWord) : (h.writeV n v).blklo = h.blklo := rfl
@[simp] theorem Hart.writeV_blkhi (h : Hart) (n : Nat) (v : VWord) : (h.writeV n v).blkhi = h.blkhi := rfl
@[simp] theorem Hart.writeV_slot (h : Hart) (n : Nat) (v : VWord) : (h.writeV n v).slot = h.slot := rfl
@[simp] theorem Hart.writeV_node (h : Hart) (n : Nat) (v : VWord) : (h.writeV n v).node = h.node := rfl
@[simp] theorem Hart.writeV_gen (h : Hart) (n : Nat) (v : VWord) : (h.writeV n v).gen = h.gen := rfl
@[simp] theorem Hart.writeV_retired (h : Hart) (n : Nat) (v : VWord) : (h.writeV n v).retired = h.retired := rfl
@[simp] theorem Hart.writeV_streams (h : Hart) (n : Nat) (v : VWord) : (h.writeV n v).streams = h.streams := rfl
@[simp] theorem Hart.writeV_arming (h : Hart) (n : Nat) (v : VWord) : (h.writeV n v).arming = h.arming := rfl
@[simp] theorem Hart.writeV_vcommit (h : Hart) (n : Nat) (v : VWord) : (h.writeV n v).vcommit = h.vcommit := rfl
@[simp] theorem Hart.writeV_yielded (h : Hart) (n : Nat) (v : VWord) : (h.writeV n v).yielded = h.yielded := rfl
@[simp] theorem Hart.writeV_relMark (h : Hart) (n : Nat) (v : VWord) : (h.writeV n v).relMark = h.relMark := rfl
@[simp] theorem Hart.writeV_scatter (h : Hart) (n : Nat) (v : VWord) : (h.writeV n v).scatter = h.scatter := rfl
@[simp] theorem Hart.writeV_asked (h : Hart) (n : Nat) (v : VWord) : (h.writeV n v).asked = h.asked := rfl
@[simp] theorem Hart.writeV_replies (h : Hart) (n : Nat) (v : VWord) : (h.writeV n v).replies = h.replies := rfl
@[simp] theorem Hart.writeV_block (h : Hart) (n : Nat) (v : VWord) : (h.writeV n v).block = h.block := rfl

/-! ### Hart.setStream -/

@[simp] theorem Hart.setStream_num (h : Hart) (r : Nat) (t : Stream) : (h.setStream r t).num = h.num := rfl
@[simp] theorem Hart.setStream_st (h : Hart) (r : Nat) (t : Stream) : (h.setStream r t).st = h.st := rfl
@[simp] theorem Hart.setStream_regs (h : Hart) (r : Nat) (t : Stream) : (h.setStream r t).regs = h.regs := rfl
@[simp] theorem Hart.setStream_vregs (h : Hart) (r : Nat) (t : Stream) : (h.setStream r t).vregs = h.vregs := rfl
@[simp] theorem Hart.setStream_tags (h : Hart) (r : Nat) (t : Stream) : (h.setStream r t).tags = h.tags := rfl
@[simp] theorem Hart.setStream_preds (h : Hart) (r : Nat) (t : Stream) : (h.setStream r t).preds = h.preds := rfl
@[simp] theorem Hart.setStream_pc (h : Hart) (r : Nat) (t : Stream) : (h.setStream r t).pc = h.pc := rfl
@[simp] theorem Hart.setStream_vl (h : Hart) (r : Nat) (t : Stream) : (h.setStream r t).vl = h.vl := rfl
@[simp] theorem Hart.setStream_vlmax (h : Hart) (r : Nat) (t : Stream) : (h.setStream r t).vlmax = h.vlmax := rfl
@[simp] theorem Hart.setStream_vstart (h : Hart) (r : Nat) (t : Stream) : (h.setStream r t).vstart = h.vstart := rfl
@[simp] theorem Hart.setStream_mstart (h : Hart) (r : Nat) (t : Stream) : (h.setStream r t).mstart = h.mstart := rfl
@[simp] theorem Hart.setStream_repidx (h : Hart) (r : Nat) (t : Stream) : (h.setStream r t).repidx = h.repidx := rfl
@[simp] theorem Hart.setStream_vcfg (h : Hart) (r : Nat) (t : Stream) : (h.setStream r t).vcfg = h.vcfg := rfl
@[simp] theorem Hart.setStream_mode (h : Hart) (r : Nat) (t : Stream) : (h.setStream r t).mode = h.mode := rfl
@[simp] theorem Hart.setStream_fflags (h : Hart) (r : Nat) (t : Stream) : (h.setStream r t).fflags = h.fflags := rfl
@[simp] theorem Hart.setStream_xstatus (h : Hart) (r : Nat) (t : Stream) : (h.setStream r t).xstatus = h.xstatus := rfl
@[simp] theorem Hart.setStream_xcause (h : Hart) (r : Nat) (t : Stream) : (h.setStream r t).xcause = h.xcause := rfl
@[simp] theorem Hart.setStream_xepc (h : Hart) (r : Nat) (t : Stream) : (h.setStream r t).xepc = h.xepc := rfl
@[simp] theorem Hart.setStream_xtval (h : Hart) (r : Nat) (t : Stream) : (h.setStream r t).xtval = h.xtval := rfl
@[simp] theorem Hart.setStream_xvec (h : Hart) (r : Nat) (t : Stream) : (h.setStream r t).xvec = h.xvec := rfl
@[simp] theorem Hart.setStream_xscratch (h : Hart) (r : Nat) (t : Stream) : (h.setStream r t).xscratch = h.xscratch := rfl
@[simp] theorem Hart.setStream_heapbase (h : Hart) (r : Nat) (t : Stream) : (h.setStream r t).heapbase = h.heapbase := rfl
@[simp] theorem Hart.setStream_heaplim (h : Hart) (r : Nat) (t : Stream) : (h.setStream r t).heaplim = h.heaplim := rfl
@[simp] theorem Hart.setStream_heapoff (h : Hart) (r : Nat) (t : Stream) : (h.setStream r t).heapoff = h.heapoff := rfl
@[simp] theorem Hart.setStream_ptroot (h : Hart) (r : Nat) (t : Stream) : (h.setStream r t).ptroot = h.ptroot := rfl
@[simp] theorem Hart.setStream_ctxcfg (h : Hart) (r : Nat) (t : Stream) : (h.setStream r t).ctxcfg = h.ctxcfg := rfl
@[simp] theorem Hart.setStream_atmem (h : Hart) (r : Nat) (t : Stream) : (h.setStream r t).atmem = h.atmem := rfl
@[simp] theorem Hart.setStream_atscr (h : Hart) (r : Nat) (t : Stream) : (h.setStream r t).atscr = h.atscr := rfl
@[simp] theorem Hart.setStream_atiod (h : Hart) (r : Nat) (t : Stream) : (h.setStream r t).atiod = h.atiod := rfl
@[simp] theorem Hart.setStream_atport (h : Hart) (r : Nat) (t : Stream) : (h.setStream r t).atport = h.atport := rfl
@[simp] theorem Hart.setStream_ctxid (h : Hart) (r : Nat) (t : Stream) : (h.setStream r t).ctxid = h.ctxid := rfl
@[simp] theorem Hart.setStream_blklo (h : Hart) (r : Nat) (t : Stream) : (h.setStream r t).blklo = h.blklo := rfl
@[simp] theorem Hart.setStream_blkhi (h : Hart) (r : Nat) (t : Stream) : (h.setStream r t).blkhi = h.blkhi := rfl
@[simp] theorem Hart.setStream_slot (h : Hart) (r : Nat) (t : Stream) : (h.setStream r t).slot = h.slot := rfl
@[simp] theorem Hart.setStream_node (h : Hart) (r : Nat) (t : Stream) : (h.setStream r t).node = h.node := rfl
@[simp] theorem Hart.setStream_gen (h : Hart) (r : Nat) (t : Stream) : (h.setStream r t).gen = h.gen := rfl
@[simp] theorem Hart.setStream_retired (h : Hart) (r : Nat) (t : Stream) : (h.setStream r t).retired = h.retired := rfl
@[simp] theorem Hart.setStream_streams (h : Hart) (r : Nat) (t : Stream) : (h.setStream r t).streams = h.streams.setIfInBounds r t := rfl
@[simp] theorem Hart.setStream_arming (h : Hart) (r : Nat) (t : Stream) : (h.setStream r t).arming = h.arming := rfl
@[simp] theorem Hart.setStream_vcommit (h : Hart) (r : Nat) (t : Stream) : (h.setStream r t).vcommit = h.vcommit := rfl
@[simp] theorem Hart.setStream_yielded (h : Hart) (r : Nat) (t : Stream) : (h.setStream r t).yielded = h.yielded := rfl
@[simp] theorem Hart.setStream_relMark (h : Hart) (r : Nat) (t : Stream) : (h.setStream r t).relMark = h.relMark := rfl
@[simp] theorem Hart.setStream_scatter (h : Hart) (r : Nat) (t : Stream) : (h.setStream r t).scatter = h.scatter := rfl
@[simp] theorem Hart.setStream_asked (h : Hart) (r : Nat) (t : Stream) : (h.setStream r t).asked = h.asked := rfl
@[simp] theorem Hart.setStream_replies (h : Hart) (r : Nat) (t : Stream) : (h.setStream r t).replies = h.replies := rfl
@[simp] theorem Hart.setStream_block (h : Hart) (r : Nat) (t : Stream) : (h.setStream r t).block = h.block := rfl

/-! ### Hart.writeS -/

@[simp] theorem Hart.writeS_num (h : Hart) (r : SReg) (v : Word) : (h.writeS r v).num = h.num := by unfold Hart.writeS; split <;> rfl
@[simp] theorem Hart.writeS_st (h : Hart) (r : SReg) (v : Word) : (h.writeS r v).st = h.st := by unfold Hart.writeS; split <;> rfl
@[simp] theorem Hart.writeS_vregs (h : Hart) (r : SReg) (v : Word) : (h.writeS r v).vregs = h.vregs := by unfold Hart.writeS; split <;> rfl
@[simp] theorem Hart.writeS_tags (h : Hart) (r : SReg) (v : Word) : (h.writeS r v).tags = h.tags := by unfold Hart.writeS; split <;> rfl
@[simp] theorem Hart.writeS_preds (h : Hart) (r : SReg) (v : Word) : (h.writeS r v).preds = h.preds := by unfold Hart.writeS; split <;> rfl
@[simp] theorem Hart.writeS_pc (h : Hart) (r : SReg) (v : Word) : (h.writeS r v).pc = h.pc := by unfold Hart.writeS; split <;> rfl
@[simp] theorem Hart.writeS_vl (h : Hart) (r : SReg) (v : Word) : (h.writeS r v).vl = h.vl := by unfold Hart.writeS; split <;> rfl
@[simp] theorem Hart.writeS_vlmax (h : Hart) (r : SReg) (v : Word) : (h.writeS r v).vlmax = h.vlmax := by unfold Hart.writeS; split <;> rfl
@[simp] theorem Hart.writeS_vstart (h : Hart) (r : SReg) (v : Word) : (h.writeS r v).vstart = h.vstart := by unfold Hart.writeS; split <;> rfl
@[simp] theorem Hart.writeS_mstart (h : Hart) (r : SReg) (v : Word) : (h.writeS r v).mstart = h.mstart := by unfold Hart.writeS; split <;> rfl
@[simp] theorem Hart.writeS_repidx (h : Hart) (r : SReg) (v : Word) : (h.writeS r v).repidx = h.repidx := by unfold Hart.writeS; split <;> rfl
@[simp] theorem Hart.writeS_vcfg (h : Hart) (r : SReg) (v : Word) : (h.writeS r v).vcfg = h.vcfg := by unfold Hart.writeS; split <;> rfl
@[simp] theorem Hart.writeS_mode (h : Hart) (r : SReg) (v : Word) : (h.writeS r v).mode = h.mode := by unfold Hart.writeS; split <;> rfl
@[simp] theorem Hart.writeS_fflags (h : Hart) (r : SReg) (v : Word) : (h.writeS r v).fflags = h.fflags := by unfold Hart.writeS; split <;> rfl
@[simp] theorem Hart.writeS_xstatus (h : Hart) (r : SReg) (v : Word) : (h.writeS r v).xstatus = h.xstatus := by unfold Hart.writeS; split <;> rfl
@[simp] theorem Hart.writeS_xcause (h : Hart) (r : SReg) (v : Word) : (h.writeS r v).xcause = h.xcause := by unfold Hart.writeS; split <;> rfl
@[simp] theorem Hart.writeS_xepc (h : Hart) (r : SReg) (v : Word) : (h.writeS r v).xepc = h.xepc := by unfold Hart.writeS; split <;> rfl
@[simp] theorem Hart.writeS_xtval (h : Hart) (r : SReg) (v : Word) : (h.writeS r v).xtval = h.xtval := by unfold Hart.writeS; split <;> rfl
@[simp] theorem Hart.writeS_xvec (h : Hart) (r : SReg) (v : Word) : (h.writeS r v).xvec = h.xvec := by unfold Hart.writeS; split <;> rfl
@[simp] theorem Hart.writeS_xscratch (h : Hart) (r : SReg) (v : Word) : (h.writeS r v).xscratch = h.xscratch := by unfold Hart.writeS; split <;> rfl
@[simp] theorem Hart.writeS_heapbase (h : Hart) (r : SReg) (v : Word) : (h.writeS r v).heapbase = h.heapbase := by unfold Hart.writeS; split <;> rfl
@[simp] theorem Hart.writeS_heaplim (h : Hart) (r : SReg) (v : Word) : (h.writeS r v).heaplim = h.heaplim := by unfold Hart.writeS; split <;> rfl
@[simp] theorem Hart.writeS_heapoff (h : Hart) (r : SReg) (v : Word) : (h.writeS r v).heapoff = h.heapoff := by unfold Hart.writeS; split <;> rfl
@[simp] theorem Hart.writeS_ptroot (h : Hart) (r : SReg) (v : Word) : (h.writeS r v).ptroot = h.ptroot := by unfold Hart.writeS; split <;> rfl
@[simp] theorem Hart.writeS_ctxcfg (h : Hart) (r : SReg) (v : Word) : (h.writeS r v).ctxcfg = h.ctxcfg := by unfold Hart.writeS; split <;> rfl
@[simp] theorem Hart.writeS_atmem (h : Hart) (r : SReg) (v : Word) : (h.writeS r v).atmem = h.atmem := by unfold Hart.writeS; split <;> rfl
@[simp] theorem Hart.writeS_atscr (h : Hart) (r : SReg) (v : Word) : (h.writeS r v).atscr = h.atscr := by unfold Hart.writeS; split <;> rfl
@[simp] theorem Hart.writeS_atiod (h : Hart) (r : SReg) (v : Word) : (h.writeS r v).atiod = h.atiod := by unfold Hart.writeS; split <;> rfl
@[simp] theorem Hart.writeS_atport (h : Hart) (r : SReg) (v : Word) : (h.writeS r v).atport = h.atport := by unfold Hart.writeS; split <;> rfl
@[simp] theorem Hart.writeS_ctxid (h : Hart) (r : SReg) (v : Word) : (h.writeS r v).ctxid = h.ctxid := by unfold Hart.writeS; split <;> rfl
@[simp] theorem Hart.writeS_blklo (h : Hart) (r : SReg) (v : Word) : (h.writeS r v).blklo = h.blklo := by unfold Hart.writeS; split <;> rfl
@[simp] theorem Hart.writeS_blkhi (h : Hart) (r : SReg) (v : Word) : (h.writeS r v).blkhi = h.blkhi := by unfold Hart.writeS; split <;> rfl
@[simp] theorem Hart.writeS_slot (h : Hart) (r : SReg) (v : Word) : (h.writeS r v).slot = h.slot := by unfold Hart.writeS; split <;> rfl
@[simp] theorem Hart.writeS_node (h : Hart) (r : SReg) (v : Word) : (h.writeS r v).node = h.node := by unfold Hart.writeS; split <;> rfl
@[simp] theorem Hart.writeS_gen (h : Hart) (r : SReg) (v : Word) : (h.writeS r v).gen = h.gen := by unfold Hart.writeS; split <;> rfl
@[simp] theorem Hart.writeS_retired (h : Hart) (r : SReg) (v : Word) : (h.writeS r v).retired = h.retired := by unfold Hart.writeS; split <;> rfl
@[simp] theorem Hart.writeS_streams (h : Hart) (r : SReg) (v : Word) : (h.writeS r v).streams = h.streams := by unfold Hart.writeS; split <;> rfl
@[simp] theorem Hart.writeS_arming (h : Hart) (r : SReg) (v : Word) : (h.writeS r v).arming = h.arming := by unfold Hart.writeS; split <;> rfl
@[simp] theorem Hart.writeS_vcommit (h : Hart) (r : SReg) (v : Word) : (h.writeS r v).vcommit = h.vcommit := by unfold Hart.writeS; split <;> rfl
@[simp] theorem Hart.writeS_yielded (h : Hart) (r : SReg) (v : Word) : (h.writeS r v).yielded = h.yielded := by unfold Hart.writeS; split <;> rfl
@[simp] theorem Hart.writeS_relMark (h : Hart) (r : SReg) (v : Word) : (h.writeS r v).relMark = h.relMark := by unfold Hart.writeS; split <;> rfl
@[simp] theorem Hart.writeS_scatter (h : Hart) (r : SReg) (v : Word) : (h.writeS r v).scatter = h.scatter := by unfold Hart.writeS; split <;> rfl
@[simp] theorem Hart.writeS_asked (h : Hart) (r : SReg) (v : Word) : (h.writeS r v).asked = h.asked := by unfold Hart.writeS; split <;> rfl
@[simp] theorem Hart.writeS_replies (h : Hart) (r : SReg) (v : Word) : (h.writeS r v).replies = h.replies := by unfold Hart.writeS; split <;> rfl
@[simp] theorem Hart.writeS_block (h : Hart) (r : SReg) (v : Word) : (h.writeS r v).block = h.block := by unfold Hart.writeS; split <;> rfl

/-! ### Hart.writeP -/

@[simp] theorem Hart.writeP_num (h : Hart) (p : PReg) (v : PWord) : (h.writeP p v).num = h.num := by unfold Hart.writeP; split <;> rfl
@[simp] theorem Hart.writeP_st (h : Hart) (p : PReg) (v : PWord) : (h.writeP p v).st = h.st := by unfold Hart.writeP; split <;> rfl
@[simp] theorem Hart.writeP_regs (h : Hart) (p : PReg) (v : PWord) : (h.writeP p v).regs = h.regs := by unfold Hart.writeP; split <;> rfl
@[simp] theorem Hart.writeP_vregs (h : Hart) (p : PReg) (v : PWord) : (h.writeP p v).vregs = h.vregs := by unfold Hart.writeP; split <;> rfl
@[simp] theorem Hart.writeP_tags (h : Hart) (p : PReg) (v : PWord) : (h.writeP p v).tags = h.tags := by unfold Hart.writeP; split <;> rfl
@[simp] theorem Hart.writeP_pc (h : Hart) (p : PReg) (v : PWord) : (h.writeP p v).pc = h.pc := by unfold Hart.writeP; split <;> rfl
@[simp] theorem Hart.writeP_vl (h : Hart) (p : PReg) (v : PWord) : (h.writeP p v).vl = h.vl := by unfold Hart.writeP; split <;> rfl
@[simp] theorem Hart.writeP_vlmax (h : Hart) (p : PReg) (v : PWord) : (h.writeP p v).vlmax = h.vlmax := by unfold Hart.writeP; split <;> rfl
@[simp] theorem Hart.writeP_vstart (h : Hart) (p : PReg) (v : PWord) : (h.writeP p v).vstart = h.vstart := by unfold Hart.writeP; split <;> rfl
@[simp] theorem Hart.writeP_mstart (h : Hart) (p : PReg) (v : PWord) : (h.writeP p v).mstart = h.mstart := by unfold Hart.writeP; split <;> rfl
@[simp] theorem Hart.writeP_repidx (h : Hart) (p : PReg) (v : PWord) : (h.writeP p v).repidx = h.repidx := by unfold Hart.writeP; split <;> rfl
@[simp] theorem Hart.writeP_vcfg (h : Hart) (p : PReg) (v : PWord) : (h.writeP p v).vcfg = h.vcfg := by unfold Hart.writeP; split <;> rfl
@[simp] theorem Hart.writeP_mode (h : Hart) (p : PReg) (v : PWord) : (h.writeP p v).mode = h.mode := by unfold Hart.writeP; split <;> rfl
@[simp] theorem Hart.writeP_fflags (h : Hart) (p : PReg) (v : PWord) : (h.writeP p v).fflags = h.fflags := by unfold Hart.writeP; split <;> rfl
@[simp] theorem Hart.writeP_xstatus (h : Hart) (p : PReg) (v : PWord) : (h.writeP p v).xstatus = h.xstatus := by unfold Hart.writeP; split <;> rfl
@[simp] theorem Hart.writeP_xcause (h : Hart) (p : PReg) (v : PWord) : (h.writeP p v).xcause = h.xcause := by unfold Hart.writeP; split <;> rfl
@[simp] theorem Hart.writeP_xepc (h : Hart) (p : PReg) (v : PWord) : (h.writeP p v).xepc = h.xepc := by unfold Hart.writeP; split <;> rfl
@[simp] theorem Hart.writeP_xtval (h : Hart) (p : PReg) (v : PWord) : (h.writeP p v).xtval = h.xtval := by unfold Hart.writeP; split <;> rfl
@[simp] theorem Hart.writeP_xvec (h : Hart) (p : PReg) (v : PWord) : (h.writeP p v).xvec = h.xvec := by unfold Hart.writeP; split <;> rfl
@[simp] theorem Hart.writeP_xscratch (h : Hart) (p : PReg) (v : PWord) : (h.writeP p v).xscratch = h.xscratch := by unfold Hart.writeP; split <;> rfl
@[simp] theorem Hart.writeP_heapbase (h : Hart) (p : PReg) (v : PWord) : (h.writeP p v).heapbase = h.heapbase := by unfold Hart.writeP; split <;> rfl
@[simp] theorem Hart.writeP_heaplim (h : Hart) (p : PReg) (v : PWord) : (h.writeP p v).heaplim = h.heaplim := by unfold Hart.writeP; split <;> rfl
@[simp] theorem Hart.writeP_heapoff (h : Hart) (p : PReg) (v : PWord) : (h.writeP p v).heapoff = h.heapoff := by unfold Hart.writeP; split <;> rfl
@[simp] theorem Hart.writeP_ptroot (h : Hart) (p : PReg) (v : PWord) : (h.writeP p v).ptroot = h.ptroot := by unfold Hart.writeP; split <;> rfl
@[simp] theorem Hart.writeP_ctxcfg (h : Hart) (p : PReg) (v : PWord) : (h.writeP p v).ctxcfg = h.ctxcfg := by unfold Hart.writeP; split <;> rfl
@[simp] theorem Hart.writeP_atmem (h : Hart) (p : PReg) (v : PWord) : (h.writeP p v).atmem = h.atmem := by unfold Hart.writeP; split <;> rfl
@[simp] theorem Hart.writeP_atscr (h : Hart) (p : PReg) (v : PWord) : (h.writeP p v).atscr = h.atscr := by unfold Hart.writeP; split <;> rfl
@[simp] theorem Hart.writeP_atiod (h : Hart) (p : PReg) (v : PWord) : (h.writeP p v).atiod = h.atiod := by unfold Hart.writeP; split <;> rfl
@[simp] theorem Hart.writeP_atport (h : Hart) (p : PReg) (v : PWord) : (h.writeP p v).atport = h.atport := by unfold Hart.writeP; split <;> rfl
@[simp] theorem Hart.writeP_ctxid (h : Hart) (p : PReg) (v : PWord) : (h.writeP p v).ctxid = h.ctxid := by unfold Hart.writeP; split <;> rfl
@[simp] theorem Hart.writeP_blklo (h : Hart) (p : PReg) (v : PWord) : (h.writeP p v).blklo = h.blklo := by unfold Hart.writeP; split <;> rfl
@[simp] theorem Hart.writeP_blkhi (h : Hart) (p : PReg) (v : PWord) : (h.writeP p v).blkhi = h.blkhi := by unfold Hart.writeP; split <;> rfl
@[simp] theorem Hart.writeP_slot (h : Hart) (p : PReg) (v : PWord) : (h.writeP p v).slot = h.slot := by unfold Hart.writeP; split <;> rfl
@[simp] theorem Hart.writeP_node (h : Hart) (p : PReg) (v : PWord) : (h.writeP p v).node = h.node := by unfold Hart.writeP; split <;> rfl
@[simp] theorem Hart.writeP_gen (h : Hart) (p : PReg) (v : PWord) : (h.writeP p v).gen = h.gen := by unfold Hart.writeP; split <;> rfl
@[simp] theorem Hart.writeP_retired (h : Hart) (p : PReg) (v : PWord) : (h.writeP p v).retired = h.retired := by unfold Hart.writeP; split <;> rfl
@[simp] theorem Hart.writeP_streams (h : Hart) (p : PReg) (v : PWord) : (h.writeP p v).streams = h.streams := by unfold Hart.writeP; split <;> rfl
@[simp] theorem Hart.writeP_arming (h : Hart) (p : PReg) (v : PWord) : (h.writeP p v).arming = h.arming := by unfold Hart.writeP; split <;> rfl
@[simp] theorem Hart.writeP_vcommit (h : Hart) (p : PReg) (v : PWord) : (h.writeP p v).vcommit = h.vcommit := by unfold Hart.writeP; split <;> rfl
@[simp] theorem Hart.writeP_yielded (h : Hart) (p : PReg) (v : PWord) : (h.writeP p v).yielded = h.yielded := by unfold Hart.writeP; split <;> rfl
@[simp] theorem Hart.writeP_relMark (h : Hart) (p : PReg) (v : PWord) : (h.writeP p v).relMark = h.relMark := by unfold Hart.writeP; split <;> rfl
@[simp] theorem Hart.writeP_scatter (h : Hart) (p : PReg) (v : PWord) : (h.writeP p v).scatter = h.scatter := by unfold Hart.writeP; split <;> rfl
@[simp] theorem Hart.writeP_asked (h : Hart) (p : PReg) (v : PWord) : (h.writeP p v).asked = h.asked := by unfold Hart.writeP; split <;> rfl
@[simp] theorem Hart.writeP_replies (h : Hart) (p : PReg) (v : PWord) : (h.writeP p v).replies = h.replies := by unfold Hart.writeP; split <;> rfl
@[simp] theorem Hart.writeP_block (h : Hart) (p : PReg) (v : PWord) : (h.writeP p v).block = h.block := by unfold Hart.writeP; split <;> rfl

/-! ### Hart.restart -/

@[simp] theorem Hart.restart_num (h : Hart) : h.restart.num = h.num := rfl
@[simp] theorem Hart.restart_st (h : Hart) : h.restart.st = h.st := rfl
@[simp] theorem Hart.restart_regs (h : Hart) : h.restart.regs = h.regs := rfl
@[simp] theorem Hart.restart_vregs (h : Hart) : h.restart.vregs = h.vregs := rfl
@[simp] theorem Hart.restart_tags (h : Hart) : h.restart.tags = h.tags := rfl
@[simp] theorem Hart.restart_preds (h : Hart) : h.restart.preds = h.preds := rfl
@[simp] theorem Hart.restart_pc (h : Hart) : h.restart.pc = h.pc := rfl
@[simp] theorem Hart.restart_vl (h : Hart) : h.restart.vl = h.vl := rfl
@[simp] theorem Hart.restart_vlmax (h : Hart) : h.restart.vlmax = h.vlmax := rfl
@[simp] theorem Hart.restart_vstart (h : Hart) : h.restart.vstart = 0 := rfl
@[simp] theorem Hart.restart_mstart (h : Hart) : h.restart.mstart = 0 := rfl
@[simp] theorem Hart.restart_repidx (h : Hart) : h.restart.repidx = h.repidx := rfl
@[simp] theorem Hart.restart_vcfg (h : Hart) : h.restart.vcfg = h.vcfg := rfl
@[simp] theorem Hart.restart_mode (h : Hart) : h.restart.mode = h.mode := rfl
@[simp] theorem Hart.restart_fflags (h : Hart) : h.restart.fflags = h.fflags := rfl
@[simp] theorem Hart.restart_xstatus (h : Hart) : h.restart.xstatus = h.xstatus := rfl
@[simp] theorem Hart.restart_xcause (h : Hart) : h.restart.xcause = h.xcause := rfl
@[simp] theorem Hart.restart_xepc (h : Hart) : h.restart.xepc = h.xepc := rfl
@[simp] theorem Hart.restart_xtval (h : Hart) : h.restart.xtval = h.xtval := rfl
@[simp] theorem Hart.restart_xvec (h : Hart) : h.restart.xvec = h.xvec := rfl
@[simp] theorem Hart.restart_xscratch (h : Hart) : h.restart.xscratch = h.xscratch := rfl
@[simp] theorem Hart.restart_heapbase (h : Hart) : h.restart.heapbase = h.heapbase := rfl
@[simp] theorem Hart.restart_heaplim (h : Hart) : h.restart.heaplim = h.heaplim := rfl
@[simp] theorem Hart.restart_heapoff (h : Hart) : h.restart.heapoff = h.heapoff := rfl
@[simp] theorem Hart.restart_ptroot (h : Hart) : h.restart.ptroot = h.ptroot := rfl
@[simp] theorem Hart.restart_ctxcfg (h : Hart) : h.restart.ctxcfg = h.ctxcfg := rfl
@[simp] theorem Hart.restart_atmem (h : Hart) : h.restart.atmem = h.atmem := rfl
@[simp] theorem Hart.restart_atscr (h : Hart) : h.restart.atscr = h.atscr := rfl
@[simp] theorem Hart.restart_atiod (h : Hart) : h.restart.atiod = h.atiod := rfl
@[simp] theorem Hart.restart_atport (h : Hart) : h.restart.atport = h.atport := rfl
@[simp] theorem Hart.restart_ctxid (h : Hart) : h.restart.ctxid = h.ctxid := rfl
@[simp] theorem Hart.restart_blklo (h : Hart) : h.restart.blklo = h.blklo := rfl
@[simp] theorem Hart.restart_blkhi (h : Hart) : h.restart.blkhi = h.blkhi := rfl
@[simp] theorem Hart.restart_slot (h : Hart) : h.restart.slot = h.slot := rfl
@[simp] theorem Hart.restart_node (h : Hart) : h.restart.node = h.node := rfl
@[simp] theorem Hart.restart_gen (h : Hart) : h.restart.gen = h.gen := rfl
@[simp] theorem Hart.restart_retired (h : Hart) : h.restart.retired = h.retired := rfl
@[simp] theorem Hart.restart_streams (h : Hart) : h.restart.streams = h.streams := rfl
@[simp] theorem Hart.restart_arming (h : Hart) : h.restart.arming = h.arming := rfl
@[simp] theorem Hart.restart_vcommit (h : Hart) : h.restart.vcommit = h.vcommit := rfl
@[simp] theorem Hart.restart_yielded (h : Hart) : h.restart.yielded = h.yielded := rfl
@[simp] theorem Hart.restart_relMark (h : Hart) : h.restart.relMark = h.relMark := rfl
@[simp] theorem Hart.restart_scatter (h : Hart) : h.restart.scatter = h.scatter := rfl
@[simp] theorem Hart.restart_asked (h : Hart) : h.restart.asked = h.asked := rfl
@[simp] theorem Hart.restart_replies (h : Hart) : h.restart.replies = h.replies := rfl
@[simp] theorem Hart.restart_block (h : Hart) : h.restart.block = h.block := rfl

end Sys2Proof.Machine
end

