-- ==== Sys2Proof/Tests/Slice0.lean ====
section
/-! SUPPORT. Tests: ill-formed terms that the checks refuse, words written out from the spec's encodings, and one step of single
instructions, with results that the spec states or that follow from it by hand. -/

set_option Elab.async false

namespace Sys2Proof.Machine.Tests

/-! ### Ill-formed terms -/

theorem test_wf_shape : Instr.wf (.vadd 1 2 3 3) = false ∧ Instr.wf (.vadd 1 2 3 2) = true := by decide
theorem test_wf_extract : Instr.wf (.vext 1 2 3 0) = false ∧ Instr.wf (.vins 1 2 3 3) = false ∧ Instr.wf (.vext 1 2 3 1) = true := by
  decide
theorem test_wf_scope : Instr.wf (.ldacq 1 2 0 6) = false ∧ Instr.wf (.strel 1 2 0 7) = false ∧ Instr.wf (.fence 0 6) = false ∧
    Instr.wf (.fence 0 5) = true := by decide
theorem test_wf_atomic : Instr.wf (.amoadd 1 2 3 2 0 0) = false ∧ Instr.wf (.amofadd 1 2 3 3 0 0) = false ∧
    Instr.wf (.amoswap 1 2 3 0 0 6) = false ∧ Instr.wf (.amofmax 1 2 3 2 3 5) = true := by decide
theorem test_wf_ordering : Instr.wf (.vld 1 2 3 0 1) = false ∧ Instr.wf (.vst 1 2 3 1 6) = false ∧ Instr.wf (.vld 1 2 3 2 5) = true := by
  decide
theorem test_wf_fields : Instr.wf (.vldg 1 2 3 0 0 0) = false ∧ Instr.wf (.vstg 1 2 3 7 0 0) = true := by decide
theorem test_wf_variant : Instr.wf (.vwiden 1 2 3) = false ∧ Instr.wf (.vnshr 1 2 3 0 2) = false ∧ Instr.wf (.vfsgn 1 2 3 0 3) = false ∧
    Instr.wf (.vfcvt 1 2 5) = false ∧ Instr.wf (.vmulm 1 2 3 0 3) = false := by decide
theorem test_wf_remote : Instr.wf (.ratom 1 2 3 10 0) = false ∧ Instr.wf (.ratom 1 2 3 9 1) = true := by decide

/-! ### Words, bit by bit from 04 R142 to R157 -/

theorem test_decode_scalar :
    decode 0b000001_00001_00010_00011_00000000011#32 = .instr (.mulh 1 2 3) ∧
    decode 0b000001_00101_00110_00000_00000111000#32 = .instr (.clz 5 6) ∧
    decode 0b000001_00001_00010_00011_00001001101#32 = .instr (.shadd 1 2 3 5) := ⟨rfl, rfl, rfl⟩
theorem test_decode_immediate :
    decode 0b000011_00001_00010_011_1111111111101#32 = .instr (.slti 1 2 0x1FFD) ∧
    decode 0b000011_00100_00101_111_0000000_111111#32 = .instr (.sari 4 5 63) ∧
    decode 0b000100_00111_000_10_1010101111001101#32 = .instr (.ldhi 7 2 0xABCD) ∧
    decode 0b000101_00010_00000_0000000000000100#32 = .instr (.addpc 2 4) := ⟨rfl, rfl, rfl, rfl⟩
theorem test_decode_memory :
    decode 0b000110_00011_00100_100_1111111111000#32 = .instr (.ldw 3 4 0x1FF8) ∧
    decode 0b000111_01000_01001_011_0000000010000#32 = .instr (.std 8 9 16) ∧
    decode 0b001101_00011_00100_00000_000_10_000_011#32 = .instr (.ldacq 3 4 2 3) ∧
    decode 0b001101_00000_00100_00101_001_11_000_101#32 = .instr (.strel 4 5 3 5) ∧
    decode 0b001101_00000_00000_00000_010_10001_100#32 = .instr (.fence 0b10001 4) := ⟨rfl, rfl, rfl, rfl, rfl⟩
theorem test_decode_branch :
    decode 0b001000_00001_00010_100_0000000000101#32 = .instr (.bltu 1 2 5) ∧
    decode 0b001001_00011_00001_1111111111111111#32 = .instr (.bpall 3 0xFFFF) ∧
    decode 0b001011_00001_00010_0000000000001100#32 = .instr (.jalr 1 2 12) := ⟨rfl, rfl, rfl⟩
theorem test_decode_float :
    decode 0b001100_00001_00010_00011_0000011_000_1#32 = .instr (.fma 1 2 3 1) ∧
    decode 0b001100_00001_00010_00000_0001100_001_0#32 = .instr (.fcvtFs 1 2 0) := ⟨rfl, rfl⟩
theorem test_decode_atomic :
    decode 0b001110_00001_00010_00011_1001_01_11_101#32 = .instr (.amocas 1 2 3 1 3 5) := rfl
theorem test_decode_system :
    decode 0b001111_00001_00010_0010_000100000000#32 = .instr (.csrx 1 2 0x100) ∧
    decode 0b001111_00000_00000_0011_101010111100#32 = .instr (.trap 0xABC) ∧
    decode 0b001111_00001_00010_0110_000000000000#32 = .instr (.waitw 1 2) ∧
    decode 0b111001_00001_01_1111111111_011_001_010#32 = .instr (.vsetli 1 1023 3 1 2) := ⟨rfl, rfl, rfl, rfl⟩
theorem test_decode_vector :
    decode 0b010000_01000_01001_01010_000110_01_000#32 = .instr (.vmadd 8 9 10 1) ∧
    decode 0b010001_00001_00010_11111_000111_10_000#32 = .instr (.vsaddu 1 2 31 2) ∧
    decode 0b010010_00010_00011_00100_000000_00_111#32 = .instr (.vcmp 2 3 4 0 7) ∧
    decode 0b010010_00001_00010_00011_000001_00_101#32 = .instr (.vsel 1 2 3 0 5) ∧
    decode 0b010010_00001_00010_00111_000100_10_000#32 = .instr (.vext 1 2 7 2) ∧
    decode 0b010011_00001_00010_00011_001010_00_010#32 = .instr (.vfsgn 1 2 3 0 2) ∧
    decode 0b010100_00001_00010_00011_000110_00_111#32 = .instr (.vfcmp 1 2 3 0 7) ∧
    decode 0b010100_00001_00010_00000_000100_00_100#32 = .instr (.vfcvt 1 2 4) ∧
    decode 0b010101_00001_00010_00011_000000_00_010#32 = .instr (.vmulm 1 2 3 0 2) :=
  ⟨rfl, rfl, rfl, rfl, rfl, rfl, rfl, rfl, rfl⟩
theorem test_decode_cross :
    decode 0b010110_00001_00010_00011_001000_01_000#32 = .instr (.vfredsum 1 2 3 1) ∧
    decode 0b010111_00001_00010_00000_000101_00_001#32 = .instr (.vscan 1 2 1) ∧
    decode 0b011000_00001_00010_00000_000110_00_000#32 = .instr (.psetn 1 2) ∧
    decode 0b011000_00001_00010_00000_000111_00_010#32 = .instr (.pmovVp 1 2) ∧
    decode 0b011001_00001_00010_00011_000000_01_000#32 = .instr (.vquant 1 2 3) := ⟨rfl, rfl, rfl, rfl, rfl⟩
theorem test_decode_vector_memory :
    decode 0b100000_00001_00010_11111_000_000_10_101#32 = .instr (.vld 1 2 31 2 5) ∧
    decode 0b100000_00001_00010_00000_010_010_00_000#32 = .instr (.vldg 1 2 0 2 0 0) ∧
    decode 0b100000_00001_00010_00000_100_000_00_000#32 = .instr (.vldff 1 2 0 0 0) ∧
    decode 0b100001_00001_00010_00011_011_000_00_000#32 = .instr (.vstx 1 2 3 0 0) ∧
    decode 0b100010_00001_00010_00011_011_000_00_011#32 = .instr (.vstxa 1 2 3 0 3) := ⟨rfl, rfl, rfl, rfl, rfl⟩
theorem test_decode_streams :
    decode 0b100101_00001_00010_00001_000_000_00_000#32 = .instr (.pst 1 2 1 0 0) ∧
    decode 0b100110_11110_00010_00000_000000_00000#32 = .instr (.sbind 2 2) ∧
    decode 0b100110_00001_11101_00000_000010_00000#32 = .instr (.spos 1 1) := ⟨rfl, rfl, rfl⟩
theorem test_decode_matrix :
    decode 0b101000_01000_00001_00010_000001_00000#32 = .instr (.mma 8 1 2) ∧
    decode 0b101001_01000_00001_00010_000000_00000#32 = .instr (.mmam 8 1 2) ∧
    decode 0b101010_01000_00001_00010_001001_00011#32 = .instr (.mdrain 8 1 2 9 3) ∧
    decode 0b101011_00000_00001_00010_000000_00000#32 = .instr (.mpert 1 2) := ⟨rfl, rfl, rfl, rfl⟩
theorem test_decode_engines :
    decode 0b101100_00000_00001_00010_000001_00000#32 = .instr (.tlexp 1 2) ∧
    decode 0b101101_00000_00001_00010_000010_00000#32 = .instr (.cpyg 1 2) ∧
    decode 0b110000_11111_00001_00010_000000_00000#32 = .instr (.mshq 3 1 2) ∧
    decode 0b110000_00000_00001_00000_000110_00000#32 = .instr (.mshmig 1) ∧
    decode 0b110001_00001_00010_00011_000001_00000#32 = .instr (.binapp 1 2 3) ∧
    decode 0b110100_00001_00010_00000_000010_00000#32 = .instr (.tagtest 1 2) ∧
    decode 0b110101_00001_00010_00011_000010_1001_1#32 = .instr (.ratom 1 2 3 9 1) ∧
    decode 0b110101_00000_00000_00000_000011_00000#32 = .instr .rflush ∧
    decode 0b111000_111111_101_10_000000000000000#32 = .instr (.rep 63 5 2) :=
  ⟨rfl, rfl, rfl, rfl, rfl, rfl, rfl, rfl, rfl⟩

/-- The worked encodings of 04, and those of 05. -/
theorem test_decode_worked :
    decode 0x09290001 = .instr (.addi 9 9 1) ∧ decode 0x1885C010 = .instr (.ldd 4 5 16) ∧
    decode 0x20221FFD = .instr (.beq 1 2 (BitVec.ofInt 13 (-3))) ∧ decode 0x38053034 = .instr (.amoadd 0 5 6 1 2 4) ∧
    decode 0xE4E0C14A = .instr (.vsetl 7 3 5 1 2) ∧ decode 0x81050000 = .instr (.vld 8 5 0 0 0) ∧
    decode 0x4D888000 = .instr (.vfadd 12 8 16 0) ∧ decode 0x4022D810 = .instr (.vadd 1 2 (BitVec.ofInt 5 (-5)) 2) ∧
    decode 0xE03D0000 = .instr (.rep 3 6 2) ∧ decode 0x30642800 = .instr (.fadd 3 4 5 0) ∧
    decode 0x30642831 = .instr (.fma 3 4 5 1) ∧ decode 0x306400C2 = .instr (.fcvtFs 3 4 0) ∧
    decode 0x348500C5 = .instr (.ldacq 4 5 3 5) ∧ decode 0x34053184 = .instr (.strel 5 6 2 4) ∧
    decode 0x3400021C = .instr (.fence 3 4) ∧ decode 0x386534BD = .instr (.amocas 3 5 6 1 3 5) ∧
    decode 0xE4120102 = .instr (.setmode 0 4 0x102) ∧ decode 0xE4994000 = .instr (.setmodev 4 5) :=
  ⟨rfl, rfl, rfl, rfl, rfl, rfl, rfl, rfl, rfl, rfl, rfl, rfl, rfl, rfl, rfl, rfl, rfl, rfl⟩

/-! ### One step of single instructions -/

/-- A compute hart that runs, with the first 2^20 bytes of die 0 as its heap, VL 4 and elements of 32 bits in groups of one
register, and 16 bits as the second width. -/
def lab : State :=
  { State.reset with hart := { Hart.reset 0 with
      st := .running, heaplim := 0x100000, vcfg := 0xCA, vlmax := 256, vl := 4, xvec := 0x8000, pc := 0x4000 } }

/-- The outcome is a next state with a property. -/
def did (o : Host.Outcome State Fault Refusal) (p : State → Bool) : Bool :=
  match o with
  | .next t => p t
  | _ => false

/-- The state with scalar registers set. -/
def withS (s : State) (xs : List (SReg × Word)) : State := xs.foldl (fun s x => s.setS x.1 x.2) s

/-- The state with vector registers set, each with a tag. -/
def withV (s : State) (xs : List (Nat × VWord × BitVec 6)) : State :=
  { s with hart := xs.foldl (fun h x => (h.writeV x.1 x.2.1).setTag x.1 x.2.2) s.hart }

/-- The hart changed. -/
def withH (s : State) (f : Hart → Hart) : State := { s with hart := f s.hart }

/-- Numbers stored little-endian: key, length and value. -/
def withM (s : State) (xs : List (Nat × Nat × Nat)) : State :=
  { s with mem := xs.foldl (fun m x => Memory.writeLE m x.1 x.2.1 x.2.2) s.mem }

/-- The hart's trap cause and the value beside it. -/
def trapped (code : BitVec 12) (val : Word) (t : State) : Bool := t.hart.xcause == code && t.hart.xtval == val && t.hart.pc == 0x8000

theorem test_add_wraps : did (exec (.add 3 1 2) (withS lab [(1, 0xFFFFFFFFFFFFFFFF), (2, 2)])) (fun t => t.hart.readS 3 == 1) = true := by
  decide +kernel
theorem test_sub_wraps : did (exec (.sub 3 1 2) (withS lab [(1, 1), (2, 2)])) (fun t => t.hart.readS 3 == 0xFFFFFFFFFFFFFFFF) = true := by
  decide +kernel
theorem test_mulh_signs :
    did (exec (.mulh 3 1 2) (withS lab [(1, 0xFFFFFFFFFFFFFFFF), (2, 2)])) (fun t => t.hart.readS 3 == 0xFFFFFFFFFFFFFFFF) = true := by
  decide +kernel
theorem test_div_truncates :
    did (exec (.div 3 1 2) (withS lab [(1, BitVec.ofInt 64 (-7)), (2, 2)])) (fun t => t.hart.readS 3 == BitVec.ofInt 64 (-3)) = true := by
  decide +kernel
theorem test_divu_by_zero : did (exec (.divu 3 1 2) (withS lab [(1, 7)])) (fun t => t.hart.readS 3 == BitVec.allOnes 64) = true := by
  decide +kernel
theorem test_rem_sign :
    did (exec (.rem 3 1 2) (withS lab [(1, BitVec.ofInt 64 (-7)), (2, 2)])) (fun t => t.hart.readS 3 == BitVec.ofInt 64 (-1)) = true := by
  decide +kernel
theorem test_shl_width : did (exec (.shl 3 1 2) (withS lab [(1, 1), (2, 64)])) (fun t => t.hart.readS 3 == 0) = true := by
  decide +kernel
theorem test_sar_width :
    did (exec (.sar 3 1 2) (withS lab [(1, 0x8000000000000000), (2, 200)])) (fun t => t.hart.readS 3 == BitVec.allOnes 64) = true := by
  decide +kernel
theorem test_rotr_65 : did (exec (.rotr 3 1 2) (withS lab [(1, 1), (2, 65)])) (fun t => t.hart.readS 3 == 0x8000000000000000) = true := by
  decide +kernel
theorem test_sel_old : did (exec (.sel 3 1 2) (withS lab [(1, 5), (2, 6)])) (fun t => t.hart.readS 3 == 6) = true := by decide +kernel
theorem test_zero_register :
    did (exec (.addi 0 1 7) (withS lab [(1, 5)])) (fun t => t.hart.readS 0 == 0 && t.hart.pc == 0x4004 && t.hart.retired == 1) = true := by
  decide +kernel
theorem test_sltiu_extends :
    did (exec (.sltiu 3 1 0x1FFF) (withS lab [(1, 5)])) (fun t => t.hart.readS 3 == 1) = true := by decide +kernel
theorem test_ldhi_keeps :
    did (exec (.ldhi 3 2 0xABCD) (withS lab [(3, 0x1111222233334444)])) (fun t => t.hart.readS 3 == 0x1111ABCD33334444) = true := by
  decide +kernel
theorem test_addpc : did (exec (.addpc 3 0xFFFF) lab) (fun t => t.hart.readS 3 == 0x3FFC) = true := by decide +kernel
theorem test_clz : did (exec (.clz 3 1) (withS lab [(1, 1)])) (fun t => t.hart.readS 3 == 63) = true := by decide +kernel
theorem test_beq_back :
    did (exec (.beq 1 2 (BitVec.ofInt 13 (-3))) lab) (fun t => t.hart.pc == 0x4000 - 12) = true := by decide +kernel
theorem test_bpall_empty : did (exec (.bpall 1 2) (withH lab fun h => { h with vl := 0 })) (fun t => t.hart.pc == 0x4008) = true := by
  decide +kernel
theorem test_jalr_same :
    did (exec (.jalr 3 3 3) (withS lab [(3, 0x1000)])) (fun t => t.hart.pc == 0x1000 && t.hart.readS 3 == 0x4004) = true := by
  decide +kernel
/-- fcvt.fs.d of -2.5 is -2 with NX, fcvt.fu.d is 0 with NV (05 R178). -/
theorem test_fcvt :
    did (exec (.fcvtFs 3 4 0) (withS lab [(4, 0xC004000000000000)]))
      (fun t => t.hart.readS 3 == BitVec.ofInt 64 (-2) && t.hart.fflags == 1) = true ∧
    did (exec (.fcvtFu 3 4 0) (withS lab [(4, 0xC004000000000000)])) (fun t => t.hart.readS 3 == 0 && t.hart.fflags == 0x10) = true := by
  decide +kernel
theorem test_fadd_double :
    did (exec (.fadd 3 1 2 0) (withS lab [(1, 0x3FF0000000000000), (2, 0x4000000000000000)]))
      (fun t => t.hart.readS 3 == 0x4008000000000000 && t.hart.fflags == 0) = true := by decide +kernel
/-- 1 + 2^-8 in FP32 to BF16 is a tie: 0x3F80 to even, 0x3F81 away (02, worked conversions). -/
theorem test_round_ties :
    (FFmt.bf16.round ⟨.rne, false, false⟩ (FFmt.fp32.unpack false 0x3F808000)).1 = 0x3F80 ∧
    (FFmt.bf16.round ⟨.rmm, false, false⟩ (FFmt.fp32.unpack false 0x3F808000)).1 = 0x3F81 ∧
    (FFmt.e2m1.round ⟨.rne, false, false⟩ (FFmt.fp32.unpack false 0x40200000)).1 = 4 ∧
    (FFmt.e2m1.round ⟨.rmm, false, false⟩ (FFmt.fp32.unpack false 0x40200000)).1 = 5 := by decide +kernel
/-- 500 to E4M3: NaN, 448 saturating, 448 toward zero (02, worked conversions). -/
theorem test_round_overflow :
    (FFmt.e4m3.round ⟨.rne, false, false⟩ (FFmt.fp32.unpack false 0x43FA0000)).1 = 0x7F ∧
    (FFmt.e4m3.round ⟨.rne, false, true⟩ (FFmt.fp32.unpack false 0x43FA0000)).1 = 0x7E ∧
    (FFmt.e4m3.round ⟨.rtz, false, false⟩ (FFmt.fp32.unpack false 0x43FA0000)).1 = 0x7E := by decide +kernel
/-- 2^-25 to FP16: zero, the smallest subnormal upward, zero with FTZ16 (02, worked conversions). -/
theorem test_round_tiny :
    (FFmt.fp16.round ⟨.rne, false, false⟩ (FFmt.fp32.unpack false 0x33000000)).1 = 0 ∧
    (FFmt.fp16.round ⟨.rup, false, false⟩ (FFmt.fp32.unpack false 0x33000000)).1 = 1 ∧
    (FFmt.fp16.round ⟨.rup, true, false⟩ (FFmt.fp32.unpack false 0x33000000)).1 = 0 := by decide +kernel
theorem test_ldw_sign :
    did (exec (.ldw 3 0 16) (withM lab [(16, 4, 0x80000001)])) (fun t => t.hart.readS 3 == 0xFFFFFFFF80000001) = true := by
  decide +kernel
/-- LDW at an address ending in 6 crosses 8 bytes (05 R185). -/
theorem test_ldw_misaligned : did (exec (.ldw 3 0 6) lab) (trapped 0x005 6) = true := by decide +kernel
theorem test_std_bytes :
    did (exec (.std 0 1 8) (withS lab [(1, 0x1122334455667788)]))
      (fun t => Memory.read t.mem 8 == 0x88 && Memory.read t.mem 15 == 0x11 && Memory.read t.mem 16 == 0) = true := by decide +kernel
theorem test_amocas_differs :
    did (exec (.amocas 3 0 1 1 0 0) (withM (withS lab [(1, 9), (3, 4)]) [(0, 8, 5)]))
      (fun t => t.hart.readS 3 == 5 && Memory.readLE t.mem 0 8 == 5) = true := by decide +kernel
theorem test_amoadd_word :
    did (exec (.amoadd 3 0 1 0 0 0) (withM (withS lab [(1, 1)]) [(0, 4, 0xFFFFFFFF)]))
      (fun t => t.hart.readS 3 == BitVec.allOnes 64 && Memory.readLE t.mem 0 8 == 0) = true := by decide +kernel
theorem test_csr_user : did (exec (.csrr 3 0x100) lab) (trapped 0x002 0x100) = true := by decide +kernel
theorem test_csr_flags :
    did (exec (.csrx 3 1 0x005) (withH (withS lab [(1, 0xFFF)]) fun h => { h with fflags := 3 }))
      (fun t => t.hart.readS 3 == 3 && t.hart.fflags == 0x7F) = true := by decide +kernel
theorem test_trap : did (exec (.trap 0xABC) lab) (fun t => trapped 0x016 0xABC t && t.hart.xepc == 0x4000 && t.hart.xstatus == 5) = true := by
  decide +kernel
theorem test_eret :
    did (exec .eret (withH lab fun h => { h with xstatus := 5, xepc := 0x4440 })) (fun t => t.hart.pc == 0x4440 && t.hart.xstatus == 0) = true := by
  decide +kernel
/-- vsetl s7, s3, ew=32, ew2=16, grp=4 of 1,000 (01 R33, worked). -/
theorem test_vsetl :
    did (exec (.vsetl 7 3 5 1 2) (withS lab [(3, 1000)]))
      (fun t => t.hart.vcfg == 0x14A && t.hart.vlmax == 1024 && t.hart.vl == 1000 && t.hart.readS 7 == 1000) = true := by decide +kernel
/-- ew2=64 at grp=8 is unsupported (01 R33, worked). -/
theorem test_vsetl_unsupported :
    did (exec (.vsetl 7 3 6 3 2) (withS lab [(3, 1000), (7, 1)]))
      (fun t => t.hart.vcfg == 0x8000000000000000 && t.hart.vl == 0 && t.hart.readS 7 == 0) = true := by decide +kernel
theorem test_setmode : did (exec (.setmode 1 4 0x102) lab) (fun t => t.hart.mode == 0x40102 && t.hart.readS 1 == 0) = true := by
  decide +kernel
/-- The fates of sample words of 04: VADD with shape 11 by the state of VCFG, and VSETL with bit 9 set. -/
theorem test_sample_words :
    did (exec (.wordNotAnInstruction 0x40000018) (withH lab fun h => { h with vl := 0 })) (fun t => t.hart.pc == 0x4004) = true ∧
    did (exec (.wordNotAnInstruction 0x40000018) lab) (trapped 0x101 0x40000018) = true ∧
    did (exec (.wordNotAnInstruction 0x40000018) (withH lab fun h => { h with vcfg := 0x8000000000000000 }))
      (trapped 0x104 0x8000000000000000) = true ∧
    did (exec (.wordNotAnInstruction 0xE4000200) lab) (fun t => t.hart.pc == 0x4004 && t.hart.ill) = true ∧
    did (exec (.wordNotAnInstruction 0x68000000) lab) (fun t => t.hart.pc == 0x8000) = true := by decide +kernel
theorem test_vadd_lanes :
    did (exec (.vadd 3 1 2 0) (withV lab [(1, 0x00000005FFFFFFFF, 3), (2, 0x0000000200000002, 0)]))
      (fun t => t.hart.readV 3 == 0x0000000700000001 && t.hart.tag 3 == 3) = true := by decide +kernel
theorem test_vadd_format :
    did (exec (.vadd 3 1 2 0) (withV lab [(1, 5, 9)])) (trapped 0x103 0x10309) = true := by decide +kernel
theorem test_vadd_masked :
    did (exec (.vadd 3 1 1 2) (withH (withV lab [(3, 0x77, 0)]) fun h => { (h.writeP 1 2) with mode := 1 }))
      (fun t => t.hart.readV 3 == 0x0000000100000077) = true := by decide +kernel
/-- VSADDU clamps and raises SAT (02 R63). -/
theorem test_vsaddu :
    did (exec (.vsaddu 3 1 1 2) (withH (withV lab [(1, 0xFFFFFFFF, 0)]) fun h => { h with vl := 1 }))
      (fun t => t.hart.elems ⟨3, 1, 32, []⟩ 0 == 0xFFFFFFFF && t.hart.fflags != 0) = true := by decide +kernel
theorem test_vslidedn :
    did (exec (.vslidedn 3 1 1 2) (withV lab [(1, 0x00000003_00000002_00000001, 0)]))
      (fun t => t.hart.elems ⟨3, 1, 32, []⟩ 0 == 2 && t.hart.elems ⟨3, 1, 32, []⟩ 2 == 0) = true := by decide +kernel
theorem test_vredsum :
    did (exec (.vredsum 3 1 2 1) (withS (withV lab [(1, 0x00000003_00000002_00000001, 0)]) [(2, 10)]))
      (fun t => t.hart.elems ⟨3, 1, 32, []⟩ 0 == 16) = true := by decide +kernel
theorem test_pcnt :
    did (exec (.pcnt 3 1) (withH lab fun h => h.writeP 1 0b10110)) (fun t => t.hart.readS 3 == 2) = true := by decide +kernel
theorem test_vld :
    did (exec (.vld 3 1 0 0 0) (withM (withS lab [(1, 0x100)]) [(0x100, 4, 7), (0x10C, 4, 9)]))
      (fun t => t.hart.elems ⟨3, 1, 32, []⟩ 0 == 7 && t.hart.elems ⟨3, 1, 32, []⟩ 3 == 9 && t.hart.tag 3 == 0) = true := by
  decide +kernel
/-- A load that faults at element 2 keeps the elements below it and reports VSTART (01 R52; 01, worked trap). -/
theorem test_vld_faults :
    did (exec (.vld 3 1 0 0 0) (withM (withS lab [(1, 0xFFFF8)]) [(0xFFFF8, 4, 7)]))
      (fun t => trapped 0x106 0x100000 t && t.hart.vstart == 2 && t.hart.elems ⟨3, 1, 32, []⟩ 0 == 7) = true := by decide +kernel
theorem test_vst :
    did (exec (.vst 3 1 0 0 0) (withS (withV lab [(3, 0x00000009_00000000_00000000_00000007, 0)]) [(1, 0x100)]))
      (fun t => Memory.readLE t.mem 0x100 16 == 0x00000009_00000000_00000000_00000007) = true := by decide +kernel
theorem test_tlwait_ready :
    did (exec (.tlwait 1 0) { withS lab [(1, 0xFFFFFF0000000000)] with
      tiles := [⟨.s1, 0, 0, 64, .filling, false, 64, 0, 0, false, false, 0, 0⟩] }) (fun t => t.hart.st == .waiting) = true := by
  decide +kernel
/-- The heap window of 03 R101, worked. -/
theorem test_heap_window :
    State.reset.access { (Hart.reset 0).env with heapbase := 0x10000000000, heaplim := 0x200000000, heapoff := 0xFFFFFF2000000000 }
      .load 0x10100000040 1 = .ok [⟨0x10100000040, 1, .mem 0x2100000040 false true⟩] := rfl
/-- The granule of 03 R118, worked: channel 29. -/
theorem test_stripe : MemSt.reset.channel 0x123456700 = 29 := by decide +kernel
/-- Device 3, die 5, offset 0xA0000 lies at 0x0350000A0000 (03 R100). -/
theorem test_physical_address : 3 * 2 ^ 40 + dieKey 5 0xA0000 = 0x0350000A0000 := by decide
/-- 2^24 plus 99.875 in FP32 is 0x4B800032 with one rounding (02, worked). -/
theorem test_one_rounding :
    ((FFmt.fp32.round ⟨.rne, false, false⟩ (.fin false 134218527 (-3))).1 == 0x4B800032) = true := by decide +kernel
theorem test_power_step :
    did (exec (.powerMeasurement 4201) State.reset) (fun t => t.pow.mhz == 1775) = true := by decide +kernel
theorem test_step_fetches :
    did (step (State.reset.withFetchWord 32 0x09290001))
      (fun t => t.hart.readS 9 == 1 && t.hart.pc == 0x10004 && t.hart.retired == 1) = true := by decide +kernel

end Sys2Proof.Machine.Tests
end

