-- ==== Sys2Proof/Tests/WitnessScalar.lean ====
section
/-! SUPPORT. Witnesses: states and operands that meet the hypotheses of the statements on scalar instructions, memory, CSRs and
traps, one for each clause. -/

set_option Elab.async false

namespace Sys2Proof.Machine.Tests

/-! ### Results that exist -/

def gotOk : Got → Bool
  | .ok _ _ => true
  | _ => false

/-- A read or write that completes. -/
theorem got_ok {g : Got} (h : gotOk g = true) : ∃ v t, g = .ok v t := by
  cases g <;> first | exact ⟨_, _, rfl⟩ | cases h

def gotVal : Got → Nat
  | .ok v _ => v
  | _ => 0

def gotState (g : Got) (s : State) : State :=
  match g with
  | .ok _ t => t
  | _ => s

theorem got_val {g : Got} (s : State) (h : gotOk g = true) : g = .ok (gotVal g) (gotState g s) := by
  cases g <;> first | rfl | cases h

def actOk {ε α : Type} : Except ε α × State → Bool
  | (.ok _, _) => true
  | _ => false

def actVal {ε α : Type} (x : Except ε α × State) (d : α) : α :=
  match x with
  | (.ok a, _) => a
  | _ => d

/-- A computation that completes. -/
theorem act_ok {ε α : Type} {x : Except ε α × State} (d : α) (h : actOk x = true) : x = (.ok (actVal x d), x.2) := by
  obtain ⟨r, t⟩ := x
  cases r <;> first | rfl | cases h

theorem act_unit {ε : Type} {x : Except ε Unit × State} (h : actOk x = true) : ∃ t, x = (.ok (), t) := ⟨x.2, act_ok () h⟩

/-- A computation that completes and changes nothing. -/
theorem act_same {ε : Type} {x : Except ε Unit × State} {s : State} (h : actOk x = true) (e : x.2 = s) : x = (.ok (), s) := by
  rw [← e]; exact act_ok () h

def actSome {ε α : Type} : Except ε (Option α) × State → Bool
  | (.ok (some _), _) => true
  | _ => false

def actGet {ε α : Type} (x : Except ε (Option α) × State) (d : α) : α :=
  match x with
  | (.ok (some a), _) => a
  | _ => d

/-- A computation that finds something. -/
theorem act_some {ε α : Type} {x : Except ε (Option α) × State} (d : α) (h : actSome x = true) : x = (.ok (some (actGet x d)), x.2) := by
  obtain ⟨r, t⟩ := x
  cases r with
  | error _ => cases h
  | ok o => cases o <;> first | rfl | cases h

/-! ### Scalar statements -/

/-- The three cases of a signed quotient, and the two of the others. -/
theorem witness_ScalarIntegerOperations : ∃ x y z : Word, y = 0 ∧ z ≠ 0 ∧ ¬ (y.toInt = -2 ^ 63 ∧ z.toInt = -1) ∧
    x.toInt = -2 ^ 63 ∧ z.toInt = -1 := ⟨0x8000000000000000, 0, BitVec.allOnes 64, by decide⟩

/-- CLZ and CTZ of zero and of another value. -/
theorem witness_ScalarBitOperations : ∃ x y : Word, x = 0 ∧ y ≠ 0 := ⟨0, 1, by decide⟩

/-- Each condition of a branch holds somewhere and fails somewhere. -/
theorem witness_Branches : ∃ x y : Word, x ≠ y ∧ x.toInt < y.toInt ∧ ¬ y.toInt < x.toInt ∧ y.toNat < x.toNat ∧ ¬ x.toNat < y.toNat ∧
    (∃ (bit : Nat → Bool), (∃ i < 1, bit i = true) ∧ ∀ i < 1, bit i = true) ∧
    (∃ (bit : Nat → Bool), (¬ ∃ i < 0, bit i = true) ∧ (∀ i < 0, bit i = true) ∧ ∀ i < 1, bit i = false) :=
  ⟨BitVec.allOnes 64, 1, by decide, by decide, by decide, by decide, by decide, ⟨fun _ => true, by decide⟩, ⟨fun _ => false, by decide⟩⟩

theorem witness_RegisterFiles : ∃ (r q : SReg) (p : PReg) (n m : Nat), r ≠ 0 ∧ q ≠ r ∧ p ≠ 0 ∧ n < 32 ∧ m < 32 ∧ n ≠ m ∧ 16383 < 16384 :=
  ⟨31, 0, 7, 0, 31, by decide⟩

/-- An assigned rounding mode, and an unassigned one with XT clear. -/
theorem witness_ScalarFloatingPoint : (withH lab fun h => { h with mode := 0x20 }).hart.rm?.isSome = true ∧
    (withH lab fun h => { h with mode := 0x28 }).hart.rm? = none ∧ lab.hart.xt = false := by decide +kernel

theorem witness_RoundingKeepsRepresentable : 0x7FEFFFFFFFFFFFFF < 2 ^ FFmt.fp64.bits ∧ (FFmt.fp64.unpack false 0x7FEFFFFFFFFFFFFF).isFin = true ∧
    7 < 2 ^ FFmt.e2m1.bits ∧ (FFmt.e2m1.unpack false 7).isFin = true := by decide +kernel

/-- One third of a unit and a value beyond the largest of FP16, without FTZ16. -/
theorem witness_RoundingKeepsRepresentable_finite : 0 < 0x5555 ∧ (lab.hart.fenv false).ftz = false ∧
    (∃ q : Int, q = max FFmt.fp16.qmin (-16 + bitLen 0x5555 - (FFmt.fp16.frac + 1)) ∧ -16 < q) ∧
    Rounded .rne 5 1 2 ∧ max FFmt.fp16.qmin (16 + bitLen 1 - (FFmt.fp16.frac + 1)) ≤ 16 ∧
    (FFmt.fp16.largest % 2 ^ 10 + 2 ^ 10) * 2 ^ (FFmt.fp16.largest / 2 ^ 10 - 1) < 2 ^ 16 * 2 ^ 24 :=
  ⟨by decide, by decide +kernel, ⟨_, rfl, by decide +kernel⟩, ⟨by decide, by decide⟩, by decide +kernel, by decide +kernel⟩

/-- NaNs, infinities of the formats that have them, divisors and roots, and NaN codes of E4M3 and E5M2. -/
theorem witness_RoundingKeepsRepresentable_values :
    FFmt.fp64.hasInf = true ∧ ((FVal.nan true).isNan || FVal.isNan (.inf true)) = true ∧ (FFmt.e4m3.unpack false 0x7F).isNan = true ∧
    (FFmt.e5m2.unpack false 0x7D).isSig = true ∧ (FFmt.e5m2.unpack false 0x80).isNan = false ∧ 0xFF < 2 ^ FFmt.e5m2.bits ∧
    FFmt.e4m3.largest < 0x7F ∧ ¬ FFmt.e4m3.largest < 0x7E := by decide +kernel

/-- A command of hart 0 that has not registered its claims. -/
def pendingCmd : Command :=
  ⟨0, .copy, 0, 0, 0, [], none, (Hart.reset 0).env, 0, none, none, [], [], [], false, [], none, [], [], 0, (0, 0)⟩

/-- A store of hart 0 to a peer that has not performed. -/
def pendingOp : Peers := { lab.peers with ops := [⟨0, 0, 0, 0, 0, 0, 0, 7, [.store 0 [1]]⟩], nextOp := 1 }

/-- Offsets 5 and 4 of a word in its doubleword, and accesses that complete. -/
theorem witness_ScalarLoadsAndStores :
    8 < (lab.hart.offset 0 5).toNat % 8 + 4 ∧ (lab.hart.offset 0 4).toNat % 8 + 4 ≤ 8 ∧
    (∃ v t, lab.loadN (lab.hart.offset 0 4) 4 = .ok v t) ∧ (∃ v t, lab.storeN (lab.hart.offset 0 4) 4 0 = .ok v t) ∧
    (withS lab [(1, 2)]).hart.readS 1 = 2 ∧ 2 % 2 ^ (2 : BitVec 2).toNat ≠ 0 ∧ 4 % 2 ^ (2 : BitVec 2).toNat = 0 ∧ (5 : BitVec 3).toNat < 6 ∧
    lab.releaseReady 5 = true ∧ (∃ v t, lab.loadN 4 4 = .ok v t) ∧ (∃ v t, lab.storeN 4 4 9 = .ok v t) ∧
    State.releaseReady { lab with cmds := [pendingCmd] } 5 = false ∧ State.releaseReady { lab with peers := pendingOp } 5 = false :=
  ⟨by decide +kernel, by decide +kernel, got_ok (by decide +kernel), got_ok (by decide +kernel), by decide +kernel, by decide, by decide,
    by decide, by decide +kernel, got_ok (by decide +kernel), got_ok (by decide +kernel), by decide +kernel, by decide +kernel⟩

/-- Plain memory of die 0, of 1 and of 8 bytes. -/
theorem witness_MemoryReadsBack :
    lab.claimed 0xFFFF8 8 = false ∧ lab.fenced 0xFFFF8 = false ∧
    lab.access lab.hart.env .load 0xFFFF8 8 = .ok [⟨0xFFFF8, 8, .mem 0xFFFF8 false true⟩] ∧ lab.readCheck 0xFFFF8 8 = (lab, none) ∧
    lab.access lab.hart.env .store 0xFFFF8 8 = .ok [⟨0xFFFF8, 8, .mem 0xFFFF8 false true⟩] ∧ Memory.wf lab.mem = true :=
  ⟨by decide +kernel, by decide +kernel, rfl, rfl, rfl, rfl⟩

/-- An aligned word and doubleword of memory, at every scope. -/
theorem witness_Atomics : (5 : BitVec 3).toNat < 6 ∧ lab.amoReady 3 5 = true ∧ ((withS lab [(1, 4)]).hart.readS 1).toNat % 4 = 0 ∧
    (lab.hart.readS 0).toNat % 8 = 0 ∧ (lab.hart.rm?.isSome = true) ∧
    (∃ old t, lab.atomicN (lab.hart.readS 0) 8 (fun x => some x) = .ok old t) ∧
    (∃ old t, lab.atomicN (lab.hart.readS 0) 4 (fun _ => none) = .ok old t) :=
  ⟨by decide, by decide +kernel, by decide +kernel, by decide +kernel, by decide +kernel, got_ok (by decide +kernel),
    got_ok (by decide +kernel)⟩

theorem witness_Atomics_misaligned : (5 : BitVec 3).toNat < 6 ∧ lab.hart.rm?.isSome = true ∧
    ((withS lab [(1, 6)]).hart.readS 1).toNat % 4 ≠ 0 ∧ ((withS lab [(1, 4)]).hart.readS 1).toNat % 8 ≠ 0 := by decide +kernel

/-- A FENCE without and with something to wait for, and a WAITW on a misaligned, an equal and another doubleword. -/
theorem witness_FencesHintsWaits : (5 : BitVec 3).toNat < 6 ∧ ¬ ((1 : BitVec 5).getLsbD 0 = true ∧ lab.unregistered = true) ∧
    (1 : BitVec 5).getLsbD 0 = true ∧ State.unregistered { lab with cmds := [pendingCmd] } = true ∧
    ((withS lab [(1, 4)]).hart.readS 1).toNat % 8 ≠ 0 ∧ (lab.hart.readS 0).toNat % 8 = 0 ∧
    (∃ v t, lab.loadN (lab.hart.readS 0) 8 = .ok v t ∧ BitVec.ofNat 64 v = lab.hart.readS 1) ∧
    (∃ v t, (withS lab [(1, 4)]).loadN 0 8 = .ok v t ∧ BitVec.ofNat 64 v ≠ (withS lab [(1, 4)]).hart.readS 1) :=
  ⟨by decide, by decide +kernel, by decide, by decide +kernel, by decide +kernel, by decide +kernel, ⟨0, _, rfl, by decide +kernel⟩,
    ⟨0, _, rfl, by decide +kernel⟩⟩

/-- Hart 1 of the core runs beside hart 0, which has given its turn away. -/
def labPair : State := { lab with hart := { lab.hart with yielded := true }, parked := [(1, { Hart.reset 1 with st := .running })] }

theorem witness_FencesHintsWaits_yield : 1 ≠ labPair.hart.num ∧ 1 / 4 = labPair.hart.num / 4 ∧ (labPair.hartAt 1).st = .running ∧
    labPair.hart.yielded = true ∧ labPair.nextRunning = some 1 ∧ lab.hart.yielded = false ∧
    State.nextRunning { labPair with parked := [] } = none := by decide +kernel

/-- The hart in supervisor mode. -/
def labX : State := withH lab fun h => { h with xstatus := 1 }

theorem witness_CsrReads : lab.hart.num < 1152 ∧ 1152 ≤ (withH lab fun _ => Hart.reset 1152).hart.num ∧ labX.hart.inX = true ∧ 3 < 4 := by
  decide +kernel

theorem witness_CsrWrites : (withH lab fun h => { h with mode := 0x1000 }).hart.prot ≠ lab.hart.prot ∧
    labX.hart.inX = true ∧ csrExists 0x11B = true ∧ csrExists 0x000 = true ∧ (0x11B : BitVec 12) ≠ 0x018 := by
  decide +kernel

/-- The bounds of the ranges of numbers without a CSR. -/
theorem witness_CsrNotImplementedTraps :
    (9 ≤ (9 : BitVec 12).toNat ∧ (0x00B : BitVec 12).toNat ≤ 0x00B ∧ 0x01A ≤ (0x01A : BitVec 12).toNat ∧
      (0x0FF : BitVec 12).toNat ≤ 0x0FF ∧ 0x200 ≤ (0xFFF : BitVec 12).toNat) ∧
    lab.hart.inX = false ∧ 0x100 ≤ (0x100 : BitVec 12).toNat ∧ (0x1FF : BitVec 12).toNat ≤ 0x1FF ∧ labX.hart.inX = true ∧
    csrExists 0x106 = false ∧ csrExists 0x1FF = false := by decide +kernel

/-- A context with its tables, for core 0. -/
def demoCtx (st : Nat) : Ctx :=
  ⟨⟨0, 0x100000, 0, 0, 3, 0, 0, 0, 0, 0x8000, 1, 0, 0, 0, 0, 0, [0, 1]⟩, st, 0, []⟩

/-- The hart with XT set, in a context. -/
def labXt : State :=
  { withH lab fun h => { h with xstatus := 5 } with
    cx := ⟨[(0, demoCtx 1), (1, { demoCtx 1 with live := { (demoCtx 1).live with cores := [4] } })], 0, 0, 0, []⟩
    parked := [(16, Hart.reset 16)] }

theorem witness_TrapEntry : lab.hart.xt = false ∧ labXt.hart.xt = true ∧ labXt.hart.isCtl = false ∧
    Table.find? labXt.cx.ctxs labXt.hart.ctxid.toNat = some (demoCtx 1) ∧ (∃ x, Table.find? labXt.cx.ctxs 1 = some x) ∧
    1 ≠ labXt.hart.ctxid.toNat ∧ Table.find? labXt.parked 16 = some (Hart.reset 16) ∧ (Hart.reset 16).core ∉ (demoCtx 1).live.cores :=
  ⟨by decide +kernel, by decide +kernel, by decide +kernel, by decide +kernel, ⟨_, rfl⟩, by decide +kernel, rfl, by decide +kernel⟩

/-- The primary and the standby control hart with XT set. -/
theorem witness_TrapEntry_control : ∀ n ∈ [1152, 1153],
    let s : State := { State.reset with hart := { Hart.reset n with xstatus := 5 } }
    s.hart.xt = true ∧ s.hart.isCtl = true ∧ s.fe.primary = 0 ∧ s.fe.standby ≠ 3 ∧ s.fe.takeover = false ∧
    (s.bank 708).slot.isSome = true := by decide +kernel

theorem witness_TrapAndReturn : lab.hart.xt = false ∧ labXt.hart.xt = true ∧ labXt.hart.inX = true ∧ labXt.hart.isCtl = false ∧ lab.hart.inX = false := by
  decide +kernel

/-- A supported request and one that is not; each change of PROT, with PROTREQ clear and set. -/
theorem witness_ConfigurationAndMode : lab.hart.isCtl = false ∧ configOk 6 2 2 = true ∧ configOk 6 3 2 = false ∧
    (0x102 : Word).getLsbD 12 = lab.hart.prot ∧ (0x1000 : Word).getLsbD 12 = true ∧ lab.hart.prot = false ∧
    (0 : Word).getLsbD 12 = false ∧ (withH lab fun h => { h with mode := 0x1000 }).hart.prot = true ∧
    lab.hart.ctxcfg.getLsbD 0 = false ∧ (1 : Word).getLsbD 0 = true := by decide +kernel

/-- The hart with VCFG illegal, and with VL 0. -/
def labIll : State := withH lab fun h => { h with vcfg := 0x8000000000000000, vl := 0, vlmax := 0 }

def labNone : State := withH lab fun h => { h with vl := 0 }

/-- Control hart 0. -/
def labCtl : State := { lab with hart := Hart.reset 1152 }

theorem witness_WordsThatDoNotRun :
    (encode (.vadd 1 2 3 0) = some 0x40221800 ∧ labCtl.hart.isCtl = true ∧ 0x10 ≤ (0x40221800 : IWord).toNat / 2 ^ 26 ∧
      (0x40221800 : IWord).toNat / 2 ^ 26 ≤ 0x15) ∧
    (lab.hart.isCtl = false ∧ labIll.hart.ill = true ∧ labNone.hart.ill = false ∧ labNone.hart.anyActive = false) ∧
    (Instr.wf (.vadd 1 2 3 3) = false ∧ lab.hart.ill = false ∧ lab.hart.anyActive = true) ∧
    (isWiden 0x40000018 = false ∧ 0x10 ≤ majorOf 0x40000018 ∧ majorOf 0x40000018 ≤ 0x19 ∧ strayLanes 0x40000018 labNone.hart = false ∧
      strayLanes 0x40000018 lab.hart = true) ∧
    (majorOf 0x68000000 = 0x1A ∧ isWiden 0x68000000 = false ∧ majorOf 0x68000000 ≠ 0x38) := by decide +kernel

end Sys2Proof.Machine.Tests
end

