-- ==== Sys2Proof/Tests/WitnessVector.lean ====
section
/-! SUPPORT. Witnesses: states and operands that meet the hypotheses of the statements on vector, stream and matrix
instructions, one for each clause. -/

set_option Elab.async false

namespace Sys2Proof.Machine.Tests

/-! ### Plans and reads that exist -/

def planOk : Plan → Bool
  | .ok _ => true
  | _ => false

theorem plan_ok {p : Plan} (h : planOk p = true) : ∃ xs, p = .ok xs := by
  cases p <;> first | exact ⟨_, rfl⟩ | cases h

def readsOk (s : State) (len : Nat) (es : List (Nat × List Word)) : Bool :=
  match s.plan .load len es with
  | .ok xs => (s.readElems xs).2.2 == none
  | _ => false

theorem reads_all {s : State} {len : Nat} {es : List (Nat × List Word)} (h : readsOk s len es = true) :
    ∃ t vs, ReadsAll s t len es vs := by
  unfold readsOk at h
  split at h
  · rename_i xs e
    refine ⟨(s.readElems xs).1, (s.readElems xs).2.1, xs, e, ?_⟩
    have h2 : (s.readElems xs).2.2 = none := by simpa using h
    rw [← h2]
  · cases h

/-- Without bound streams the operands are as they stand. -/
theorem lab_delivered (srcs dsts : List Opnd) {s : State} (h : ((List.range 4).all fun r => !s.hart.bound r) = true) :
    Delivered s srcs dsts s :=
  delivered_unbound srcs dsts fun r hr => by simpa using List.all_eq_true.1 h r (List.mem_range.2 hr)

/-! ### Element-wise instructions -/

theorem lab_lanes : lab.Lanes := by unfold State.Lanes; decide +kernel

/-- Three vectors in groups of one register. -/
theorem witness_VectorIntegerOperations :
    let v := intOp fun _ a b _ => a + b
    lab.Lanes ∧ lab.hart.rounds? v.rounds ∧ lab.hart.groupOk 31 lab.hart.ew1 = true ∧ lab.hart.groupOk 0 lab.hart.ew1 = true ∧
    lab.hart.srcOk 0 1 lab.hart.ew1 = true ∧ lab.hart.srcOk 2 31 lab.hart.ew1 = true ∧
    Delivered lab (lab.hart.binary v 31 0 0 1).1 [(lab.hart.binary v 31 0 0 1).2.2] lab ∧
    lab.hart.Tagged (lab.hart.binary v 31 0 0 1).1 ∧ lab.hart.writeStream? (lab.hart.binary v 31 0 0 1).2.2 = none ∧
    lab.hart.Tagged [lab.hart.opnd 0 lab.hart.ew1 (lab.hart.wantOf v.useA lab.hart.ew1)] ∧
    (Instr.vssubu, false, (fun x y : Int => x - y)) ∈ [(Instr.vsadd, true, (· + ·)), (Instr.vsaddu, false, (· + ·)), (Instr.vssub, true, (· - ·)),
      (Instr.vssubu, false, (· - ·))] :=
  ⟨lab_lanes, (by intro h; cases h), by decide +kernel, by decide +kernel, by decide +kernel, by decide +kernel,
    lab_delivered _ _ (by decide +kernel), by unfold Hart.Tagged; decide +kernel, by decide +kernel,
    by unfold Hart.Tagged; decide +kernel, by simp⟩

theorem witness_VectorFloat :
    let v := floatOp fun r a b _ => FVal.add r a b
    let s := withV lab [(0, 0x3F800000, 9), (1, 0x40000000, 9)]
    s.Lanes ∧ s.hart.rounds? v.rounds ∧ s.hart.groupOk 31 s.hart.ew1 = true ∧ s.hart.groupOk 0 s.hart.ew1 = true ∧
    s.hart.srcOk 0 1 s.hart.ew1 = true ∧ Delivered s (s.hart.binary v 31 0 0 1).1 [(s.hart.binary v 31 0 0 1).2.2] s ∧
    s.hart.Tagged (s.hart.binary v 31 0 0 1).1 ∧ s.hart.writeStream? (s.hart.binary v 31 0 0 1).2.2 = none ∧
    (2 : BitVec 3).toNat < 3 ∧ (Instr.vflog2, Approx.log2) ∈ [(Instr.vfrcp, Approx.rcp), (Instr.vfrsq, Approx.rsq),
      (Instr.vfexp2, Approx.exp2), (Instr.vflog2, Approx.log2)] :=
  ⟨by unfold State.Lanes; decide +kernel, by intro _; decide +kernel, by decide +kernel, by decide +kernel, by decide +kernel,
    lab_delivered _ _ (by decide +kernel), by unfold Hart.Tagged; decide +kernel, by decide +kernel, by decide, by simp⟩

/-- A format with an infinity, a negative value, a NaN and the NaN of E4M3. -/
theorem witness_VectorFloat_special : FFmt.e5m2.hasInf = true ∧ 2 ^ 7 + 2 ^ FFmt.e5m2.frac ≤ 0x90 ∧ 0x90 ≤ 2 ^ 7 + (FFmt.e5m2.largest + 1) ∧
    FFmt.e5m2.largest + 1 < 0x7D ∧ 0x7D < 2 ^ 7 := by decide +kernel

/-- The hart with v28 bound to 64 places of 32 bits at 0x1000, to be written. -/
def labOut : State := withH lab fun h => h.setStream 0 ⟨.affine 0x1000 true [(64, 4)], 0, 3, 2, 0, false, 0, 0⟩

/-- `labOut` while a write of its four active elements goes on. -/
def labOutAt : Nat → State
  | 0 => labOut.renew (labOut.storeCover 4 (labOut.hart.activeList.map fun i => 0x1000 + BitVec.ofInt 64 (affineOffset [(64, 4)] i)))
  | j + 1 => gotState ((labOutAt j).storeN (0x1000 + BitVec.ofNat 64 (4 * j)) 4 0) (labOutAt j)

/-- Each of the four elements goes to a place of its own in plain memory. -/
theorem witness_Streams_chain : let x := labOut.hart.stream 0
    x.bind = .affine 0x1000 true [(64, 4)] ∧ labOut.hart.activeList.length = 4 ∧ (labOutAt 4).hart = labOut.hart ∧
    Memory.wf labOut.mem = true ∧
    ((List.range 4).all fun j => labOut.hart.activeList.getD j 9 == j &&
      (labOut.hart.srcElem (labOut.hart.src 0 1 labOut.hart.ew1 .raw) j) % 2 ^ labOut.hart.ew1 == 0 && (2 ^ x.ewc == 4) &&
      (0x1000 + BitVec.ofInt 64 (affineOffset [(64, 4)] (x.pos + j)) == (0x1000 + BitVec.ofNat 64 (4 * j) : Word))) = true ∧
    ∀ j < 4, (∃ ps, labOut.check labOut.hart.env labOut.hart.num .store (0x1000 + BitVec.ofNat 64 (4 * j)) 4 = .ok ps) ∧
      (labOutAt j).storeN (0x1000 + BitVec.ofNat 64 (4 * j)) 4 0 = .ok 0 (labOutAt (j + 1)) ∧
      (labOutAt j).check labOut.hart.env labOut.hart.num .store (0x1000 + BitVec.ofNat 64 (4 * j)) 4 =
        .ok [⟨0x1000 + BitVec.ofNat 64 (4 * j), 4, .mem (0x1000 + 4 * j) false true⟩] ∧
      (labOutAt j).fenced (0x1000 + 4 * j) = false ∧ ∀ k, j < k → k < 4 → 0x1000 + 4 * j + 4 ≤ 0x1000 + 4 * k := by
  have ok : ∀ j < 4, gotOk ((labOutAt j).storeN (0x1000 + BitVec.ofNat 64 (4 * j)) 4 0) = true ∧
      gotVal ((labOutAt j).storeN (0x1000 + BitVec.ofNat 64 (4 * j)) 4 0) = 0 := by decide +kernel
  refine ⟨rfl, by decide +kernel, by decide +kernel, rfl, by decide +kernel, fun j hj => ⟨?_, ?_, ?_, ?_, by omega⟩⟩
  · exact ⟨_, (show ∀ j < 4, labOut.check labOut.hart.env labOut.hart.num .store (0x1000 + BitVec.ofNat 64 (4 * j)) 4 =
      .ok [⟨0x1000 + BitVec.ofNat 64 (4 * j), 4, .mem (0x1000 + 4 * j) false true⟩] by decide +kernel) j hj⟩
  · rw [got_val (labOutAt j) (ok j hj).1, (ok j hj).2]; rfl
  all_goals revert j; decide +kernel

/-- A descriptor of 64 integers of 32 bits at 0x1000, to be read, at 0x40. -/
def labDesc : State := withM (withS lab [(1, 0x40)]) [(0x40, 8, 0x1000), (0x48, 8, 3 + 2 * 256 + 2 ^ 24), (0x50, 8, 64), (0x58, 8, 4)]

theorem witness_Streams :
    (labOut.Lanes ∧ labOut.hart.groupOk 28 labOut.hart.ew1 = true ∧ labOut.hart.srcOk 0 1 labOut.hart.ew1 = true ∧
      Delivered labOut (labOut.hart.src 0 1 labOut.hart.ew1 .raw).opnds [labOut.hart.opnd 28 labOut.hart.ew1 []] labOut ∧
      labOut.hart.writeStream? (labOut.hart.opnd 28 labOut.hart.ew1 []) = some 0) ∧
    (∃ w t, labDesc.hart.isCtl = false ∧ labDesc.hart.bound (3 : BitVec 2).toNat = false ∧ (labDesc.hart.readS 1).toNat % 16 = 0 ∧
      labDesc.loadN (labDesc.hart.readS 1) 80 = .ok w t ∧ fmtOk (bitsOf w 64 8) = true ∧ bitsOf w 72 8 < 4 ∧ bitsOf w 80 8 < 2 ∧
      1 ≤ bitsOf w 88 8 ∧ bitsOf w 88 8 ≤ 4 ∧ bitsOf w 96 32 = 0 ∧ descDims w (bitsOf w 88 8) = some [(64, 4)]) ∧
    labOut.hart.isCtl = false ∧ labOut.hart.bound (0 : BitVec 2).toNat = true ∧ lab.hart.bound (0 : BitVec 2).toNat = false :=
  ⟨⟨by unfold State.Lanes; decide +kernel, by decide +kernel, by decide +kernel, act_same (by decide +kernel) (by decide +kernel),
      by decide +kernel⟩,
    ⟨_, _, by decide +kernel, by decide +kernel, by decide +kernel, got_val labDesc (by decide +kernel), by decide +kernel⟩,
    by decide +kernel⟩

/-- The hart with elements of 16 bits and a second width of 32 bits. -/
def labNarrow : State := withH lab fun h => { h with vcfg := 0xD1, vlmax := 512 }

/-- VL 1, with index 255 of the last place. -/
theorem witness_VectorMoves :
    lab.Lanes ∧ lab.hart.groupOk 31 lab.hart.ew1 = true ∧ lab.hart.srcOk 1 31 lab.hart.ew1 = true ∧
    Delivered lab (lab.hart.src 1 31 lab.hart.ew1 .raw).opnds [lab.hart.opnd 31 lab.hart.ew1 []] lab ∧
    Delivered lab [] [lab.hart.opnd 31 lab.hart.ew1 []] lab ∧ Delivered lab [lab.hart.opnd 31 lab.hart.ew1 []] [] lab ∧
    lab.hart.writeStream? (lab.hart.opnd 31 lab.hart.ew1 []) = none ∧ lab.hart.isCtl = false ∧ lab.hart.ill = false ∧
    ((2 : BitVec 2) = 1 ∧ 3 = (lab.hart.readS 3).toNat ∨ (2 : BitVec 2) = 2 ∧ 3 = (3 : BitVec 5).toNat) ∧ lab.hart.active 3 = true ∧
    3 < lab.hart.places (lab.hart.opnd 31 lab.hart.ew1 []) ∧
    ((List.range 32).all fun r => lab.hart.tag r == lab.hart.tag 31) = true ∧
    32 ∈ [4, 8, 16, 32, 64] ∧ 0xFFFFFFFF < 2 ^ 32 ∧ (9 : BitVec 6) = 9 ∧ (5 : BitVec 6) ∈ [(0 : BitVec 6), 1, 2, 3, 4, 5] ∧
    (17 : BitVec 6) ∈ [(8 : BitVec 6), 10, 11, 12, 13, 14, 15, 16, 17] :=
  ⟨lab_lanes, by decide +kernel, by decide +kernel, lab_delivered _ _ (by decide +kernel), lab_delivered _ _ (by decide +kernel),
    lab_delivered _ _ (by decide +kernel), by decide +kernel⟩

/-- Groups of two registers, of which VEXT reads v1 alone. -/
def labTwo : State := withH lab fun h => { h with vcfg := 0x10A, vlmax := 512, vl := 512 }

theorem witness_VectorMoves_alone : labTwo.hart.isCtl = false ∧ labTwo.hart.ill = false ∧
    ((1 : BitVec 2) = 1 ∧ 0 = (labTwo.hart.readS 0).toNat) ∧ labTwo.hart.active 0 = true ∧ labTwo.hart.groupOk 1 labTwo.hart.ew1 = false ∧
    (labTwo.hart.group8 labTwo.hart.ew1).isSome = true ∧ 0 < labTwo.hart.regBits / labTwo.hart.ew1 ∧
    Delivered labTwo [⟨(1 : VReg).toNat, 1, labTwo.hart.ew1, []⟩] [] labTwo :=
  ⟨by decide +kernel, by decide +kernel, by decide +kernel, by decide +kernel, by decide +kernel, by decide +kernel, by decide +kernel,
    lab_delivered _ _ (by decide +kernel)⟩

theorem witness_ComparisonsAndMixedWidths :
    (lab.Lanes ∧ lab.hart.groupOk 31 lab.hart.ew1 = true ∧ lab.hart.srcOk 2 31 lab.hart.ew1 = true ∧
      (∀ xs ys, Delivered lab xs ys lab) ∧
      lab.hart.Tagged (lab.hart.opnd 31 lab.hart.ew1 (lab.hart.wantOf .fp lab.hart.ew1) :: (lab.hart.src 0 1 lab.hart.ew1 .fp).opnds) ∧
      lab.hart.Tagged (lab.hart.opnd 31 lab.hart.ew1 (lab.hart.wantOf .int lab.hart.ew1) :: (lab.hart.src 0 1 lab.hart.ew1 .int).opnds)) ∧
    ((2 : BitVec 3).toNat < 3 ∧ lab.hart.ew2 < lab.hart.ew1 ∧ lab.hart.groupOk 31 lab.hart.ew2 = true ∧
      lab.hart.Tagged [lab.hart.opnd 31 lab.hart.ew2 [lab.hart.fpTag lab.hart.ew2]] ∧
      lab.hart.writeStream? (lab.hart.opnd 31 lab.hart.ew1 []) = none) ∧
    (labNarrow.Lanes ∧ labNarrow.hart.rounds? true ∧ (4 : BitVec 3).toNat < 5 ∧ labNarrow.hart.ew1 < labNarrow.hart.ew2 ∧
      labNarrow.hart.groupOk 31 labNarrow.hart.ew1 = true ∧ labNarrow.hart.groupOk 30 labNarrow.hart.ew2 = true ∧
      labNarrow.hart.srcOk 0 28 labNarrow.hart.ew2 = true ∧ (∀ xs ys, Delivered labNarrow xs ys labNarrow) ∧
      labNarrow.hart.Tagged [labNarrow.hart.opnd 30 labNarrow.hart.ew2 [intTag labNarrow.hart.ew2]] ∧
      labNarrow.hart.Tagged (labNarrow.hart.opnd 30 labNarrow.hart.ew2 [intTag labNarrow.hart.ew2] ::
        (labNarrow.hart.src 0 28 labNarrow.hart.ew2 .raw).opnds) ∧
      labNarrow.hart.writeStream? (labNarrow.hart.opnd 31 labNarrow.hart.ew1 []) = none) ∧
    (2 * max lab.hart.ew1 lab.hart.ew2 ≤ 64 ∧ lab.hart.groupOk 30 64 = true ∧ lab.hart.srcOk 0 1 lab.hart.ew2 = true ∧
      max lab.hart.ew1 lab.hart.ew2 ≤ 32 ∧ lab.hart.rounds? true ∧
      lab.hart.Tagged (lab.hart.opnd 31 lab.hart.ew1 [lab.hart.fpTag lab.hart.ew1] :: (lab.hart.src 0 1 lab.hart.ew2 .fp).opnds
        ++ [lab.hart.opnd 28 64 [lab.hart.fpTag 64]]) ∧
      lab.hart.writeStream? (lab.hart.opnd 28 64 [lab.hart.fpTag 64]) = none) :=
  ⟨⟨lab_lanes, by decide +kernel, by decide +kernel, fun _ _ => lab_delivered _ _ (by decide +kernel), by unfold Hart.Tagged; decide +kernel,
      by unfold Hart.Tagged; decide +kernel⟩,
    ⟨by decide, by decide +kernel, by decide +kernel, by unfold Hart.Tagged; decide +kernel, by decide +kernel⟩,
    ⟨by unfold State.Lanes; decide +kernel, (by intro _; decide +kernel), by decide, by decide +kernel, by decide +kernel, by decide +kernel, by decide +kernel,
      fun _ _ => lab_delivered _ _ (by decide +kernel), by unfold Hart.Tagged; decide +kernel, by unfold Hart.Tagged; decide +kernel,
      by decide +kernel⟩,
    ⟨by decide +kernel, by decide +kernel, by decide +kernel, by decide +kernel, (by intro _; decide +kernel), by unfold Hart.Tagged; decide +kernel,
      by decide +kernel⟩⟩

theorem witness_Reductions :
    let h := lab.hart
    h.isCtl = false ∧ h.ill = false ∧ 0 < h.vl.toNat ∧ h.vstart = 0 ∧ h.rounds? true ∧ h.groupOk 31 h.ew1 = true ∧
    (∀ xs ys, Delivered lab xs ys lab) ∧ h.Tagged ((h.reduction .fp 31 1 0).1 :: (h.reduction .fp 31 1 0).2.opnds) ∧
    h.Tagged ((h.reduction .int 31 1 0).1 :: (h.reduction .int 31 1 0).2.opnds) ∧ h.writeStream? ⟨31, 1, h.ew1, []⟩ = none ∧
    (Instr.vfredmax, true) ∈ [(Instr.vfredmin, false), (Instr.vfredmax, true)] :=
  ⟨by decide +kernel, by decide +kernel, by decide +kernel, by decide +kernel, (by intro _; decide +kernel), by decide +kernel,
    fun _ _ => lab_delivered _ _ (by decide +kernel), by unfold Hart.Tagged; decide +kernel, by unfold Hart.Tagged; decide +kernel,
    by decide +kernel, by simp⟩

/-- Each of the eleven completes on v31, and a sum of three encodings has its tree. -/
theorem witness_Reductions_complete : let h := lab.hart
    h.Unbound ∧ h.isCtl = false ∧ h.ill = false ∧ 0 < h.vl.toNat ∧ h.vstart = 0 ∧ h.groupOk 31 h.ew1 = true ∧ h.rm?.isSome = true ∧
    h.tag (31 : VReg).toNat ∈ [0, intTag h.ew1] ∧ h.tag (31 : VReg).toNat ∈ [0, h.fpTag h.ew1] ∧ [1, 2, 3].length ≤ 2 ^ 15 ∧
    2 ^ 1 < [1, 2, 3].length ∧ [1, 2, 3].length ≤ 2 ^ (1 + 1) :=
  ⟨by unfold Hart.Unbound; decide +kernel, by decide +kernel⟩

theorem witness_CrossElementOperations :
    lab.Lanes ∧ lab.hart.srcOk 2 31 lab.hart.ew1 = true ∧ lab.hart.groupOk 31 lab.hart.ew1 = true ∧ lab.hart.groupOk 31 lab.hart.ew2 = true ∧
    lab.hart.writeStream? (lab.hart.opnd 31 lab.hart.ew1 []) = none ∧
    (∀ w ∈ [[lab.hart.fpTag lab.hart.ew1], [intTag lab.hart.ew1], []], lab.Cross lab 31 1 w) ∧
    lab.hart.rounds? true ∧ lab.hart.anyGuarded = true ∧ lab.hart.group8 32 = some 8 ∧ (23 : BitVec 5).toNat + 8 + max 1 (8 / 8) ≤ 32 ∧
    Delivered lab [lab.hart.opnd 1 lab.hart.ew1 []] [lab.hart.opnd 23 lab.hart.ew1 [], ⟨31, 1, 32, []⟩] lab ∧
    lab.hart.writeStream? ⟨31, 1, 32, []⟩ = none ∧ fmtOnly (lab.hart.tag 1) ∈ [0, intTag lab.hart.ew1] :=
  have tagged : ∀ w ∈ [[lab.hart.fpTag lab.hart.ew1], [intTag lab.hart.ew1], []], lab.hart.Tagged [lab.hart.opnd 1 lab.hart.ew1 w] := by
    unfold Hart.Tagged; decide +kernel
  have cross : ∀ w ∈ [[lab.hart.fpTag lab.hart.ew1], [intTag lab.hart.ew1], []], lab.Cross lab 31 1 w := fun w h => by
    refine ⟨?_, ?_, ?_, ?_, ?_, ?_, lab_delivered _ _ (by decide +kernel), tagged w h, ?_⟩ <;> decide +kernel
  ⟨lab_lanes, by decide +kernel, by decide +kernel, by decide +kernel, by decide +kernel, cross, (by intro _; decide +kernel),
    by decide +kernel, by decide +kernel, by decide, lab_delivered _ _ (by decide +kernel), by decide +kernel⟩

theorem lab_unbound : lab.hart.Unbound := by unfold Hart.Unbound; decide +kernel

/-- Each of the seven completes on the laboratory's vectors; v31 is the last register, and v23 the last with indices above it. -/
theorem witness_CrossElementOperations_complete : let h := lab.hart
    h.Unbound ∧ h.isCtl = false ∧ h.ill = false ∧ h.anyActive = true ∧ h.anyGuarded = true ∧ h.vstart = 0 ∧
    h.groupOk 31 h.ew1 = true ∧ h.groupOk 31 h.ew2 = true ∧ h.srcOk 2 31 h.ew1 = true ∧
    h.tag (1 : VReg).toNat ∈ [0, intTag h.ew1] ∧ h.tag (1 : VReg).toNat ∈ [0, h.fpTag h.ew1] ∧ h.rm?.isSome = true ∧
    fmtOnly (h.tag (1 : VReg).toNat) ∈ [0, intTag h.ew1, h.fpTag h.ew1] ∧ h.group8 32 = some 8 ∧ (23 : VReg).toNat + 8 + max 1 (8 / 8) ≤ 32 ∧
    (8 ≤ 8 ∨ ((23 : VReg).toNat + 8) % (8 / 8) = 0) := ⟨lab_unbound, by decide +kernel⟩

theorem witness_Predicates :
    lab.Lanes ∧ lab.hart.pairOk 31 = true ∧ (∀ xs ys, Delivered lab xs ys lab) ∧
    lab.hart.writeStream? { lab.hart.predPair 31 with want := [] } = none ∧ lab.hart.Tagged [lab.hart.predPair 31] ∧
    lab.hart.vstart.toNat < lab.hart.vl.toNat ∧ lab.Ordered 3 5 ∧
    (∃ u vs, ReadsAll lab u 1 (lab.hart.predBytes.map fun k =>
      (k, [lab.hart.readS 1 + BitVec.ofInt 64 (64 * (1 : BitVec 5).toInt) + BitVec.ofNat 64 k])) vs) ∧
    (∃ xs, lab.plan .store 1 (lab.hart.predBytes.map fun k =>
      (k, [lab.hart.readS 1 + BitVec.ofInt 64 (64 * (1 : BitVec 5).toInt) + BitVec.ofNat 64 k])) = .ok xs) ∧
    (Instr.pandn, (fun x y : Bool => x && !y)) ∈ [(Instr.pand, (fun x y => x && y)), (Instr.por, (fun x y => x || y)),
      (Instr.pxor, (fun x y => x != y)), (Instr.pandn, (fun x y => x && !y))] :=
  ⟨lab_lanes, by decide +kernel, fun _ _ => lab_delivered _ _ (by decide +kernel), by decide +kernel, by unfold Hart.Tagged; decide +kernel,
    by decide +kernel, ⟨by decide +kernel, fun _ => by decide +kernel⟩, reads_all (by decide +kernel), plan_ok (by decide +kernel), by simp⟩

/-- Four elements from 0xFFFF0, the last 16 bytes of the heap. -/
def labEnd : State := withS lab [(1, 0xFFFF0), (2, 4)]

theorem witness_VectorLoadsAndStores :
    labEnd.Lanes ∧ labEnd.Ordered 3 5 ∧ labEnd.Ordered 0 0 ∧ (labEnd.hart.ew1 != 4 && labEnd.hart.ew2 != 4) = true ∧
    labEnd.hart.groupOk 31 labEnd.hart.ew1 = true ∧ (some (31 : VReg)).all (fun b => labEnd.hart.groupOk b labEnd.hart.ew2) = true ∧
    (∀ xs ys, Delivered labEnd xs ys labEnd) ∧ labEnd.hart.writeStream? (labEnd.hart.opnd 31 labEnd.hart.ew1 []) = none ∧
    (∃ u vs, ReadsAll labEnd u (elemBytes labEnd.hart.ew1) (labEnd.hart.activeList.map fun k => (k, [labEnd.hart.unitAddr 1 0 k])) vs) ∧
    (∃ u vs, ReadsAll labEnd u (elemBytes labEnd.hart.ew1) (labEnd.hart.activeList.map fun k => (k, [labEnd.hart.strideAddr 1 2 k])) vs) ∧
    (∃ u vs, ReadsAll labEnd u (elemBytes labEnd.hart.ew1) (labEnd.hart.activeList.map fun k =>
      (k, [labEnd.hart.indexAddr 1 (labEnd.hart.indexOf (labEnd.hart.indexOpnd (some 31))) k])) vs) ∧
    (∃ xs, labEnd.plan .store (elemBytes labEnd.hart.ew1) (labEnd.hart.activeList.map fun k => (k, [labEnd.hart.unitAddr 1 0 k])) = .ok xs) ∧
    (∃ xs, labEnd.plan .store (elemBytes labEnd.hart.ew1) (labEnd.hart.activeList.map fun k => (k, [labEnd.hart.strideAddr 1 2 k])) = .ok xs) ∧
    (∃ xs, labEnd.plan .store (elemBytes labEnd.hart.ew1) (labEnd.hart.activeList.map fun k =>
      (k, [labEnd.hart.indexAddr 1 (labEnd.hart.indexOf (labEnd.hart.indexOpnd (some 31))) k])) = .ok xs) ∧ labEnd.hart.ew1 = 8 * 4 :=
  ⟨by unfold State.Lanes; decide +kernel, ⟨by decide, fun _ => by decide +kernel⟩, ⟨by decide, (by intro h; cases h)⟩, by decide +kernel,
    by decide +kernel, by decide +kernel, fun _ _ => lab_delivered _ _ (by decide +kernel), by decide +kernel, reads_all (by decide +kernel),
    reads_all (by decide +kernel), reads_all (by decide +kernel), plan_ok (by decide +kernel), plan_ok (by decide +kernel),
    plan_ok (by decide +kernel), by decide +kernel⟩

theorem witness_VectorPlainMemory :
    let key := fun i : Nat => 0xFFFF0 + 4 * i
    labEnd.Lanes ∧ labEnd.hart.groupOk 31 labEnd.hart.ew1 = true ∧ labEnd.hart.ew1 = 8 * 4 ∧ Memory.wf labEnd.mem = true ∧
    (∀ r, labEnd.hart.bound r = false) ∧
    (∀ i ∈ labEnd.hart.activeList, labEnd.check labEnd.hart.env labEnd.hart.num .load (labEnd.hart.unitAddr 1 0 i) 4 =
      .ok [⟨labEnd.hart.unitAddr 1 0 i, 4, .mem (key i) false true⟩] ∧ labEnd.readCheck (key i) 4 = (labEnd, none)) ∧
    (∀ i ∈ labEnd.hart.activeList, labEnd.check labEnd.hart.env labEnd.hart.num .store (labEnd.hart.unitAddr 1 0 i) 4 =
      .ok [⟨labEnd.hart.unitAddr 1 0 i, 4, .mem (key i) false true⟩] ∧ labEnd.fenced (key i) = false) :=
  ⟨by unfold State.Lanes; decide +kernel, by decide +kernel, by decide +kernel, by decide +kernel,
    (by
      intro r
      by_cases h : r < 4
      · have := List.all_eq_true.1 (show ((List.range 4).all fun r => !labEnd.hart.bound r) = true by decide +kernel) r (List.mem_range.2 h)
        simpa using this
      · unfold Hart.bound Hart.stream
        rw [show labEnd.hart.streams.getD r Stream.unbound = Stream.unbound from dif_neg h]
        decide +kernel),
    by decide +kernel, by decide +kernel⟩

/-- Four elements from 0xFFFF8, of which the last two lie beyond the heap. -/
def labPast : State := withS lab [(1, 0xFFFF8)]

def planFault (p : Plan) : Option (List (Nat × List (List Part)) × Nat × Cause) :=
  match p with
  | .fault xs i c _ => some (xs, i, c)
  | _ => none

theorem plan_fault {p : Plan} {xs : List (Nat × List (List Part))} {i : Nat} {c : Cause} (h : planFault p = some (xs, i, c)) :
    ∃ t, p = .fault xs i c t := by
  cases p <;> simp_all [planFault]

/-- The parts of the two elements below the fault. -/
def labPastParts : List (Nat × List (List Part)) :=
  [(0, [[⟨0xFFFF8, 4, .mem 0xFFFF8 false true⟩]]), (1, [[⟨0xFFFFC, 4, .mem 0xFFFFC false true⟩]])]

theorem read_all {α β : Type} {x : α × β × Option Word} (h : x.2.2.isNone = true) : x = (x.1, x.2.1, none) := by
  rw [← Option.isNone_iff_eq_none.1 h]

theorem find_none {α β : Type} {x : α × Option β} (h : x.2.isNone = true) : x = (x.1, none) := by
  rw [← Option.isNone_iff_eq_none.1 h]

theorem witness_FaultOnlyFirstAndSegments :
    (∃ xs t' u vs w, labPast.Lanes ∧ labPast.Ordered 0 0 ∧ labPast.hart.groupOk 31 labPast.hart.ew1 = true ∧
      labPast.plan .load (elemBytes labPast.hart.ew1) (labPast.hart.activeList.map fun k => (k, [labPast.hart.unitAddr 1 0 k])) =
        .fault xs 2 (.page false 0x100000) t' ∧ (Cause.page false 0x100000).code = 0x06 ∧ labPast.hart.activeList.head? ≠ some 2 ∧
      labPast.readElems xs = (u, vs, none) ∧ u.poisonAfter (elemBytes labPast.hart.ew1)
        ((labPast.hart.activeList.map fun k => (k, [labPast.hart.unitAddr 1 0 k])).drop (xs.length + 1)) = (w, none)) ∧
    (lab.hart.segOk 24 7 0 0 = true ∧ (∀ xs ys, Delivered lab xs ys lab) ∧
      (∀ x ∈ lab.hart.segOpnds 24 8, lab.hart.writeStream? x = none) ∧
      (∃ u vs, ReadsAll lab u (elemBytes lab.hart.ew1) (lab.hart.activeList.map fun i =>
        (i, (List.range 8).map fun k => lab.hart.segAddr 1 1 8 k i)) vs) ∧
      ∃ xs, lab.plan .store (elemBytes lab.hart.ew1) (lab.hart.activeList.map fun i =>
        (i, (List.range 8).map fun k => lab.hart.segAddr 1 1 8 k i)) = .ok xs) := by
  refine ⟨?_, by decide +kernel, fun _ _ => lab_delivered _ _ (by decide +kernel), by decide +kernel, reads_all (by decide +kernel),
    plan_ok (by decide +kernel)⟩
  obtain ⟨t, ht⟩ := plan_fault (p := labPast.plan .load (elemBytes labPast.hart.ew1)
    (labPast.hart.activeList.map fun k => (k, [labPast.hart.unitAddr 1 0 k]))) (xs := labPastParts) (i := 2)
    (c := .page false 0x100000) (by decide +kernel)
  exact ⟨_, t, _, _, _, by unfold State.Lanes; decide +kernel, ⟨by decide, (by intro h; cases h)⟩, by decide +kernel, ht, rfl,
    by decide +kernel, read_all (by decide +kernel), find_none (by decide +kernel)⟩

/-- One element, which is added at 0. -/
def labOne : State := withH (withV lab [(31, 5, 3)]) fun h => { h with vl := 1 }

/-- The elements of a scatter-add all complete. -/
def allDone : Scattered → Bool
  | .all _ => true
  | _ => false

theorem all_done {x : Scattered} (h : allDone x = true) : ∃ u, x = .all u := by cases x <;> first | exact ⟨_, rfl⟩ | cases h

def checksPass {α : Type} (r : Except α Unit) : Bool := match r with | .ok _ => true | .error _ => false

theorem checks_pass {α : Type} {r : Except α Unit} (h : checksPass r = true) : r = .ok () := by
  cases r <;> first | rfl | cases h

theorem witness_ScatterAdds :
    let h := labOne.hart
    let od := h.opnd 31 h.ew1 [h.fpTag h.ew1, intTag h.ew1]
    let ob := h.opnd 1 h.ew2 []
    labOne.Lanes ∧ labOne.Ordered 0 0 ∧ indexOnly h = true ∧ h.groupOk 31 h.ew1 = true ∧ h.groupOk 1 h.ew2 = true ∧
    ((h.srcTag 31 == h.fpTag h.ew1) = true → 16 ≤ h.ew1) ∧ (floatTag (h.srcTag 31) = true → h.rm?.isSome = true) ∧ Delivered labOne [od, ob] [] labOne ∧ h.Tagged [od] ∧
    (∀ k ∈ h.activeList, (h.indexAddr 0 (h.elems ob) k).toNat % (h.ew1 / 8) = 0) ∧
    (∀ k ∈ h.activeList, labOne.addChecks (h.ew1 / 8) (h.indexAddr 0 (h.elems ob) k) [.atomic] = .ok () ∧
      labOne.addChecks (h.ew1 / 8) (h.indexAddr 0 (h.elems ob) k) [.load, .store] = .ok ()) ∧
    (∃ u, runElems (vstxaOne h (h.scatterDraw labOne.ticks) (h.indexAddr 0 (h.elems ob)) (h.elems od) false) labOne h.activeList = .all u) ∧
    (∃ u, runElems (vstxcOne h (h.scatterDraw labOne.ticks) (h.indexAddr 0 (h.elems ob)) (h.elems od) false) labOne h.activeList = .all u) ∧
    (0 ∈ h.guardedList ∧ labOne.check h.env h.num .load 0 4 = .ok [⟨0, 4, .mem 0 false true⟩] ∧
      labOne.check h.env h.num .store 0 4 = .ok [⟨0, 4, .mem 0 false true⟩]) ∧
    (h.ew1 = 8 * 4 ∧ Memory.wf labOne.mem = true ∧
      labOne.check labOne.hart.env labOne.hart.num .atomic 0 4 = .ok [⟨0, 4, .mem 0 false true⟩] ∧ labOne.fenced 0 = false ∧
      labOne.readCheck 0 4 = (labOne, none)) :=
  ⟨by unfold State.Lanes; decide +kernel, ⟨by decide, (by intro h; cases h)⟩, by decide +kernel, by decide +kernel, by decide +kernel,
    by decide +kernel, by decide +kernel, lab_delivered _ _ (by decide +kernel), by unfold Hart.Tagged; decide +kernel, by decide +kernel,
    by
      intro k hk
      have hk0 : k = 0 := by
        have := List.all_eq_true.1 (show (labOne.hart.activeList.all (· == 0)) = true by decide +kernel) k hk
        simpa using this
      subst hk0
      exact ⟨checks_pass (by decide +kernel), checks_pass (by decide +kernel)⟩,
    all_done (by decide +kernel), all_done (by decide +kernel), by decide +kernel, by decide +kernel⟩

end Sys2Proof.Machine.Tests
end

