-- ==== Sys2Proof/Tests/WitnessMatrix.lean ====
section
/-! SUPPORT. Witnesses: states and operands that meet the hypotheses of the statements on matrix and narrow-format
instructions, one for each clause. -/

set_option Elab.async false

namespace Sys2Proof.Machine.Tests

/-! ### Known results -/

def actIs {ε α : Type} [DecidableEq α] (x : Except ε α × State) (a : α) : Bool :=
  match x with
  | (.ok b, _) => decide (b = a)
  | _ => false

/-- A computation that gives a known result and leaves a known state. -/
theorem act_eq {ε α : Type} [DecidableEq α] {x : Except ε α × State} {a : α} {s : State} (h : actIs x a = true) (e : x.2 = s) :
    x = (.ok a, s) := by
  obtain ⟨r, t⟩ := x
  cases r with
  | error _ => cases h
  | ok b => simp only at e; subst e; simp [of_decide_eq_true (show decide (b = a) = true from h)]

def gotIs (g : Got) (v : Nat) (t : State) : Bool :=
  match g with
  | .ok w u => decide (w = v ∧ u = t)
  | _ => false

theorem got_eq {g : Got} {v : Nat} {t : State} (h : gotIs g v t = true) : g = .ok v t := by
  cases g with
  | ok w u => obtain ⟨rfl, rfl⟩ := of_decide_eq_true (show decide (w = v ∧ u = t) = true from h); rfl
  | _ => cases h

def planList : Plan → List (Nat × List (List Part))
  | .ok xs => xs
  | _ => []

theorem plan_list {p : Plan} (h : planOk p = true) : p = .ok (planList p) := by
  cases p <;> first | rfl | cases h

/-! ### Products -/

/-- Elements of 64 bits in quarters of a register, VL 16: tiles of 2 rows. -/
def labTile : State := withH lab fun h => { h with vcfg := 91, vlmax := 32, vl := 16 }

theorem labTile_tiled : labTile.Tiled 31 2 := by unfold State.Tiled; decide +kernel

theorem witness_MatrixMultiply :
    let h := labTile.hart
    let od := h.accOpnd 31 [8]
    let none' : Scaling := ⟨none, 32, none, 0⟩
    labTile.Tiled 31 2 ∧ (fmtOnly (h.srcTag 1)).toNat = 0 ∧ matRow h.ew1 (h.fpTag h.ew2).toNat false = some ⟨4, 8, [8]⟩ ∧
    h.rounds? true ∧ h.fpTag h.ew2 = 8 ∧ h.ew2 = 64 ∧ h.matOpnd 0 64 (2 * 4 * 64) 8 = some ⟨0, 1, 64, []⟩ ∧
    h.matOpnd 1 64 (4 * 64 * h.vl.toNat) 8 = some ⟨1, 1, 64, []⟩ ∧ od.meets ⟨0, 1, 64, []⟩ (hasSide 8).toNat = false ∧
    od.meets ⟨1, 1, 64, []⟩ (hasSide 8).toNat = false ∧ Delivered labTile [⟨0, 1, 64, []⟩, ⟨1, 1, 64, []⟩, od] [od] labTile ∧
    h.Tagged [od] ∧ Act.sideUse ⟨0, 1, 64, []⟩ 8 (decide ((8 : Nat) = 3)) 8 none labTile = (.ok none', labTile) ∧
    Act.sideUse ⟨1, 1, 64, []⟩ 8 (decide ((8 : Nat) = 3)) 8 none labTile = (.ok none', labTile) ∧
    Act.listOf none' labTile = (.ok none, labTile) ∧
    (∃ as, valuesOf h 8 none' none (h.elems ⟨0, 1, 64, []⟩) 4 (fun i k => i * 4 + k) ((List.range 2).drop h.mstart.toNat) = some as) ∧
    (∃ bs, ((List.range h.vl.toNat).mapM fun j =>
      if h.guard j then
        (valuesOf h 8 none' none (h.elems ⟨1, 1, 64, []⟩) 4 (fun j k => k * h.vl.toNat + j) [j]).map List.flatten
      else some []) = some bs) ∧
    h.arming = none ∧ h.mstart.toNat < 2 ∧ [(1 : Int), 2].length = [(3 : Int), 4].length ∧ h.sat = false ∧
    (withH labTile fun h => { h with mode := 64 }).hart.sat = true :=
  ⟨labTile_tiled, by decide +kernel, by decide +kernel, (by intro _; decide +kernel), by decide +kernel, by decide +kernel,
    by decide +kernel, by decide +kernel, by decide +kernel, by decide +kernel, lab_delivered _ _ (by decide +kernel),
    by unfold Hart.Tagged; decide +kernel, act_eq (by decide +kernel) (by decide +kernel), act_eq (by decide +kernel) (by decide +kernel),
    act_eq (by decide +kernel) (by decide +kernel), Option.isSome_iff_exists.1 (by decide +kernel),
    Option.isSome_iff_exists.1 (by decide +kernel), by decide +kernel⟩

theorem labTile_unbound : labTile.hart.Unbound := by unfold Hart.Unbound; decide +kernel

/-- Armings of an element that MMA performs and of one beyond VL, caught by the residue, by the mirror and by none. -/
theorem witness_ProductEnds :
    (∀ m : Bool, let a : Arming := ⟨1, 15, m, 1⟩
      let h := (withH labTile fun h => { h with arming := some a }).hart
      h.arming = some a ∧ h.mstart.toNat ≤ a.row ∧ a.row < 2 ∧ a.col < h.vl.toNat ∧ h.guard a.col = true ∧ h.prot = false) ∧
    ¬ 16 < labTile.hart.vl.toNat ∧ (withH labTile fun h => { h with mode := 0x1000 }).hart.prot = true ∧ labTile.hart.mstart.toNat < 2 := by
  decide +kernel

/-- Operands of MMA, and a tile of MZERO, that name no list and need no scales. -/
theorem witness_MatrixMultiply_complete : let h := labTile.hart
    h.Unbound ∧ (fmtOnly (h.tag (1 : VReg).toNat)).toNat = 0 ∧ (8 : Nat) ∈ [8] ∧ (h.tag (0 : VReg).toNat).getLsbD 5 = false ∧
    (h.tag (1 : VReg).toNat).getLsbD 5 = false ∧ (8 : Nat) ≠ 15 ∧
    (15 : Nat) ∈ [12, 15] ∧ (withV labTile [(2, 0, tagE8M0)]).hart.tag 2 = tagE8M0 := ⟨labTile_unbound, by decide +kernel⟩

/-- Descriptors at 0x40 and 0x80: 4 FP64 elements a row at 0x1000 and at 0x2000. -/
def labMmam : State := withM (withS labTile [(1, 0x40), (2, 0x80)])
  [(0x40, 8, 0x1000), (0x48, 8, 32), (0x68, 4, 4), (0x70, 1, 8), (0x80, 8, 0x2000), (0x88, 8, 32), (0xA8, 4, 4), (0xB0, 1, 8)]

def labMmamPlan : List (Nat × List (List Part)) :=
  let x := MatDesc.ofNat (gotVal (labMmam.loadN 0x40 64))
  let y := MatDesc.ofNat (gotVal (labMmam.loadN 0x80 64))
  planList (labMmam.planRows ((0, labMmam.firstReads x y 0) :: ((List.range 2).drop 1).map fun i => (i, x.reads i)))

theorem witness_MatrixMultiplyMemory :
    let s := labMmam
    let wx := gotVal (s.loadN 0x40 64)
    let wy := gotVal (s.loadN 0x80 64)
    let x := MatDesc.ofNat wx
    let y := MatDesc.ofNat wy
    let od := s.hart.accOpnd 31 [8]
    let vs := (s.readElems labMmamPlan).2.1
    let first := (vs.headD (0, [])).2
    s.Tiled 31 2 ∧ (s.hart.readS 1).toNat % 64 = 0 ∧ (s.hart.readS 2).toNat % 64 = 0 ∧
    s.loadN (s.hart.readS 1) 64 = .ok wx s ∧ s.loadN (s.hart.readS 2) 64 = .ok wy s ∧
    matRow s.hart.ew1 y.fmt true = some ⟨4, 8, [8]⟩ ∧ s.hart.rounds? true ∧
    (x.ok && y.ok && x.ktot == y.ktot && x.ktot % 4 == 0 && [8].contains x.fmt) = true ∧
    Delivered s [od] [od] s ∧ s.hart.Tagged [od] ∧ s.hart.mstart.toNat = 0 ∧
    s.planRows ((0, s.firstReads x y 0) :: ((List.range 2).drop (0 + 1)).map fun i => (i, x.reads i)) = .ok labMmamPlan ∧
    s.readElems labMmamPlan = (s, vs, none) ∧ vs = (0, first) :: vs.tail ∧
    Act.listFrom x.grouta (first.drop ((x.reads 0).length + (y.reads 0).length * s.hart.columns.length)) s = (.ok none, s) ∧
    Act.listFrom y.grouta ((first.drop ((x.reads 0).length + (y.reads 0).length * s.hart.columns.length)).drop
      (s.listReads x.grouta).length) s = (.ok none, s) ∧
    (∃ bs, ((List.range s.hart.vl.toNat).mapM fun j =>
      if s.hart.guard j then
        y.values s.hart.ftz none j ((first.drop ((x.reads 0).length + (y.reads 0).length * s.hart.columns.idxOf j)).take
          (y.reads 0).length)
      else some []) = some bs) ∧
    (∃ as, (((0, first.take (x.reads 0).length) :: vs.tail).mapM fun p => x.values s.hart.ftz none p.1 p.2) = some as ∧
      as.length = 2 - 0) ∧ s.hart.arming = none :=
  ⟨by unfold State.Tiled; decide +kernel, by decide +kernel, by decide +kernel, got_eq (by decide +kernel), got_eq (by decide +kernel),
    by decide +kernel, (by intro _; decide +kernel), by decide +kernel, lab_delivered _ _ (by decide +kernel),
    by unfold Hart.Tagged; decide +kernel, by decide +kernel, plan_list (by decide +kernel), by decide +kernel, by decide +kernel,
    act_eq (by decide +kernel) (by decide +kernel), act_eq (by decide +kernel) (by decide +kernel),
    Option.isSome_iff_exists.1 (by decide +kernel),
    ⟨_, Option.eq_some_of_isSome (by decide +kernel), by decide +kernel⟩, by decide +kernel⟩

theorem witness_MatrixMultiplyMemory_complete : let s := labMmam
    let x := MatDesc.ofNat (gotVal (s.loadN 0x40 64))
    let y := MatDesc.ofNat (gotVal (s.loadN 0x80 64))
    s.hart.Unbound ∧ x.grouta = 0 ∧ y.grouta = 0 ∧ (s.readElems labMmamPlan).1.hart = s.hart :=
  ⟨by unfold Hart.Unbound; decide +kernel, by decide +kernel⟩

/-- The hart in supervisor mode with injection enabled, and a reserved bit. -/
def labInject : State := withS (withH labX fun h => { h with ctxcfg := 4 }) [(1, 0x200)]

def labDrainPlan : List (Nat × List (List Part)) :=
  planList (labTile.plan .store 8 ((List.range 2).map fun i =>
    (i, labTile.hart.columns.map fun j => (0 : Word) + BitVec.ofNat 64 i * 0 + BitVec.ofNat 64 (j * 8))))

theorem witness_MatrixZeroPerturb :
    (labTile.Tiled 31 2 ∧ Delivered labTile [] [labTile.hart.accOpnd 31 []] labTile ∧
      labTile.hart.writeStream? (labTile.hart.accOpnd 31 []) = none ∧ labTile.hart.mstart.toNat < 2) ∧
    (labInject.hart.isCtl = false ∧ labInject.hart.readS 1 &&& 0xFFFFFFFF7F00FE00 ≠ 0 ∧
      labInject.hart.readS 2 &&& 0xFFFFFFFF7F00FE00 = 0 ∧ labInject.hart.inX = true ∧ labInject.hart.ctxcfg.getLsbD 2 = true ∧
      lab.hart.inX = false ∧ labX.hart.ctxcfg.getLsbD 2 = false) :=
  ⟨⟨labTile_tiled, lab_delivered _ _ (by decide +kernel), by decide +kernel⟩, by decide +kernel⟩

def labAcc : Opnd := labTile.hart.accOpnd 31 [8]

/-- The tile stored. -/
def labDrained : State := labTile.storeAll 64 labDrainPlan fun i => labTile.hart.columns.map fun j =>
  (drainElem labTile.hart 8 0 (labTile.hart.elems labAcc (i * labTile.hart.vl.toNat + j))).1

/-- A tile drained as it is, without and with a maximum word. -/
theorem witness_MatrixZeroPerturbDrain :
    (if labTile.hart.srcTag 31 = 3 ∧ labTile.hart.ew1 = 32 then 3 else (labTile.hart.fpTag labTile.hart.ew1).toNat) = 8 ∧
    (drainFormats 8).contains (0 : BitVec 6).toNat = true ∧ labTile.hart.rm?.isSome = true ∧ Delivered labTile [labAcc] [] labTile ∧
    labTile.hart.Tagged [labAcc] ∧
    labTile.plan .store 8 ((List.range 2).map fun i =>
      (i, labTile.hart.columns.map fun j => (0 : Word) + BitVec.ofNat 64 i * 0 + BitVec.ofNat 64 (j * 8))) = .ok labDrainPlan ∧
    labTile.hart.readS 5 = 0 ∧ labTile.hart.mstart.toNat = 0 ∧
    largestOf ((labDrainPlan.flatMap fun x =>
      labTile.hart.columns.map fun j => labTile.hart.elems labAcc (x.1 * labTile.hart.vl.toNat + j)).map (magnitude 8)) = some 0 ∧
    largestOf [] = none ∧ labTile.check labTile.hart.env labTile.hart.num .atomic 0 8 = .ok [⟨0, 8, .mem 0 false true⟩] ∧
    labTile.readNat [⟨0, 8, .mem 0 false true⟩] = .ok 0 labTile ∧ labTile.releaseReady 4 = true ∧
    State.releaseReady { labTile with cmds := [pendingCmd] } 4 = false ∧
    ∃ old w, labDrained.atomicN 0 8 (fun x => some (mergeMax labTile.hart 8 0 x)) = .ok old w :=
  ⟨by decide +kernel, by decide +kernel, by decide +kernel, lab_delivered _ _ (by decide +kernel), by unfold Hart.Tagged; decide +kernel,
    plan_list (by decide +kernel), by decide +kernel, by decide +kernel, by decide +kernel, rfl, by decide +kernel,
    got_eq (by decide +kernel), by decide +kernel, by decide +kernel, got_ok (by decide +kernel)⟩

/-! ### Narrow formats -/

/-- Elements of 16 bits from elements of 8 bits. -/
def labDeq : State := withH lab fun h => { h with vcfg := 193, vlmax := 512 }

theorem witness_VectorDequantise :
    let h := labDeq.hart
    let oa := h.opnd 2 h.ew2 []
    let od := h.opnd 31 h.ew1 []
    let y : Scaling := ⟨none, 32, none, 0⟩
    let x := NarrowDesc.ofNat 0
    labDeq.Lanes ∧ h.rounds? true ∧ h.Unbound ∧ labDeq.loadN (h.readS 0) 32 = .ok 0 labDeq ∧
    Act.narrowDesc 0 NarrowDesc.deqOk labDeq = (.ok x, labDeq) ∧ Delivered labDeq [oa] [od] labDeq ∧
    Act.sideUse oa (h.fpTag h.ew2).toNat false (h.fpTag h.ew2) none labDeq = (.ok y, labDeq) ∧
    Act.listOf y labDeq = (.ok none, labDeq) ∧
    (h.ew1 ∈ [16, 32, 64] ∧ h.ew2 ∈ [8, 4] ∧ h.groupOk 31 h.ew1 = true ∧ h.groupOk 2 h.ew2 = true ∧ oa.side ≤ 31 ∧
      h.writeStream? od = none ∧ h.tag oa.reg = 0 ∧ x.grouta = 0 ∧ x.deqOk = true ∧ (h.readS 0).toNat % 32 = 0 ∧
      ∀ i ∈ h.activeList, (exactElem h.ftz (h.fpTag h.ew2).toNat none (y.at i) (y.tbase + i) (h.elems oa i)).isSome = true) :=
  ⟨by unfold State.Lanes; decide +kernel, (by intro _; decide +kernel), by unfold Hart.Unbound; decide +kernel, got_eq (by decide +kernel),
    act_eq (by decide +kernel) (by decide +kernel), lab_delivered _ _ (by decide +kernel), act_eq (by decide +kernel) (by decide +kernel),
    act_eq (by decide +kernel) (by decide +kernel), by decide +kernel⟩

/-- The side register of v2 holds scales. -/
def labScale : State := withV lab [(3, 0x7F80FF, tagE8M0)]

theorem witness_VectorScale :
    let h := labScale.hart
    let oa := h.opnd 2 h.ew1 [h.fpTag h.ew1]
    let od := h.opnd 31 h.ew1 []
    labScale.Lanes ∧ h.rounds? true ∧ h.Unbound ∧ labScale.loadN (h.readS 0) 32 = .ok 0 labScale ∧
    Act.narrowDesc 0 NarrowDesc.scaleOk labScale = (.ok (NarrowDesc.ofNat 0), labScale) ∧ Delivered labScale [oa] [od] labScale ∧
    h.Tagged [oa] ∧
    (h.ew1 ∈ [16, 32, 64] ∧ h.groupOk 31 h.ew1 = true ∧ h.groupOk 2 h.ew1 = true ∧ oa.side ≤ 31 ∧ h.writeStream? od = none ∧
      h.tag oa.side = tagE8M0 ∧ (NarrowDesc.ofNat 0).scaleOk = true ∧ (h.readS 0).toNat % 32 = 0) :=
  ⟨by unfold State.Lanes; decide +kernel, (by intro _; decide +kernel), by unfold Hart.Unbound; decide +kernel, got_eq (by decide +kernel),
    act_eq (by decide +kernel) (by decide +kernel), lab_delivered _ _ (by decide +kernel), by unfold Hart.Tagged; decide +kernel,
    by decide +kernel⟩

def unitsOk {ε α β : Type} : Except ε (α × Option β) × State → Bool
  | (.ok (_, none), _) => true
  | _ => false

/-- Units that all complete. -/
theorem act_units {ε α β : Type} {x : Except ε (α × Option β) × State} (h : unitsOk x = true) : ∃ rs u, x = (.ok (rs, none), u) := by
  obtain ⟨r, t⟩ := x
  cases r with
  | error _ => cases h
  | ok p =>
    obtain ⟨a, b⟩ := p
    cases b with
    | none => exact ⟨a, t, rfl⟩
    | some _ => cases h

/-- Elements of 8 bits from elements of 16 bits, with a descriptor at 0x40 of format E4M3, without and with a list. -/
def labQuant : State := withM (withS (withH lab fun h => { h with vcfg := 200, vlmax := 512 }) [(1, 0x40), (2, 0x80)])
  [(0x40, 8, 0), (0x54, 1, 12), (0x80, 8, 0x1000), (0x94, 1, 12), (0x1000, 8, 0x400400)]

theorem witness_NarrowFormats :
    let h := labQuant.hart
    let oa := h.opnd 4 h.ew2 [h.fpTag h.ew2]
    let od := h.opnd 8 h.ew1 []
    let x := NarrowDesc.ofNat (gotVal (labQuant.loadN 0x40 32))
    let z := NarrowDesc.ofNat (gotVal (labQuant.loadN 0x80 32))
    let g : Grout := ⟨0x1000, 64, 4, 0, false, []⟩
    let q : Option Grout → Quant := fun g => ⟨fun i => (h.fmt h.ew2).unpack h.ftz (h.elems oa i), 12, 32, 0,
      FFmt.fp32.unpack false 0, 0, false, g⟩
    labQuant.Lanes ∧ h.rounds? true ∧ h.Unbound ∧ h.Tagged [oa] ∧ Delivered labQuant [oa] [od] labQuant ∧
    labQuant.loadN (h.readS 1) 32 = .ok (gotVal (labQuant.loadN 0x40 32)) labQuant ∧
    Act.narrowDesc 1 (fun x => x.quantOk h.ew1 h.vstart.toNat) labQuant = (.ok x, labQuant) ∧
    Act.narrowDesc 2 (fun x => x.quantOk h.ew1 h.vstart.toNat) labQuant = (.ok z, labQuant) ∧
    Act.groutHeader z.grouta labQuant = (.ok g, labQuant) ∧
    (∃ rs u, (q none).run 1 ⟨0, none, false⟩ 0 labQuant = (.ok (rs, none), u)) ∧
    (∃ rs u, (q (some g)).run 1 ⟨0, none, false⟩ 0 labQuant = (.ok (rs, none), u)) ∧
    (h.ew1 ∈ [8, 4] ∧ h.ew2 ∈ [16, 32, 64] ∧ h.groupOk 8 h.ew1 = true ∧ h.groupOk 4 h.ew2 = true ∧ od.side ≤ 31 ∧
      oa.meets od 1 = false ∧ h.vstart.toNat % 32 = 0 ∧ h.writeStream? od = none ∧ x.grouta = 0 ∧ z.grouta ≠ 0 ∧
      x.dfmt = 12 ∧ z.dfmt = 12 ∧ x.bl = 32 ∧ z.bl = 32 ∧ x.tbase = 0 ∧ z.tbase = 0 ∧ x.thresh = 0 ∧ z.thresh = 0 ∧ h.vl.toNat = 4 ∧
      h.vstart = 0 ∧ h.mode = 0 ∧ (h.readS 1).toNat % 32 = 0 ∧ x.quantOk h.ew1 h.vstart.toNat = true) :=
  ⟨by unfold State.Lanes; decide +kernel, (by intro _; decide +kernel), by unfold Hart.Unbound; decide +kernel,
    by unfold Hart.Tagged; decide +kernel, lab_delivered _ _ (by decide +kernel), got_eq (by decide +kernel),
    act_eq (by decide +kernel) (by decide +kernel), act_eq (by decide +kernel) (by decide +kernel),
    act_eq (by decide +kernel) (by decide +kernel), act_units (by decide +kernel), act_units (by decide +kernel), by decide +kernel⟩

/-- Values that are not finite, zero, and finite. -/
theorem witness_ScaleOfAUnit : (∃ v ∈ [FVal.inf false], v.isFin = false) ∧ (∀ v ∈ [FVal.fin true 0 3], ∃ s e, v = .fin s 0 e) ∧
    (∀ v ∈ [FVal.fin false 5 2], v.isFin = true) ∧
    (FVal.fin false 5 2 ∈ [FVal.fin false 5 2, .fin true 9 1] ∧ 5 ≠ 0 ∧ ∀ v ∈ [FVal.fin false 5 2, .fin true 9 1], ∃ t n f, v = .fin t n f ∧
      ∀ q : Int, q ≤ 2 → q ≤ f → n * 2 ^ (f - q).toNat ≤ 5 * 2 ^ (2 - q).toNat) ∧
    ((12 : Nat), (8 : Int)) ∈ [(14, 2), (12, 8), (13, 15)] :=
  ⟨⟨_, List.mem_singleton.2 rfl, rfl⟩, fun _ h => ⟨true, 3, List.mem_singleton.1 h⟩, by decide, ⟨List.mem_cons_self, by decide, fun v h => by
    rcases List.mem_cons.1 h with rfl | h
    · exact ⟨_, _, _, rfl, fun q h1 h2 => Nat.le_refl _⟩
    · obtain rfl := List.mem_singleton.1 h
      refine ⟨_, _, _, rfl, fun q h1 h2 => ?_⟩
      rw [show (2 - q).toNat = (1 - q).toNat + 1 by omega, Nat.pow_succ]
      have := Nat.two_pow_pos (1 - q).toNat
      omega⟩, by decide⟩

end Sys2Proof.Machine.Tests
end

