-- ==== Sys2Proof/Tests/WitnessEngines.lean ====
section
/-! SUPPORT. Witnesses: states and operands that meet the hypotheses of the statements on tiles, tasks, engines and remote
operations, one for each clause. -/

set_option Elab.async false

namespace Sys2Proof.Machine.Tests

/-! ### Known answers -/

def exceptIs {ε α : Type} [DecidableEq α] (x : Except ε α) (a : α) : Bool :=
  match x with
  | .ok b => decide (b = a)
  | _ => false

theorem except_eq {ε α : Type} [DecidableEq α] {x : Except ε α} {a : α} (h : exceptIs x a = true) : x = .ok a := by
  cases x with
  | error _ => cases h
  | ok b => rw [of_decide_eq_true (show decide (b = a) = true from h)]

def exceptSome {ε α : Type} : Except ε α → Bool
  | .ok _ => true
  | _ => false

theorem except_ok {ε α : Type} {x : Except ε α} (h : exceptSome x = true) : ∃ a, x = .ok a := by
  cases x with
  | error _ => cases h
  | ok a => exact ⟨a, rfl⟩

/-! ### Tiles -/

/-- The hart with a tile of S1 in a state, which it names with s1, and 64 in s2. -/
def labWith (st : TileSt) : State :=
  { withS lab [(1, 0xFFFFFF0000000000), (2, 64)] with tiles := [⟨.s1, 0, 0, 64, st, false, 64, 0, 0, false, false, 0, 0⟩] }

def tileIn (st : TileSt) : Tile := ⟨.s1, 0, 0, 64, st, false, 64, 0, 0, false, false, 0, 0⟩

theorem witness_TileInstructions :
    (let s := withS lab [(1, 0xFFFFFF00001FFFC0), (2, 64)]
     s.hart.isCtl = false ∧ windowOf (s.hart.readS 1) = some (.s1, 0x1FFFC0) ∧ 0x1FFFC0 % 64 = 0 ∧ (s.hart.readS 2).toNat % 64 = 0 ∧
     0 < (s.hart.readS 2).toNat ∧ 0x1FFFC0 + (s.hart.readS 2).toNat ≤ levelSize .s1 ∧ s.tileTable .s1 (levelInst .s1 s.hart.core) = [] ∧
     0 < tileCapacity .s1) ∧
    (∀ st, (labWith st).hart.isCtl = false ∧ (labWith st).namedTile ((labWith st).hart.readS 1) = .ok (tileIn st) ∧
      0 < ((labWith st).hart.readS 2).toNat ∧ ((labWith st).hart.readS 2).toNat < 2 ^ 26 ∧
      (tileIn st).ph = ((labWith st).hart.readS 2).getLsbD 0) ∧
    (labWith .filling).tiles[0]? = some (tileIn .filling) ∧ (labWith .ready).tiles[0]? = some (tileIn .ready) := by
  refine ⟨by decide +kernel, fun st => ?_, by decide +kernel, by decide +kernel⟩
  cases st <;> exact ⟨by decide +kernel, except_eq (by decide +kernel), by decide +kernel, by decide +kernel, by decide +kernel⟩

/-! ### Tasks and blocks -/

/-- A launch of two grains with a write declaration 0 and a read declaration 1 without an edge. -/
def demoLaunch : Launch :=
  ⟨0, 1, 2, 1, 0, 0x4000, 9, 0, 8, 4, 1, [⟨true, 0, 0, 1, 0, 1, 0, 64, 2, 0, 0, 0⟩, ⟨false, 1, 0, 1, 0, 1, 0, 64, 2, 0, 0, 0⟩], [], [],
    [⟨0, 2, none⟩], 1, [], false⟩

def demoReplay : Replay := ⟨0, 1, 1, 0, 2, 0x4000, 0, [], [], 0, 0, 0, 0, false, 0, [], [], none, 0x2000, some 3⟩

/-- The hart in a block of that launch; s1 names its write declaration's tile 0, s2 its read declaration's, s3 neither. -/
def labBlock : State :=
  { withS (withH lab fun h => { h with block := some ⟨1, 2, 1, 0, 1⟩ }) [(1, 0x100000000), (2, 0x1000100000000), (3, 0x200000000)] with
    fe := { FrontEnd.reset with launches := [demoLaunch], replays := [demoReplay], mortar := [⟨0, 1, 2, 1, 0, 0, 0, false⟩] } }

/-- A launch whose read declaration names node 2, through an entry or by its completion, and the tag set or the node done. -/
def labTest (edge : Nat) : State :=
  { labBlock with fe := { labBlock.fe with
      launches := [{ demoLaunch with decls := [⟨true, 0, 0, 1, 0, 1, 0, 64, 2, 0, 0, 0⟩, ⟨false, 1, 0, 1, 0, 1, 0, 64, 2, 2, 0, edge⟩] }]
      mortar := [⟨0, 1, 2, 1, 0, 0, 0, true⟩], replays := [{ demoReplay with nodes := [(2, 3)] }] } }

/-- Reset with that launch on an active context of core 0. -/
def labServe : State :=
  { State.reset with
    fe := { FrontEnd.reset with launches := [demoLaunch], replays := [demoReplay] }
    cx := ⟨[(0, demoCtx 1)], 0, 0, 0, []⟩ }

theorem witness_TasksAndBlocks :
    (lab.hart.isCtl = false ∧ lab.tiles = [] ∧ lab.cmds = [] ∧ lab.launchOf lab.hart = none ∧
      labBlock.launchOf labBlock.hart = some demoLaunch ∧ labBlock.tiles = [] ∧ labBlock.cmds = [] ∧
      (labWith .filling).armedTiles = [tileIn .filling] ∧
      State.unregistered { lab with cmds := [pendingCmd] } = true ∧ State.armedTiles { lab with cmds := [pendingCmd] } = []) ∧
    (labBlock.hart.isCtl = false ∧ (labBlock.namedTag true (labBlock.hart.readS 1)).isSome = true ∧ labBlock.fe.takeover = false ∧
      labBlock.unregistered = false ∧ (labBlock.namedTag false (labBlock.hart.readS 2)).isSome = true ∧
      labBlock.namedTag true (labBlock.hart.readS 3) = none ∧ labBlock.namedTag false (labBlock.hart.readS 3) = none ∧
      labBlock.hart.xt = false ∧ labBlock.hart.block = some ⟨1, 2, 1, 0, 1⟩) ∧
    ((lab.hartAt 0).st ≠ .idle ∧ (labServe.hartAt 0).st = .idle ∧ (labServe.hartAt 0).num = 0 ∧ labServe.powered = true ∧
      (labServe.fe.waiting.filter fun m => m / 96 == 0 / 96).takeWhile (· != 0) = [] ∧ (labServe.serve 0).isSome = true ∧ (State.reset.hartAt 0).st = .idle ∧
      State.reset.powered = true ∧ (State.reset.fe.waiting.filter fun m => m / 96 == 0 / 96).takeWhile (· != 0) = [] ∧ State.reset.serve 0 = none) :=
  ⟨by decide +kernel, by decide +kernel, by decide +kernel⟩

/-- Node 2's tile 0 of a reserved and of a fallback edge. -/
theorem witness_TasksAndBlocks_ready :
    (∀ e ∈ [1, 2], ∃ l d, (labTest e).namedTag false ((labTest e).hart.readS 2) = some (l, d) ∧ d.edge = e ∧ d.pnode = 2 ∧ d.pdecl = 0 ∧
      l.slot = 1 ∧ l.gen = 1) ∧
    (∃ m ∈ (labTest 1).fe.mortar, m.isFor 1 2 0 0 1 = true ∧ m.isSet = true) ∧
    (∃ r, (labTest 2).replayOf 1 1 = some r ∧ r.done 2 = true) ∧ 0 ∉ labBlock.fe.waiting := by
  refine ⟨fun e he => ⟨((labTest e).namedTag false ((labTest e).hart.readS 2)).getD (demoLaunch, ⟨true, 0, 0, 1, 0, 1, 0, 64, 2, 0, 0, 0⟩) |>.1,
    ((labTest e).namedTag false ((labTest e).hart.readS 2)).getD (demoLaunch, ⟨true, 0, 0, 1, 0, 1, 0, 64, 2, 0, 0, 0⟩) |>.2, ?_⟩,
    ⟨_, List.mem_singleton.2 rfl, by decide +kernel⟩, ⟨_, rfl, by decide +kernel⟩, by decide +kernel⟩
  revert e; decide +kernel

/-! ### Copies -/

/-- At 0x40 four elements of 4 bytes from 0x1000 to 0x2000; at 0x140 one gathered by the index at 0x1C0; the hart's registers
s1 and s2 name them, s3 is misaligned. -/
def labCopy : State := withM (withS lab [(1, 0x40), (2, 0x140), (3, 0x41)])
  [(0x40, 2, 0x1000), (0x48, 2, 0x2000), (0x50, 2, 0x201), (0x80, 1, 4), (0x84, 1, 4), (0x90, 1, 4), (0x98, 1, 4),
   (0x140, 2, 0x1000), (0x148, 2, 0x2000), (0x150, 2, 0x201), (0x160, 2, 0x1C0), (0x168, 1, 1), (0x16C, 1, 2), (0x178, 1, 4),
   (0x180, 1, 1), (0x190, 1, 4), (0x198, 1, 4), (0x1C0, 1, 3)]

theorem witness_CopyIssue :
    let h := gotVal (labCopy.loadN 0x40 64)
    let g := gotVal (labCopy.loadN 0x140 64)
    let d := gotVal (labCopy.loadN 0x80 32)
    let f := gotVal (labCopy.loadN 0x180 32)
    labCopy.hart.isCtl = false ∧ (labCopy.hart.readS 3).toNat % 64 ≠ 0 ∧ (labCopy.hart.readS 1).toNat % 64 = 0 ∧
    labCopy.loadN (labCopy.hart.readS 1) 64 = .ok h labCopy ∧ labCopy.loadN (labCopy.hart.readS 2) 64 = .ok g labCopy ∧
    (List.range (copyDims h)).mapM (m := Act) (fun k => Act.load (plus 0x40 (64 + 32 * k)) 32) labCopy = (.ok [d], labCopy) ∧
    (List.range (copyDims g)).mapM (m := Act) (fun k => Act.load (plus 0x140 (64 + 32 * k)) 32) labCopy = (.ok [f], labCopy) ∧
    (CopyBlock.ofNat h [d]).ok 0 = true ∧ (CopyBlock.ofNat h [d]).ndim = 1 ∧ (CopyBlock.ofNat g [f]).ok 2 = true ∧
    (CopyBlock.ofNat g [f]).idx % 2 ^ (CopyBlock.ofNat g [f]).idxw = 0 ∧
    Act.indices (CopyBlock.ofNat g [f]) labCopy = (.ok [3], labCopy) ∧
    (∃ k, labCopy.copyCheck 0 0x40 none (CopyBlock.ofNat h [d]) [] = .ok k) ∧
    (labCopy.copyQueue labCopy.hart.core).length < 32 ∧
    32 ≤ (State.copyQueue { labCopy with cmds := List.replicate 32 pendingCmd } labCopy.hart.core).length :=
  ⟨by decide +kernel, by decide +kernel, by decide +kernel, got_eq (by decide +kernel), got_eq (by decide +kernel),
    act_eq (by decide +kernel) (by decide +kernel), act_eq (by decide +kernel) (by decide +kernel), by decide +kernel, by decide +kernel,
    by decide +kernel, by decide +kernel, act_eq (by decide +kernel) (by decide +kernel), except_ok (by decide +kernel), by decide +kernel, by decide +kernel⟩

/-- The copies of `labCopy`, without a completion word: each dimension, and the index of the gather, can be read. -/
theorem witness_CopyIssue_complete :
    let h := gotVal (labCopy.loadN 0x40 64)
    let g := gotVal (labCopy.loadN 0x140 64)
    let f := gotVal (labCopy.loadN 0x180 32)
    (∀ k < copyDims h, labCopy.loadN (plus 0x40 (64 + 32 * k)) 32 = .ok (gotVal (labCopy.loadN 0x80 32)) labCopy) ∧
    (∀ k < copyDims g, labCopy.loadN (plus 0x140 (64 + 32 * k)) 32 = .ok f labCopy) ∧
    (∀ j < (CopyBlock.ofNat g [f]).nidx, labCopy.loadN (plus (BitVec.ofNat 64 (CopyBlock.ofNat g [f]).idx)
      (j * 2 ^ (CopyBlock.ofNat g [f]).idxw)) (2 ^ (CopyBlock.ofNat g [f]).idxw) = .ok 3 labCopy) ∧
    (∃ k, labCopy.copyCheck 2 0x140 none (CopyBlock.ofNat g [f]) [3] = .ok k) :=
  have one : copyDims (gotVal (labCopy.loadN 0x40 64)) = 1 ∧ copyDims (gotVal (labCopy.loadN 0x140 64)) = 1 ∧
      (CopyBlock.ofNat (gotVal (labCopy.loadN 0x140 64)) [gotVal (labCopy.loadN 0x180 32)]).nidx = 1 := by decide +kernel
  ⟨fun k hk => by rw [show k = 0 by omega]; exact got_eq (by decide +kernel),
    fun k hk => by rw [show k = 0 by omega]; exact got_eq (by decide +kernel),
    fun k hk => by rw [show k = 0 by omega]; exact got_eq (by decide +kernel), except_ok (by decide +kernel)⟩

/-! ### Meshes, colouring and binning -/

/-- A mesh of one brick at 0x100 and one at 0x500; command blocks at 0x200 (MSHREF), 0x280 (MSHCRS), 0x300 (MSHREN), 0x380 (MSHMIG),
0x400 (MSHGL), 0x480 (MSHCUT), 0x600 (CLRGEN), 0x640 (MSHQ) and 0x800 (BINPLAY); a list header at 0x440 and a bin set at 0x700. -/
def labMesh : State := withM (withS lab [(1, 0x200), (2, 0x280), (3, 0x300), (4, 0x380), (5, 0x400), (6, 0x480), (7, 0x600),
    (8, 0x640), (9, 0x800), (10, 0x700)])
  ([(0x100, 5, 0x000000014853454D), (0x118, 1, 1), (0x120, 2, 0x2000), (0x128, 1, 1), (0x13C, 1, 1),
    (0x500, 5, 0x000000014853454D), (0x518, 1, 1), (0x520, 2, 0x2000), (0x528, 1, 1), (0x53C, 1, 1)]
  ++ ([0x200, 0x280, 0x300].zipIdx.flatMap fun (a, i) => [(a + 8, 1, i + 2), (a + 16, 2, 0x100), (a + 24, 8, if i = 2 then 0 else 0x1000),
    (a + 32, 2, 0x4000), (a + 40, 1, 1), (a + 48, 2, 0x6000), (a + 56, 2, 0x7000)])
  ++ [(0x388, 1, 6), (0x390, 2, 0x100), (0x398, 2, 0x500), (0x3A8, 2, 0x8000), (0x3B8, 2, 0xA000), (0x3D8, 2, 0xC000), (0x3E0, 2, 0xD000)]
  ++ [(0x408, 1, 1), (0x410, 2, 0x100), (0x418, 2, 0x440), (0x428, 1, 1), (0x440, 5, 0x200000001), (0x450, 2, 0xE000), (0x458, 2, 0xE100),
    (0x460, 2, 0xE200), (0x468, 1, 1)]
  ++ [(0x488, 1, 5), (0x490, 2, 0x100), (0x498, 2, 0x1000), (0x4B0, 1, 1), (0x4B8, 2, 0xE000), (0x4C0, 2, 0xF000)]
  ++ [(0x610, 2, 0x440), (0x618, 2, 0xE400), (0x620, 2, 0xF000), (0x628, 1, 1)] ++ [(0x650, 2, 0x100), (0x660, 1, 1), (0x664, 1, 1)]
  ++ [(0x700, 5, 0x000000014E494246), (0x710, 1, 64), (0x718, 1, 3), (0x720, 3, 0x10000), (0x728, 1, 2), (0x738, 1, 2), (0x73C, 1, 1),
    (0x740, 2, 0x1100), (0x1100, 4, 0xFFFFFFFF), (0x808, 1, 2), (0x810, 2, 0x700), (0x820, 8, 0xFFFFFF8000000000)])

/-- The block of a number of bytes at an address of it. -/
def meshWord (a : Word) (n : Nat) : Nat := gotVal (labMesh.loadN a n)

def mesh0 : MeshDesc := MeshDesc.ofNat 0x100 (meshWord 0x100 256)

theorem issue_goes {i : Issue} {s : State} (h : actOk (Act.issue i s) = true) : ∃ t, Issues i s t := act_unit h

def demoIssue : Issue := ⟨.topology, 1, 0x400, [], false, [], [(0x100, 256)], [[(0xE000, 8)]], [(0x400, 8)], []⟩

theorem witness_TopologyIssue :
    demoIssue.causes = [] ∧ demoIssue.bad = false ∧
    (∀ p ∈ (demoIssue.reads.map fun r => labMesh.pinEngine (labMesh.hart.engineEnv .topology) .load r.1.toNat r.2)
        ++ (demoIssue.writes.map fun rs => rs.map fun r => labMesh.pinEngine (labMesh.hart.engineEnv .topology) .store r.1.toNat r.2).flatten
        ++ (demoIssue.fin.map fun r => labMesh.pinEngine (labMesh.hart.engineEnv .topology) .store r.1.toNat r.2), p.2 = []) ∧
    labMesh.tiles = [] ∧ (labMesh.queueOf .topology labMesh.hart.die).length < 64 ∧ pendingCmd.claimed = false ∧ pendingCmd.stamp = none ∧
    labMesh.cmds = [] ∧ partEntries 0 0 = some [] ∧ mesh0.die = labMesh.hart.die ∧ mesh0.device = labMesh.fab.device.toNat ∧
    labMesh.hart.isCtl = false := by decide +kernel

theorem labMesh_descriptor : Act.meshDesc 0x100 labMesh = (.ok (some (mesh0, true)), labMesh) := act_eq (by decide +kernel) (by decide +kernel)

def rewriteWord (i : Nat) : Nat := meshWord (BitVec.ofNat 64 (0x200 + 128 * i)) 128

/-- The blocks of MSHREF, MSHCRS and MSHREN. -/
theorem witness_Rewrites : ∀ i < 3,
    labMesh.hart.readS (BitVec.ofNat 5 (1 + i)) = BitVec.ofNat 64 (0x200 + 128 * i) ∧
    gotIs (labMesh.loadN (BitVec.ofNat 64 (0x200 + 128 * i)) 128) (rewriteWord i) labMesh = true ∧
    dword (rewriteWord i) 16 = 0x100 ∧ rewriteBad (i + 2) (rewriteWord i) = false ∧ bitsOf (rewriteWord i) 704 32 = 0 ∧
    areasMeet mesh0 (rewriteWord i) = false ∧
    actOk (Act.issue ⟨.topology, i + 2, BitVec.ofNat 64 (0x200 + 128 * i), leBytes 128 (rewriteWord i), false, [],
      (dword (rewriteWord i) 16, 256) :: (dword (rewriteWord i) 80, 16 * bitsOf (rewriteWord i) 704 32) ::
        (if i + 2 = 4 then [] else [(dword (rewriteWord i) 24, 64 * (mesh0.nbrick + mesh0.ngbrick))]),
      [[(dword (rewriteWord i) 16, 256)], [(dword (rewriteWord i) 32, 8192 * bitsOf (rewriteWord i) 320 32)],
        [(dword (rewriteWord i) 48, 16 * bitsOf (rewriteWord i) 352 32)], [(dword (rewriteWord i) 56, 16 + 16 * bitsOf (rewriteWord i) 512 32)]],
      [(BitVec.ofNat 64 (0x200 + 128 * i), 8)], []⟩ labMesh) = true := by decide +kernel

def migWord : Nat := meshWord 0x380 128

theorem witness_Migration :
    labMesh.hart.readS 4 = 0x380 ∧ gotIs (labMesh.loadN 0x380 128) migWord labMesh = true ∧ (MeshDesc.ofNat 0x500 (meshWord 0x500 256)).device = labMesh.fab.device.toNat ∧
    (MeshDesc.ofNat 0x500 (meshWord 0x500 256)).die < 12 ∧
    dword migWord 16 = 0x100 ∧ dword migWord 24 = 0x500 ∧
    actIs (Act.meshDesc 0x500 labMesh) (some (MeshDesc.ofNat 0x500 (meshWord 0x500 256), true)) = true ∧ (Act.meshDesc 0x500 labMesh).2 = labMesh ∧
    headerBad 6 migWord = false ∧
    (∀ x ∈ [(40, 8192), (48, 16), (56, 8192), (64, 16), (88, 64), (96, 64)], (dword migWord x.1).toNat % x.2 = 0) ∧
    bitsOf migWord 288 32 = 0 ∧ bitsOf migWord 864 32 = 0 ∧
    actOk (Act.issue ⟨.topology, 6, 0x380, leBytes 128 migWord, false, [], [],
      [[(dword migWord 16, 256)], [(dword migWord 24, 256)], [(dword migWord 40, 8192 * bitsOf migWord 576 32)],
        [(dword migWord 48, 16 * bitsOf migWord 640 32)], [(dword migWord 56, 8192 * bitsOf migWord 608 32)],
        [(dword migWord 64, 16 * bitsOf migWord 672 32)], [(dword migWord 88, 16 + 16 * bitsOf migWord 832 32)],
        [(dword migWord 96, 16 + 16 * bitsOf migWord 832 32)]], [(0x380, 8)], []⟩ labMesh) = true := by decide +kernel

def glWord : Nat := meshWord 0x400 64
def listWord : Nat := meshWord 0x440 64

theorem witness_GatherList :
    labMesh.hart.readS 5 = 0x400 ∧ gotIs (labMesh.loadN 0x400 64) glWord labMesh = true ∧ dword glWord 16 = 0x100 ∧
    headerBad 1 glWord = false ∧ dword glWord 24 = 0x440 ∧ gotIs (labMesh.loadN 0x440 64) listWord labMesh = true ∧
    listBad listWord = false ∧ bitsOf glWord 320 32 ≠ 0 ∧ bitsOf glWord 352 16 ≤ 3 ∧ bitsOf glWord 368 16 = 0 ∧
    bitsOf glWord 448 64 = 0 ∧
    actOk (Act.issue ⟨.topology, 1, 0x400, leBytes 64 glWord, false, [], [(dword glWord 16, 256)],
      [[(dword glWord 24, 64)], [(dword listWord 16, bitsOf listWord 320 32 * entryBytes listWord)],
        [(dword listWord 24, bitsOf listWord 320 32 * entryBytes listWord)], [(dword listWord 32, bitsOf listWord 320 32 * 4)]],
      [(0x400, 8)], [listWord]⟩ labMesh) = true := by decide +kernel

def cutWord : Nat := meshWord 0x480 128

theorem witness_Cut :
    labMesh.hart.readS 6 = 0x480 ∧ gotIs (labMesh.loadN 0x480 128) cutWord labMesh = true ∧ dword cutWord 16 = 0x100 ∧
    headerBad 5 cutWord = false ∧ bitsOf cutWord 384 32 = 1 ∧ bitsOf cutWord 416 32 = 0 ∧ bitsOf cutWord 640 384 = 0 ∧
    actOk (Act.issue ⟨.topology, 5, 0x480, leBytes 128 cutWord, false, [],
      [(dword cutWord 16, 256), (dword cutWord 24, 256 * (mesh0.nbrick + mesh0.ngbrick))],
      [[(dword cutWord 16, 256)], [(dword cutWord 56, 8 * bitsOf cutWord 384 32)], [(dword cutWord 64, 8 * bitsOf cutWord 384 32)],
        [(mesh0.bricka, 8192 * mesh0.nbrick)]], [(0x480, 8)], []⟩ labMesh) = true := by decide +kernel

def clrWord : Nat := meshWord 0x600 64

theorem witness_Colouring :
    labMesh.hart.readS 7 = 0x600 ∧ headerBad 0 clrWord = false ∧ dword clrWord 16 = 0x440 ∧
    bitsOf clrWord 320 8 = 1 ∧ bitsOf clrWord 328 56 = 0 ∧ bitsOf clrWord 384 64 ≤ 2 ^ 32 ∧ bitsOf clrWord 448 64 = 0 ∧
    gotIs (labMesh.loadN 0x600 64) clrWord labMesh = true ∧
    actOk (Act.issue ⟨.colouring, 0, 0x600, leBytes 64 clrWord, false, [],
      [(dword clrWord 16, 64), (dword listWord 16, bitsOf listWord 0 32 * entryBytes listWord),
        (dword listWord 24, bitsOf listWord 0 32 * entryBytes listWord), (dword listWord 32, bitsOf listWord 0 32 * 4)],
      [[(dword clrWord 24, 4 * bitsOf listWord 0 32)], [(dword clrWord 32, 4 * (bitsOf clrWord 320 8 + 1))]], [(0x600, 8)], [listWord]⟩
      labMesh) = true := by decide +kernel

/-- The same with indices of 32 bits. -/
def labBin : State := withH labMesh fun h => { h with vcfg := 0xD2 }

def set0 : BinSet := BinSet.ofNat 0x700 (meshWord 0x700 256)

theorem labBin_delivered :
    Delivered labBin [labBin.hart.opnd 20 labBin.hart.ew1 [], labBin.hart.opnd 21 labBin.hart.ew2 []] [] labBin :=
  lab_delivered _ _ (by decide +kernel)

/-- Four pairs for element 0. -/
theorem witness_BinAppend :
    labBin.hart.ill = false ∧ labBin.hart.anyGuarded = true ∧ labBin.hart.ew2 = 32 ∧ labBin.hart.vstart = 0 ∧
    labBin.hart.groupOk 20 labBin.hart.ew1 = true ∧ labBin.hart.groupOk 21 labBin.hart.ew2 = true ∧ labBin.hart.readS 10 = 0x700 ∧
    labBin.queueOf .binning labBin.hart.die = [] ∧ gotIs (labBin.loadN 0x700 256) (meshWord 0x700 256) labBin = true ∧
    set0.legal (meshWord 0x700 256) = true ∧
    8 * binBytes set0.fmt = labBin.hart.ew1 ∧ set0.die = labBin.hart.die ∧ set0.device = labBin.fab.device.toNat ∧
    (labBin.hart.activeList.map fun i =>
      (labBin.hart.elems (labBin.hart.opnd 21 labBin.hart.ew2 []) i, labBin.hart.elems (labBin.hart.opnd 20 labBin.hart.ew1 []) i)) =
      List.replicate 4 (0, 0) ∧ (∀ p ∈ List.replicate 4 (0, 0), p.1 * binBytes set0.fmt < set0.tlen) ∧
    chunksNeeded [(4, 0)] ≤ set0.nfree ∧
    actIs (Act.room set0 0 labBin) (0, []) = true ∧ (Act.room set0 0 labBin).2 = labBin ∧
    actIs (Act.freeChunks set0 (chunksNeeded [(4, 0)]) set0.free labBin) (some [0]) = true ∧
    (Act.freeChunks set0 (chunksNeeded [(4, 0)]) set0.free labBin).2 = labBin ∧
    actOk (Act.issue ⟨.binning, 1, 0x700, [], false, [], [], [[(0x700, 256)], [(set0.head 0, 16)], [(set0.chunk 0, 4096)]], [],
      (List.replicate 4 (0, 0)).flatMap fun p => [p.1, p.2]⟩ labBin) = true := by decide +kernel

def playWord : Nat := meshWord 0x800 64

/-- An empty bin played into a region of S3. -/
theorem witness_BinPlay :
    labMesh.hart.readS 9 = 0x800 ∧ headerBad 2 playWord = false ∧ bitsOf playWord 224 32 = 0 ∧ bitsOf playWord 320 192 = 0 ∧
    bitsOf playWord 192 32 = 0 ∧ set0.nreg = 1 ∧ (dword playWord 32).toNat % 64 = 0 ∧ inScratchSpace (dword playWord 32) = true ∧
    dword playWord 16 = 0x700 ∧ gotIs (labMesh.loadN 0x800 64) playWord labMesh = true ∧
    labMesh.queueOf .binning labMesh.hart.die = [] ∧ gotIs (labMesh.loadN 0x700 256) (meshWord 0x700 256) labMesh = true ∧
    set0.legal (meshWord 0x700 256) = true ∧ gotIs (labMesh.loadN (set0.head 0) 16) 0xFFFFFFFF labMesh = true ∧
    actIs (Act.chain set0 set0.nchunk 0xFFFFFFFF labMesh) (some []) = true ∧
    actOk (Act.issue ⟨.binning, 2, 0x800, leBytes 64 playWord, false, [], [(set0.regionAddr 0, set0.regionLen 0)],
      [[(set0.addr, 256)], [(dword playWord 32, regionBytes)], [(set0.head 0, 16)], [], [(set0.regionAddr 0, set0.regionLen 0)]],
      [(0x800, 8)], []⟩ labMesh) = true := by decide +kernel

def queryWord : Nat := meshWord 0x640 64

theorem witness_ColouringBinningAndQueries :
    (labMesh.hart.bound (3 : BitVec 2).toNat = false ∧ labMesh.hart.readS 8 = 0x640 ∧
      gotIs (labMesh.loadN 0x640 64) queryWord labMesh = true ∧ dword queryWord 16 = 0x100 ∧
      queryOk mesh0 queryWord (labMesh.hart.readS 0).toNat = true) ∧ labOut.hart.bound (0 : BitVec 2).toNat = true ∧
    ((withS lab [(1, 4)]).hart.readS 1).toNat % 8 ≠ 0 ∧ (lab.hart.readS 0).toNat % 8 = 0 ∧ gotVal (lab.loadN 0 8) % 256 ≠ 1 ∧
    gotVal ((withM lab [(0, 8, 1)]).loadN 0 8) = 1 ∧ gotVal ((withM lab [(0, 8, 0x301)]).loadN 0 8) = 0x301 := by decide +kernel

end Sys2Proof.Machine.Tests
end

