-- ==== Sys2Proof/Tests/WitnessRemote.lean ====
section
/-! SUPPORT. Witnesses: states and operands that meet the hypotheses of the statements on remote operations, collectives,
repetitions and engine steps, one for each clause. -/

set_option Elab.async false

namespace Sys2Proof.Machine.Tests

/-! ### Remote operations -/

/-- A context with a peer map at 0x9000 and an access table at 0xA000. -/
def peerCtx : Ctx := { demoCtx 1 with live := { (demoCtx 1).live with peermap := 0x9000, atport := 0xA000, atmem := 0xA000 } }

/-- The hart with the remote capability, indices of 32 bits, device 1 reachable, and in v21 the indices of element 0 here, element
0 of device 1, and elements 0 here. -/
def labPeer : State :=
  { withH (withV lab [(21, 0x0100000000000000, 0)]) fun h => { h with vcfg := 0xD2, ctxcfg := 2, replies := [(1, 0)] } with
    fab := ⟨0, true, [(1, 1)], []⟩
    cx := ⟨[(0, peerCtx)], 0, 0, 0, []⟩ }

def labPlace (i : Nat) : Nat × Nat := remoteIndex labPeer.hart.ew2 (labPeer.hart.elems (labPeer.hart.opnd 21 labPeer.hart.ew2 []) i)

def labVa (i : Nat) : Word := labPeer.hart.readS 0 + BitVec.ofNat 64 ((labPlace i).2 * (labPeer.hart.ew1 / 8))

theorem witness_RemoteReads :
    labPeer.Lanes ∧ labPeer.hart.ew2 = 32 ∧ labPeer.hart.ew1 ≠ 4 ∧ labPeer.hart.groupOk 20 labPeer.hart.ew1 = true ∧
    labPeer.hart.groupOk 21 labPeer.hart.ew2 = true ∧ labPeer.hart.remoteEn = true ∧ (∀ xs ys, Delivered labPeer xs ys labPeer) ∧
    labPeer.hart.writeStream? (labPeer.hart.opnd 20 labPeer.hart.ew1 []) = none ∧
    (∀ i ∈ labPeer.hart.activeList, inScratchSpace (labVa i) = false) ∧
    (∃ u vs, ReadsAll labPeer u (labPeer.hart.ew1 / 8)
      ((labPeer.hart.activeList.filter fun i => (labPlace i).1 == labPeer.fab.device.toNat).map fun i => (i, [labVa i])) vs) ∧
    (∀ i ∈ labPeer.hart.activeList, (labPlace i).1 ≠ labPeer.fab.device.toNat → labPeer.answerOf (labPlace i).1 = some 0) ∧
    (∀ k n, labPeer.claimed k n = false) ∧
    labPeer.hart.activeList.map (fun i => (labPlace i).1) = [0, 1, 0, 0] ∧ labBin.Lanes ∧ labBin.hart.remoteEn = false :=
  ⟨by unfold State.Lanes; decide +kernel, by decide +kernel, by decide +kernel, by decide +kernel, by decide +kernel, by decide +kernel,
    fun _ _ => lab_delivered _ _ (by decide +kernel), by decide +kernel, by decide +kernel, reads_all (by decide +kernel),
    by decide +kernel, fun _ _ => rfl, by decide +kernel, by unfold State.Lanes; decide +kernel, by decide +kernel⟩

/-- The same with the heap on device 1. -/
def labFar : State := withH labPeer fun h => { h with heapoff := 0x10000000000, replies := [] }

def checkedIs (c : Checked) (ps : List Part) : Bool :=
  match c with
  | .ok qs => decide (qs = ps)
  | _ => false

theorem checked_eq {c : Checked} {ps : List Part} (h : checkedIs c ps = true) : c = .ok ps := by
  cases c with
  | ok qs => rw [of_decide_eq_true (show decide (qs = ps) = true from h)]
  | _ => cases h

/-- `labFar` with an operation of the hart at device 1, a store and a nibble, and a failure of it. -/
def labSent : State :=
  { labFar with peers := { labFar.peers with
      ops := [⟨0, 0, 0, 0, 0, 0, 0, 1, [.store 0x10000000000 [1], .nibble 0x10000000001 true 2]⟩], nextOp := 1
      failures := [⟨0, 0, 0, 0, 0, 0, 1, 4⟩] } }

/-- The same while a claim holds its bytes. -/
def labHeld : State := { labSent with claims := [⟨0, peerKey 0x10000000000, peerKey 0x10000000000, 3⟩] }

theorem witness_RemoteOperations :
    (∃ xs, labPeer.planPut (elemBytes labPeer.hart.ew1)
      (labPeer.hart.activeList.map fun i => (i, labPeer.hart.readS 0 + BitVec.ofNat 64 (i * labPeer.hart.ew1 / 8))) = .ok xs) ∧
    (∃ xs, labFar.planPut (elemBytes labFar.hart.ew1)
      (labFar.hart.activeList.map fun i => (i, labFar.hart.readS 0 + BitVec.ofNat 64 (i * labFar.hart.ew1 / 8))) = .ok xs) ∧
    labPeer.checkPut .atomic 0 8 = .ok [⟨0, 8, .mem 0 false true⟩] ∧ (∃ old t, labPeer.atomicN 0 8 (fun x => some x) = .ok old t) ∧
    labFar.checkPut .atomic 0 8 = .ok [⟨0, 8, .peer 1 0x10000000000⟩] ∧
    (labPeer.peerStatus 0 1 = 0 ∧ lab.peerStatus 0 1 ≠ 0 ∧
      lab.hart.remoteEn = false ∧ labPeer.hart.isCtl = false ∧ labPeer.hart.remoteEn = true ∧ labPeer.ownOps = [] ∧
      labPeer.peers.failures.find? labPeer.hart.owns = none ∧ labSent.ownOps ≠ [] ∧
      ({ labSent with peers := { labSent.peers with ops := [] } } : State).ownOps = [] ∧
      labSent.peers.failures.find? labSent.hart.owns = some ⟨0, 0, 0, 0, 0, 0, 1, 4⟩ ∧
      (lab.hartAt 0).num = 0 ∧ 1 ∈ ((withH lab fun h => { h with asked := [1] }).hartAt 0).asked ∧ 1 ∉ (lab.hartAt 0).asked ∧
      (∀ o ∈ lab.peers.ops, ¬ (o.hart = 0 ∧ o.dev = 1)) ∧ (∃ o ∈ labSent.peers.ops, o.hart = 0 ∧ o.dev = 1) ∧
      (∀ o ∈ labSent.peers.ops, ∀ q ∈ o.q, labSent.claimed (peerKey (rangeOf q).1) (rangeOf q).2 = false) ∧
      (∀ o ∈ labHeld.peers.ops, ∃ q ∈ o.q, labHeld.claimed (peerKey (rangeOf q).1) (rangeOf q).2 = true) ∧
      (9 : BitVec 4).toNat < 10 ∧ ((withS labPeer [(1, 4)]).hart.readS 1).toNat % 8 ≠ 0 ∧ (labPeer.hart.readS 0).toNat % 8 = 0 ∧
      labFar.answerOf 1 = none ∧ labPeer.answerOf 1 = some 0 ∧ labHeld.claimed (peerKey 0x10000000000) 8 = true ∧
      (withH labFar fun h => { h with replies := [(1, 2)] }).answerOf 1 = some 2) :=
  ⟨plan_ok (by decide +kernel), plan_ok (by decide +kernel), checked_eq (by decide +kernel), got_ok (by decide +kernel),
    checked_eq (by decide +kernel), by decide +kernel⟩

/-! ### Collectives -/

/-- A CRED of one FP32 element of devices 0 and 1 at 0x40, its list at 0x100. -/
def labColl : State := withM (withS labPeer [(1, 0x40), (2, 0x41)])
  [(0x40, 2, 0x1000), (0x48, 2, 0x2000), (0x50, 1, 1), (0x58, 2, 0x3000), (0x60, 2, 0x100), (0x6C, 1, 2), (0x6E, 2, 0xFFFF), (0x71, 1, 9),
   (0x101, 1, 1)]

def collWord : Nat := gotVal (labColl.loadN 0x40 64)

/-- A collective that has issued. -/
def collCmd : Command :=
  { pendingCmd with kind := .hod, op := 4, claimed := true, id := 7, extra := [0, 1] }

def labHod : State := { labPeer with cmds := [collCmd] }

/-- The access table permits device 1. -/
def labOpen : State := withM labPeer [(0xA300, 1, 0x0C)]

def exceptNot {ε α : Type} : Except ε α → Bool
  | .error _ => true
  | _ => false

theorem except_error {ε α : Type} {x : Except ε α} (h : exceptNot x = true) : ∃ e, x = .error e := by
  cases x with
  | error e => exact ⟨e, rfl⟩
  | ok _ => cases h

/-- Where a port carries traffic to a device, one of them is its exit. -/
theorem exit_some {s : State} {d a : Nat} (h : (s.portsTo d).isEmpty = false) : (s.exitPort d a).isSome = true := by
  unfold State.exitPort
  have : 0 < (s.portsTo d).length := List.length_pos_iff.2 (by simpa using h)
  simp [Nat.mod_lt _ this]

theorem exit_none {s : State} {d a : Nat} (h : s.portsTo d = []) : s.exitPort d a = none := by simp [State.exitPort, h]

/-- A collective whose other member a port leads to, with ranges in good and in fenced memory, and one that no port leads to. -/
theorem witness_Collectives_ports :
    (∃ d ∈ collCmd.extra, d ≠ lab.fab.device.toNat ∧ lab.exitPort d (CollBlock.ofNat (leNat collCmd.block)).dsta = none) ∧
    (∀ d ∈ collCmd.extra, d ≠ labHod.fab.device.toNat →
      (labHod.exitPort d (CollBlock.ofNat (leNat collCmd.block)).dsta).isSome = true) ∧
    labHod.hodStatus collCmd = 0 ∧ lab.hodStatus collCmd ≠ 0 ∧ (∀ p < 18, lab.carries p = false) ∧
    (∃ p < 18, labPeer.carries p = true) := by
  have h1 : (labHod.portsTo 1).isEmpty = false := by decide +kernel
  have h0 : lab.portsTo 1 = [] := by decide +kernel
  have e1 : (1 : Nat) ∈ collCmd.extra := by decide
  have n1 : (1 : Nat) ≠ lab.fab.device.toNat := by decide +kernel
  have d0 : labHod.fab.device.toNat = 0 := by decide +kernel
  have some1 : ∀ d ∈ collCmd.extra, d ≠ labHod.fab.device.toNat →
      (labHod.exitPort d (CollBlock.ofNat (leNat collCmd.block)).dsta).isSome = true := by
    intro d hd hn
    rw [d0] at hn
    have hd' : d = 0 ∨ d = 1 := by simpa [collCmd] using hd
    rcases hd' with rfl | rfl
    · exact absurd rfl hn
    · exact exit_some h1
  refine ⟨⟨1, e1, n1, exit_none h0⟩, some1, ?_, ?_, by decide +kernel, ⟨0, by decide +kernel⟩⟩
  · unfold State.hodStatus
    rw [if_neg, if_neg]
    · decide +kernel
    · intro h
      obtain ⟨d, hd, hx⟩ := List.any_eq_true.1 h
      have hx := Bool.and_eq_true_iff.1 hx
      have := some1 d hd (by simpa using hx.1)
      simp_all
  · unfold State.hodStatus
    rw [if_pos]
    · decide
    · exact List.any_eq_true.2 ⟨1, e1, by rw [exit_none h0]; decide +kernel⟩

theorem witness_Collectives :
    (labColl.hart.isCtl = false ∧ lab.hart.remoteEn = false ∧ (labColl.hart.readS 2).toNat % 64 ≠ 0 ∧ labColl.hart.remoteEn = true ∧
      (labColl.hart.readS 1).toNat % 64 = 0) ∧
    labColl.loadN (labColl.hart.readS 1) 64 = .ok collWord labColl ∧
    (List.range 2).mapM (m := Act) (fun i => Act.loadOutside (plus (BitVec.ofNat 64 0x100) i) 1) labColl = (.ok [0, 1], labColl) ∧
    (∀ n < 18, (labColl.pinHod (labColl.hart.hodEnv n) .load ((CollBlock.ofNat collWord).gives 4 0) 0x1000 4).2 = [] ∧
      (labColl.pinHod (labColl.hart.hodEnv n) .store ((CollBlock.ofNat collWord).receives 4 0) 0x2000 4).2 = [] ∧
      (labColl.pinHod (labColl.hart.hodEnv n) .store true 0x3000 8).2 = []) ∧ labColl.nextHod [0, 1] < 18 ∧
    ((CollBlock.ofNat collWord).ok 4 = true ∧ (CollBlock.ofNat collWord).ok 5 = false ∧ listOk 0 [0, 1] = true ∧
      (CollBlock.ofNat collWord).bytes = 4 ∧ (CollBlock.ofNat collWord).ndev = 2 ∧
      inScratchSpace 0xFFFFFF0000000000 = true ∧ (0xFFFFFF0000000000 : Word).toNat % 64 = 0 ∧ scratchDenied 0x40 64 = [] ∧
      lab.collectiveOf 7 = none ∧ labHod.collectiveOf 7 = some collCmd ∧ labHod.mayRun collCmd = true ∧ collCmd.at_ = 0 ∧
      State.mayRun { labHod with cmds := [{ collCmd with claimed := false }] } { collCmd with claimed := false } = false ∧
      (CollBlock.ofNat 0).receives 4 1 = false ∧
      (lab.ctxOf 5).st = 0 ∧ (labPeer.ctxOf 0).st ≠ 0 ∧ (labPeer.ctxOf 0).st ≠ 4) ∧
    (∃ ps, labOpen.serveVa (labOpen.ctxOf 0).live ((labOpen.ctxOf 0).live.peerEnv 0 1) .store 0x1000 2 = .ok ps) ∧
    (∃ st, labOpen.serveVa (labOpen.ctxOf 0).live ((labOpen.ctxOf 0).live.peerEnv 0 1) .store 0x100000 2 = .error st) ∧
    (labOpen.serveSpa (labOpen.ctxOf 0).live ((labOpen.ctxOf 0).live.peerEnv 0 1) .load 0x1000 8 =
        .ok [⟨BitVec.ofNat 64 0x1000, 8, .mem 0x1000 false true⟩] ∧ labOpen.claimed 0x1000 8 = false ∧
      labOpen.fencedParts [⟨BitVec.ofNat 64 0x1000, 8, .mem 0x1000 false true⟩] = false ∧
      State.fencedParts (labOpen.memChanged 0 { labOpen.memSt 0 with mode := 5 }) [⟨BitVec.ofNat 64 0x1000, 8, .mem 0x1000 false true⟩] = true ∧
      labOpen.readCheck 0x1000 8 = (labOpen, none)) ∧
    (labOpen.serveSpa (labOpen.ctxOf 0).live ((labOpen.ctxOf 0).live.peerEnv 0 1) .store 0x1000 2 =
        .ok [⟨BitVec.ofNat 64 0x1000, 2, .mem 0x1000 false true⟩] ∧
      labOpen.held [⟨BitVec.ofNat 64 0x1000, 2, .mem 0x1000 false true⟩] = false) :=
  ⟨by decide +kernel, got_eq (by decide +kernel), act_eq (by decide +kernel) (by decide +kernel), by decide +kernel,
    by
      unfold State.nextHod
      rw [show ((List.range 18).filter fun p => [0, 1].any fun d => d != labColl.fab.device.toNat && (labColl.portsTo d).contains p) = [0]
        by decide +kernel]
      simp [Nat.mod_one],
    by decide +kernel, except_ok (by decide +kernel), except_error (by decide +kernel),
    ⟨except_eq (by decide +kernel), by decide +kernel⟩, except_eq (by decide +kernel), by decide +kernel⟩

/-! ### Repetitions -/

/-- The hart in paged code, whose pages lie at 0: REP of two repetitions over VADD v20, v1, v2. -/
def labRep : State := withM (withH lab fun h => { h with ptroot := 0x10000, pc := 0x204000 })
  [(0x10000, 8, 0x11001), (0x11000, 8, 0x12001), (0x12008, 8, 0x37), (0x4000, 4, (repPrefix 1 4 0).toNat), (0x4004, 4, 0x42811000)]

def afterWord (p x : IWord) (j : Nat) (s : State) : State :=
  match wordEff (repWord p x j) s with
  | .done u => u.retire 1
  | _ => s

def doneWord (p x : IWord) (j : Nat) (s : State) : Bool :=
  match wordEff (repWord p x j) s with
  | .done _ => true
  | _ => false

theorem done_word {p x : IWord} {j : Nat} {s : State} (h : doneWord p x j s = true) :
    ∃ u, wordEff (repWord p x j) s = .done u ∧ afterWord p x j s = u.retire 1 := by
  unfold doneWord at h
  split at h
  · rename_i u e; exact ⟨u, e, by simp [afterWord, e]⟩
  · cases h

/-- The states between its repetitions. -/
def repStates : Nat → State
  | 0 => labRep
  | j + 1 => afterWord (repPrefix 1 4 0) 0x42811000 j (repStates j)

def fetchIs (f : Fetched) (w : IWord) (t : State) : Bool :=
  match f with
  | .word v u => decide (v = w ∧ u = t)
  | _ => false

theorem fetch_eq {f : Fetched} {w : IWord} {t : State} (h : fetchIs f w t = true) : f = .word w t := by
  cases f with
  | word v u => obtain ⟨rfl, rfl⟩ := of_decide_eq_true (show decide (v = w ∧ u = t) = true from h); rfl
  | _ => cases h

def trapWord (p x : IWord) (j : Nat) (s : State) : Bool :=
  match wordEff (repWord p x j) s with
  | .trap _ _ => true
  | _ => false

theorem trap_word {p x : IWord} {j : Nat} {s : State} (h : trapWord p x j s = true) : ∃ c u, wordEff (repWord p x j) s = .trap c u := by
  unfold trapWord at h
  split at h
  · exact ⟨_, _, ‹_›⟩
  · cases h

theorem witness_RepeatPrefix :
    labCtl.hart.isCtl = true ∧ labRep.hart.isCtl = false ∧ labRep.fetch (labRep.hart.pc + 4) = .word 0x42811000 labRep ∧
    repOk (repPrefix 1 4 0) 0x42811000 = true ∧ repOk (repPrefix 1 4 0) 0x08000000 = false ∧ labRep.hart.repidx = 0 ∧
    repStates 0 = labRep ∧ RepetitionsDone (repPrefix 1 4 0) 0x42811000 0 2 repStates ∧
    (∃ c u, wordEff (repWord (repPrefix 1 4 0) 0x42811000 0) (withV labRep [(1, 0, 9)]) = .trap c u) ∧
    encode (.vadd 1 2 3 0) = some 0x40221800 ∧ 0x10 ≤ majorOf 0x40221800 ∧ majorOf 0x40221800 ≤ 0x2B :=
  ⟨by decide +kernel, by decide +kernel, fetch_eq (by decide +kernel), by decide +kernel, by decide +kernel, by decide +kernel, rfl,
    fun j _ h => done_word (by
      have : j = 0 ∨ j = 1 := by omega
      rcases this with rfl | rfl <;> decide +kernel),
    trap_word (by decide +kernel), by decide +kernel⟩

end Sys2Proof.Machine.Tests
end

