-- ==== Sys2Proof/Tests/WitnessDevice.lean ====
section
/-! SUPPORT. Witnesses: states and operands that meet the hypotheses of the statements on the engines' steps, the front end and
the nodes of a replay, one for each clause. -/

set_option Elab.async false

namespace Sys2Proof.Machine.Tests

/-! ### Engines -/

/-- CLRGEN of one face on the mesh state; `lim` is the number of cells. -/
def labClr (lim : Nat) : State :=
  let s := withM labMesh [(0x630, 1, lim)]
  (Act.issue ⟨.colouring, 0, 0x600, leBytes 64 (gotVal (s.loadN 0x600 64)), false, [],
    [(0x440, 64), (0xE000, 4), (0xE100, 4), (0xE200, 4)], [[(0xE400, 4)], [(0xF000, 8)]], [(0x600, 8)], [listWord]⟩ s).2

def clrCmd (lim : Nat) : Command := (labClr lim).cmds.headD pendingCmd

def statusIs (x : Except EngStop Unit × State) (c : Nat) : Bool :=
  match x with
  | (.error (.status d _), _) => c == d
  | _ => false

theorem status_of {x : Except EngStop Unit × State} {c : Nat} (h : statusIs x c = true) : ∃ d t, x = (.error (.status c d), t) := by
  obtain ⟨r, t⟩ := x
  cases r with
  | ok _ => cases h
  | error e =>
    cases e with
    | status k d => obtain rfl : c = k := by simpa [statusIs] using h
                    exact ⟨d, t, rfl⟩
    | _ => cases h

def heldIs (x : Except EngStop Unit × State) : Bool :=
  match x with
  | (.error .hold, _) => true
  | _ => false

theorem held_of {x : Except EngStop Unit × State} (h : heldIs x = true) : ∃ t, x = (.error .hold, t) := by
  obtain ⟨r, t⟩ := x
  cases r with
  | ok _ => cases h
  | error e => cases e <;> first | exact ⟨t, rfl⟩ | cases h

/-- The list's granule claimed by a command that issued before. -/
def labClaim : State :=
  let k := { clrCmd 1 with src := [], stamp := some 9 }
  { labClr 1 with cmds := [k, { pendingCmd with id := 5, claimed := true, stamp := some 0 }], claims := [⟨0, 0xE000, 0xE0FF, 5⟩] }

/-- A copy of the copy engine, before and after it has claimed. -/
def copyCmd : Command := { pendingCmd with claimed := true, stamp := some 0 }

/-- A command of an engine's queue, to be run, stopped part-way, or one of the binning engine's operations. -/
def engineCmd (kind : EngineKind) (op : Nat) (rest : List Elem) : Command :=
  { copyCmd with kind := kind, op := op, rest := rest, ends := (1, 2) }

/-- Two elements of a copy in two segments, then one more in the second. -/
def demoElems : List Elem := [(0x1000, [1, 2], false), (0x1040, [3, 4], false), (0x1042, [5, 6], false)]

theorem witness_EnginesRun_stopped :
    (∀ op ∈ [1, 2], let s : State := { lab with cmds := [engineCmd .binning op demoElems] }
      s.binHead 0 op = true ∧ s.queueOf .binning 0 = [engineCmd .binning op demoElems]) ∧
    (let s : State := { lab with cmds := [engineCmd .topology 1 demoElems] }
     s.queueOf .topology 0 = [engineCmd .topology 1 demoElems] ∧ s.mayRun (engineCmd .topology 1 demoElems) = true ∧
      (engineCmd .topology 1 demoElems).status = none ∧ (engineCmd .topology 1 demoElems).rest ≠ [] ∧
      s.fencedParts ((engineCmd .topology 1 demoElems).src ++ (engineCmd .topology 1 demoElems).dst.flatten) = false) ∧
    (0 ≤ 1 ∧ 1 ≤ demoElems.length ∧ copyCmd.at_ ≤ 1 ∧ (∀ p ∈ copyCmd.dst.flatten, p.place.key?.isSome = true)) ∧
    (let s := (labClr 1).memChanged 0 { (labClr 1).memSt 0 with mode := 5 }
     (clrCmd 1).rest = [] ∧ s.mayRun (clrCmd 1) = true ∧ s.fencedParts ((clrCmd 1).src ++ (clrCmd 1).dst.flatten) = true ∧
      (labClr 1).fencedParts ((clrCmd 1).src ++ (clrCmd 1).dst.flatten) = false) ∧
    (1 ∈ copyStops demoElems ∧ demoElems[0]? = some (0x1000, [1, 2], false) ∧ demoElems[1]? = some (0x1040, [3, 4], false)) := by
  decide +kernel

/-- Two writes of CLRGEN's ranges, of which the first ends a stop unit. -/
def clrWrites : List EngWrite := [(0xE400, [1, 0, 0, 0], true), (0xF000, [1, 0, 0, 0], false)]

theorem witness_EnginesRun_writes :
    1 ∈ unitStops clrWrites ∧
    (∀ p ∈ (clrCmd 1).src ++ (clrCmd 1).dst.flatten, match p.place with | .mem .. => True | _ => False) ∧
    (∀ x ∈ clrWrites, ((pinned ((clrCmd 1).src ++ (clrCmd 1).dst.flatten) x.2.1.length (BitVec.ofNat 64 x.1).toNat x.2.1.length).map
      Part.len).sum = x.2.1.length) ∧
    (∃ t, Eng.writeAll (clrCmd 1) clrWrites (labClr 1) = (.ok (), t)) ∧
    (∃ u v, Eng.writeAll (clrCmd 1) (clrWrites.take 1) (labClr 1) = (.ok (), u) ∧
      Eng.writeAll (clrCmd 1) (clrWrites.drop 1) u = (.ok (), v)) ∧
    (∃ p t, runClrgen (clrCmd 1) (labClr 1) = (.ok p, t)) ∧ (clrCmd 1).rest = [] :=
  ⟨by decide +kernel, fun p hp => by
      have := List.all_eq_true.1 (show (((clrCmd 1).src ++ (clrCmd 1).dst.flatten).all fun p =>
        match p.place with | .mem .. => true | _ => false) = true by decide +kernel) p hp
      revert this; cases p.place <;> simp,
    by decide +kernel, act_unit (by decide +kernel),
    ⟨_, _, act_ok () (by decide +kernel), act_ok () (by decide +kernel)⟩,
    ⟨_, _, act_ok ⟨[], 0, 0⟩ (by decide +kernel)⟩, by decide +kernel⟩

theorem witness_EnginesRun :
    (lab.queueOf .topology 0 = [] ∧ lab.queueOf .colouring 0 = [] ∧ lab.binHead 0 1 = false ∧ lab.binHead 0 2 = false ∧
      lab.copyQueue 0 = [] ∧ (State.queueOf { lab with cmds := [pendingCmd] } .copy 0) = [pendingCmd] ∧
      (State.tryIssue { lab with cmds := [pendingCmd] } pendingCmd).isSome = true) ∧
    ((labClr 1).queueOf .colouring 0 = [clrCmd 1] ∧ (clrCmd 1).status = none ∧ (labClr 1).mayRun (clrCmd 1) = true ∧
      (labClr 1).mayRun { clrCmd 1 with claimed := false } = false) ∧
    (∃ t, Eng.run (clrCmd 1) (runClrgen (clrCmd 1)) (labClr 1) = (.ok (), t)) ∧
    (∃ d t, Eng.run (clrCmd 0) (runClrgen (clrCmd 0)) (labClr 0) = (.error (.status 9 d), t)) ∧
    (labClaim.mayRun { clrCmd 1 with src := [], stamp := some 9 } = true ∧
      heldIs (Eng.run { clrCmd 1 with src := [], stamp := some 9 } (runClrgen { clrCmd 1 with src := [], stamp := some 9 }) labClaim) = true) ∧
    (({ lab with cmds := [copyCmd] }.copyQueue 0).find? (fun k => k.status.isSome || State.mayRun { lab with cmds := [copyCmd] } k) =
      some copyCmd ∧ copyCmd.fin = [] ∧ copyCmd.hart ≠ copyNodeHart ∧ lab.powered = true) ∧
    (∃ (faces : List (List Nat)) (x y : List Nat), faces[0]? = some x ∧ faces[2]? = some y ∧
      (colours (List.replicate 2 []) faces)[0]? = some 0 ∧ (colours (List.replicate 2 []) faces)[2]? = some 0 ∧
      (colours (List.replicate 2 []) faces)[1]? = some 1 ∧ 0 < 2) :=
  ⟨by decide +kernel, by decide +kernel, act_unit (by decide +kernel), status_of (by decide +kernel), by decide +kernel,
    by decide +kernel, ⟨[[0, 1], [1, 2], [2, 3]], [0, 1], [2, 3], by decide +kernel⟩⟩

/-! ### Kicks, takes and ends -/

/-- A slot entry of context 0 at slot 1 with a graph of one end node at 0x3000, whose snapshot goes to 0x4000. -/
def labKick : State :=
  withM { State.reset with
      fe := { FrontEnd.reset with pend := 2 }
      fw := { State.reset.fw with served := true }
      cx := ⟨[(0, demoCtx 1)], 0, 0, 0, []⟩ }
    [(iodKey 0 0x10020, 2, 0x3000), (iodKey 0 0x10028, 2, 0x4000), (iodKey 0 0x10030, 2, 0x2000), (iodKey 0 0x10039, 1, 1),
     (0x3000, 4, 0x48505247), (0x3004, 1, 1), (0x3006, 1, 1), (0x3010, 2, 0x180), (0x3018, 1, 64), (0x3040, 1, 8)]

/-- The same with the valid bit clear. -/
def labDrop : State := withM labKick [(iodKey 0 0x10039, 1, 0)]

def endReplay : Replay := { demoReplay with st := 3, nodes := [(0, 3)] }

/-- A replay whose one node has completed. -/
def labDone : State :=
  withM { State.reset with
      fe := { FrontEnd.reset with active := 2, replays := [endReplay] }
      cx := ⟨[(0, demoCtx 1)], 0, 0, 0, []⟩ }
    [(0x4006, 1, 1), (0x4018, 1, 64), (0x4040, 1, 8)]

/-- The same before its node has. -/
def labOpenEnd : State := { labDone with fe := { labDone.fe with replays := [{ endReplay with nodes := [] }] } }

/-- A failure of a remote operation of the replay that has completed. -/
def demoFailure : RemoteFailure := ⟨0, 0, 1, 1, 2, 0x4000, 7, 4⟩

def labFailed : State := { labDone with peers := { labDone.peers with failures := [demoFailure] } }

theorem witness_FrontEndEvents_failures :
    (∀ f ∈ labDone.peers.failures, ¬ (f.slot = endReplay.slot ∧ f.gen = endReplay.gen)) ∧ endReplay.st ≠ 0 ∧ endReplay.fault = none ∧
    labFailed.peers.failures.find? (fun f => f.slot == endReplay.slot && f.gen == endReplay.gen) = some demoFailure ∧
    (endReplay.failWith demoFailure.fault).fault.isSome = true := by decide +kernel

/-- Control hart 0 and the housekeeper halted, to be reloaded; and hart 1 after a test that failed. -/
def labReload (n : Nat) : State :=
  { State.reset with parked := [(1152 + n, { Hart.reset (1152 + n) with st := .halted })]
                     fe := { FrontEnd.reset with primary := 1, standby := 3, failedCtl := [1] } }

/-- Whether an image with a firmware header is authentic is a free function of its bytes (log 17), so no image is known to be; one
without a header is not. -/
theorem witness_FrontEndEvents_reload :
    (∀ n ∈ [0, 2], ((labReload n).hartAt (1152 + n)).st = .halted ∧ n ∉ (labReload n).fe.failedCtl ∧
      ¬ (n = (labReload n).fe.primary ∧ n ≠ 2)) ∧
    (1 ∈ (labReload 1).fe.failedCtl ∧ (labReload 0).fe.standby = 3 ∧ (labReload 0).fe.takeover = false ∧ State.reset.fe.standby ≠ 3) ∧
    State.reset.fw.accepts [] = false := by decide +kernel

theorem witness_FrontEndEvents :
    (labKick.fw.served = true ∧ labKick.fw.recovery = false ∧ (State.reset.fw.served = false ∨ State.reset.fw.recovery = true ∨
      { State.reset.fw with recovery := true }.recovery = true)) ∧
    ({ FrontEnd.reset with lost := true }.lost = true ∧ labKick.fe.lost = false ∧ labKick.powered = true ∧
      labKick.fe.taken.getLsbD 1 = false ∧ labKick.fe.takeover = false ∧ labKick.nextSlot = some 1 ∧ labKick.nextSlot ≠ some 2 ∧
      { FrontEnd.reset with takeover := true, listed := some [1] }.listed = some [1] ∧ FrontEnd.reset.listed = none ∧
      labDrop.nextSlot = some 1 ∧ labDrop.slotErr 1 = some 1 ∧ labKick.slotErr 1 = some 0 ∧ labKick.snapshotWaits 1 = false) ∧
    (lab.fe.live 1 = none ∧ labOpenEnd.fe.live 1 = some { endReplay with nodes := [] } ∧
      labOpenEnd.mayEnd { endReplay with nodes := [] } = false ∧ labDone.fe.live 1 = some endReplay ∧ labDone.mayEnd endReplay = true ∧
      labDone.powered = true) ∧
    (∃ x t y t', labDone.tick.feStore (labDone.tick.ctxOf 0).live (0x2000 + 2) (endReplay.record labDone.tick.clock) = .ok x t ∧
      t.feStore (labDone.tick.ctxOf 0).live 0x2000 (leBytes 2 1) = .ok y t' ∧ t'.cx.busy = 0) ∧
    (State.reset.fe.primary < 3 ∧ State.reset.fe.standby ≠ 3 ∧ (State.reset.hartAt (1152 + State.reset.fe.primary)).num =
        1152 + State.reset.fe.primary ∧ State.reset.fe.takeover = false ∧ { FrontEnd.reset with takeover := true }.takeover = true) ∧
    ((State.reset.hartAt 1153).st ≠ .halted ∧ (State.reset.hartAt 1153).num = 1153 ∧
      (State.hartAt { State.reset with parked := [(1154, { Hart.reset 1154 with st := .halted })] } 1154).st = .halted) := by
  refine ⟨by decide +kernel, by decide +kernel, by decide +kernel, ?_, by decide +kernel, by decide +kernel⟩
  let g := labDone.tick.feStore (labDone.tick.ctxOf 0).live (0x2000 + 2) (endReplay.record labDone.tick.clock)
  exact ⟨_, _, _, _, got_val labDone (g := g) (by decide +kernel),
    got_val labDone (g := (gotState g labDone).feStore (labDone.tick.ctxOf 0).live 0x2000 (leBytes 2 1)) (by decide +kernel),
    by decide +kernel⟩

/-! ### Nodes -/

/-- A graph image of `n` nodes at 0x4000 whose node 0 has a kind and names the word at 0x8000, the nodes' states, and bytes more. -/
def labGraph (n kind : Nat) (st : List (Nat × Nat)) (more : List (Nat × Nat × Nat)) : State :=
  withM { State.reset with
      fe := { FrontEnd.reset with active := 2, replays := [{ demoReplay with st := 3, nodes := st }] }
      cx := ⟨[(0, demoCtx 1)], 0, 0, 0, []⟩ }
    ([(0x4006, 1, n), (0x4018, 1, 64), (0x4040, 1, kind), (0x4061, 1, 0x80)] ++ more)

def whileAt (s : State) (p : Replay → Graph → CtxRec → Bool) : Bool :=
  match s.evaluating 1 with
  | some (r, g, c) => p r g c
  | none => false

theorem while_at {s : State} {p : Replay → Graph → CtxRec → Bool} (h : whileAt s p = true) :
    ∃ r g c, s.evaluating 1 = some (r, g, c) ∧ p r g c = true := by
  unfold whileAt at h
  split at h
  · exact ⟨_, _, _, ‹_›, h⟩
  · cases h

/-- The word that node 0 names can be read, with a value. -/
def reads0 (s : State) (g : Graph) (c : CtxRec) (v : Nat) : Bool :=
  let x := s.feLoad c (BitVec.ofNat 64 (g.node 0 32 8)) 8
  gotOk x && gotVal x == v

/-- Node 0 is the one that the primary evaluates, and its word has a value. -/
def turn0 (s : State) (kind v : Nat) : Bool := whileAt s fun r g c => s.nodeTurn r g c kind 0 && reads0 s g c v

theorem witness_WordNodes :
    (lab.evaluating 1).isNone = true ∧ turn0 (labGraph 3 3 [] [(0x4068, 1, 1), (0x406A, 1, 2)]) 3 0 = true ∧
    turn0 (labGraph 3 5 [] [(0x4068, 1, 1), (0x8000, 1, 9)]) 5 9 = true ∧
    turn0 (labGraph 2 4 [] [(0x4068, 1, 1), (0x406A, 1, 2), (0x406C, 1, 4)]) 4 0 = true ∧
    turn0 (labGraph 2 4 [] [(0x4068, 1, 1), (0x406A, 1, 2), (0x406C, 1, 4), (0x8000, 1, 1)]) 4 1 = true ∧
    (∀ v ∈ [0, 1], whileAt (labGraph 2 4 [(0, 2), (1, 3)] [(0x4068, 1, 1), (0x406A, 1, 2), (0x406C, 1, v), (0x8000, 1, 1)]) (fun r g c =>
      g.kind 0 == 4 && r.nodeSt 0 == 2 && decide (g.ranges 0 = [(1, 2)]) && r.done 1 && decide (g.node 0 44 4 = v)
        && reads0 (labGraph 2 4 [(0, 2), (1, 3)] [(0x4068, 1, 1), (0x406A, 1, 2), (0x406C, 1, v), (0x8000, 1, 1)]) g c 1) = true) ∧
    whileAt (labGraph 1 6 [] [(0x8000, 1, 1)]) (fun r g c =>
      (labGraph 1 6 [] [(0x8000, 1, 1)]).nodeTurn r g c 6 0 && g.node 0 48 1 == 0 && g.node 0 40 8 == 0
        && reads0 (labGraph 1 6 [] [(0x8000, 1, 1)]) g c 1) = true ∧
    whileAt (labGraph 1 6 [] []) (fun r g c => (labGraph 1 6 [] []).nodeTurn r g c 6 0 && g.node 0 40 8 == 0
      && reads0 (labGraph 1 6 [] []) g c 0) = true := by decide +kernel

/-- Node 0 is a kernel node whose record at 0x8000 has the bounds 0 and `hi`, grains of 4 and blocks of `blk` grains. -/
def labKernel (hi blk : Nat) : State :=
  labGraph 1 1 [] ([(0x8000, 4, 0x4C4E524B), (0x8004, 1, 1), (0x8018, 1, hi), (0x8020, 1, 4), (0x4078, 1, blk)]
    ++ (List.range 11).map fun k => (0x4088 + 8 * k, 1, hi))

def builds (s : State) (p : Except LaunchStop (List Launch) → Bool) : Bool :=
  whileAt s fun r g c => s.nodeTurn r g c 1 0 && !s.relaunchWaits r g 0 && p (Build.launch g c r 0 s).1

theorem witness_ActionAndLaunchNodes :
    (whileAt (labGraph 1 6 [] [(0x4070, 1, 1)]) (fun r g c => (labGraph 1 6 [] [(0x4070, 1, 1)]).nodeTurn r g c 6 0
        && g.node 0 48 1 == 1 && gotOk ((labGraph 1 6 [] [(0x4070, 1, 1)]).feStore c (BitVec.ofNat 64 (g.node 0 32 8))
          (leBytes 8 (g.node 0 40 8)))) = true ∧
      whileAt (labGraph 1 8 [] []) (fun r g c => (labGraph 1 8 [] []).nodeTurn r g c 8 0) = true ∧
      whileAt (labGraph 1 7 [] [(0x4060, 1, 1), (0x4064, 1, 3)]) (fun r g c =>
        (labGraph 1 7 [] [(0x4060, 1, 1), (0x4064, 1, 3)]).nodeTurn r g c 7 0
        && decide ((c.cores.filter fun k => (g.node 0 32 2).testBit (k / 24) && (g.node 0 36 4).testBit (k % 24)) = [0, 1])
        && decide (g.node 0 40 1 < 3)) = true ∧ State.reset.rel.tests = [] ∧
      (∀ kind ∈ [1, 7], whileAt (labGraph 1 kind [(0, 2)] []) (fun r g _ => r.nodeSt 0 == 2 && g.kind 0 == kind) = true) ∧
      (labGraph 1 1 [(0, 2)] []).kernelDone demoReplay 0 = true ∧
      State.kernelDone { labGraph 1 1 [(0, 2)] [] with fe := { FrontEnd.reset with launches := [demoLaunch] } } demoReplay 2 = false ∧
      State.reportsHeld { lab with fe := { FrontEnd.reset with hold := true } } = true ∧ lab.reportsHeld = false ∧
      State.reportsHeld { lab with fe := { FrontEnd.reset with takeover := true } } = false ∧
      (∀ kind ∈ [1, 7], ((labGraph 1 kind [(0, 2)] []).runningGraph 1).isSome = true)) ∧
    (builds (labKernel 8 1) (fun x => match x with | .ok (_ :: _) => true | _ => false) = true ∧
      builds (labKernel 0 1) (fun x => match x with | .ok [] => true | _ => false) = true ∧
      builds (labKernel 8 0) (fun x => match x with | .error (.check 4) => true | _ => false) = true ∧
      whileAt { labKernel 8 1 with fe := { (labKernel 8 1).fe with sent := [{ demoLaunch with node := 0 }] } } (fun r g c =>
        State.relaunchWaits { labKernel 8 1 with fe := { (labKernel 8 1).fe with sent := [{ demoLaunch with node := 0 }] } } r g 0
        && State.nodeTurn { labKernel 8 1 with fe := { (labKernel 8 1).fe with sent := [{ demoLaunch with node := 0 }] } } r g c 1 0) = true) ∧
    (FrontEnd.reset.sent = [] ∧ [demoLaunch].find? (fun l => l.die == 0 && labServe.cx.state l.ctx == 1) = some demoLaunch ∧
      demoLaunch.slot = 1 ∧ demoLaunch.node = 2 ∧ State.reset.cx.state demoLaunch.ctx ≠ 1 ∧ labServe.fe.lost = false) := by decide +kernel

/-- A kernel record whose magic number is not the one. -/
theorem witness_ActionAndLaunchNodes_invalid :
    builds (withM (labKernel 8 1) [(0x8000, 4, 0)]) (fun x => match x with | .error .invalid => true | _ => false) = true := by
  decide +kernel

/-- Node 0 is a copy node whose command block in the snapshot, at offset 0x200, moves four elements; or one that names S1. -/
def labCopyNode (src : Nat) : State :=
  labGraph 1 2 [] [(0x4060, 1, 0), (0x4061, 1, 2), (0x4200, 8, src), (0x4208, 2, 0x2000), (0x4210, 2, 0x201), (0x4240, 1, 4),
    (0x4244, 1, 4), (0x4250, 1, 4), (0x4258, 1, 4)]

theorem witness_CopyNodes :
    whileAt (labCopyNode 0x1000) (fun r g c => (labCopyNode 0x1000).nodeTurn r g c 2 0 && g.node 0 32 8 == 0x200
      && gotOk ((labCopyNode 0x1000).feLoad c (r.snapa + 0x200) 64)
      && !inS1S2 (bitsOf (gotVal ((labCopyNode 0x1000).feLoad c (r.snapa + 0x200) 64)) 0 64)
      && !inS1S2 (bitsOf (gotVal ((labCopyNode 0x1000).feLoad c (r.snapa + 0x200) 64)) 64 64)
      && !inS1S2 (bitsOf (gotVal ((labCopyNode 0x1000).feLoad c (r.snapa + 0x200) 64)) 256 64)
      && (labCopyNode 0x1000).copyCore c (g.node 0 41 1) == some 0
      && actOk (Act.copy (g.node 0 40 1) (r.snapa + 0x200) none { labCopyNode 0x1000 with hart := copyIssuer 0 c r 0 })) = true ∧
    whileAt (labCopyNode 0xFFFFFF0000000000) (fun r g c => (labCopyNode 0xFFFFFF0000000000).nodeTurn r g c 2 0
      && inS1S2 (bitsOf (gotVal ((labCopyNode 0xFFFFFF0000000000).feLoad c (r.snapa + 0x200) 64)) 0 64)) = true := by decide +kernel

end Sys2Proof.Machine.Tests
end

