-- ==== Sys2Proof/Tests/WitnessHost.lean ====
section
/-! SUPPORT. Witnesses: states and operands that meet the hypotheses of the statements on contexts, the host, management,
reliability, power, resets, words and steps, one for each clause. -/

set_option Elab.async false

namespace Sys2Proof.Machine.Tests

/-! ### Contexts and registers -/

/-- A staging record of context 0 that is valid and names core 0; context 1 in a state. -/
def labCtx (st : Nat) : State :=
  withM { State.reset with cx := ⟨[(1, { demoCtx st with owed := [.hod 17] })], 0, 0, 0, []⟩ }
    [(iodKey 0 0x20000, 1, 1), (iodKey 0 (0x20000 + 8 * 17), 1, 1)]

theorem witness_ContextsAndRegisters :
    ((labCtx 1).ctxOf 1).st ≠ 0 ∧ ((labCtx 1).ctxOf 1).st ≠ 3 ∧ ((labCtx 1).ctxOf 0).st = 0 ∧
    (withM (labCtx 1) [(iodKey 0 0x20000, 1, 2)]).stagingValid 0 = false ∧ (labCtx 1).stagingValid 0 = true ∧
    (labCtx 1).stagingWord 0 0 ≠ 0 ∧ (labCtx 1).coresTaken 0 = true ∧
    (withM (labCtx 1) [(iodKey 0 (0x20000 + 8 * 17), 1, 4)]).coresTaken 0 = false ∧
    (withM (labCtx 1) [(iodKey 0 (0x20000 + 8 * 17), 1, 4)]).stagingValid 0 = true ∧
    ((labCtx 1).ctxOf 1).st = 1 ∧ (labCtx 1).fe.takeover = false ∧ (labCtx 1).fe.replays = [] ∧ ((labCtx 2).ctxOf 1).st = 2 ∧
    ((labCtx 2).ctxOf 1).owed = [.hod 17] ∧ (Table.find? (labCtx 2).cx.ctxs 1).isSome = true ∧
    (labCtx 2).ackTurn 1 [.hod 17] (.hod 17) = true ∧ (labCtx 2).ackTurn 1 [.hod 17] (.dispatcher 0) = false ∧
    (labCtx 2).partUnit 1 (.hod 17) = labCtx 2 ∧
    (((labCtx 2).stopUnit 1 (.hod 17)).ctxOf 1).st = 2 ∧ (((labCtx 2).stopUnit 1 (.hod 17)).ctxOf 1).owed = [.hod 17] ∧
    (((labCtx 2).stopCommands 1 8 0 fun _ => true).ctxOf 1).st = 2 ∧
    (fnAt 0 0x48000 ≠ none ∧ fnAt 0 0x1FFFFFF8 = none ∧ fnAt 1 0 = none ∧ 12 % 8 ≠ 0) ∧ fnAt 0 0x17FF8 = some (.slotTable, 0x7FF8) ∧
    fnAt 0 0x1010 = some (.ctxPage, 16) ∧ fnAt 0 120 = some (.kick, 120) ∧ 120 = 8 * (15 : BitVec 4).toNat := by decide +kernel

/-! ### The host -/

/-- Firmware serves, and function 0 belongs to an active context. -/
def labHost : State :=
  { State.reset with fw := { State.reset.fw with served := true }
                     cx := ⟨[(0, { demoCtx 1 with live := { (demoCtx 1).live with func0 := 1 } })], 0, 0, 0, []⟩ }

/-- Before step 7 of the boot sequence. -/
def labEarly : State := { labHost with fw := { labHost.fw with served := false } }

/-- A write at die 0 with pieces, some homes that have got its go and some that have acknowledged. -/
def demoWrite (pieces : List (Nat × Nat × List Byte)) (gone acked : List Nat) : Inbound := ⟨0, 0, [0], pieces, gone, acked⟩

def labWrite (w : Inbound) : State := { labHost with host := { labHost.host with inbound := [w] } }

theorem witness_ContextsAndRegisters_served :
    labHost.pagesServed = true ∧ labEarly.pagesServed = false ∧ (63 : Nat) < 64 := by decide +kernel

/-- A module in recovery. -/
def labRecover : State := { labHost with fw := { labHost.fw with recovery := true } }

theorem witness_HostRequests_recovery :
    labHost.fw.recovery = false ∧ labRecover.fw.recovery = true ∧ labRecover.hostServed 0 = true ∧ labRecover.host.inbound = [] ∧
    labRecover.hostSupported 0 0 .load (.mem 11 0x1000) 8 = true ∧ labRecover.hostSupported 0 0 .load (.config 0) 4 = true ∧
    (piecesFrom 0 3 (placeOf (.mem 0 0xFE)).2 [1, 2, 3])[1]? = some (0, 0x100, [3]) := by decide +kernel

theorem witness_HostRequests :
    (labHost.hostServed 1 = true ∧ [1, 2, 3].length ≤ 512 ∧ labHost.host.inbound = [] ∧ labHost.fw.served = true ∧
      labHost.hostSupported 1 0 .store (.mem 0 0xFE) 3 = true ∧ labHost.hostSupported 1 0 .store (.window 0) 3 = true) ∧
    (labHost.hostServed 2 = false ∧ labHost.hostSupported 0 0 .store (.mem 12 0) 1 = false) := by decide +kernel

theorem witness_HostRequests_go :
    (let w := demoWrite [(0, 0x1FF, [1]), (0, 0x200, [2])] [] []
     (labWrite w).goAllowed w 0 = true ∧ (labWrite w).claimed 0x1FF 1 = false ∧
      (w.pieces.filter fun p => p.1 == 0)[1]? = some (0, 0x200, [2]) ∧ (w.pieces.filter fun p => p.1 == 1) = [] ∧ 0 ∉ w.gone) ∧
    (let w := demoWrite [(0, 0x100, [1, 2])] [] []
     (labWrite w).goAllowed w 0 = true ∧ w.pieces = [(0, 0x100, [1, 2])] ∧ w.staged 0 = true) ∧
    (let w := demoWrite [] [0] []
     0 ∈ w.gone ∧ w.staged 0 = false ∧ w.acked = [] ∧ w.homes = [0] ∧ 0 ∈ (demoWrite [] [0] [0]).acked) ∧
    (let w : Inbound := ⟨0, 0, [0, 1], [(1, 0x200, [2])], [0], []⟩
     0 ∈ w.gone ∧ w.staged 0 = false ∧ 0 ∉ w.acked ∧ 1 ∈ w.homes ∧ 1 ∉ w.acked) := by decide +kernel

theorem witness_HostRequests_reads :
    (labHost.hostServed 0 = true ∧ labHost.hostSupported 0 0 .load (.mem 11 0x1000) 4096 = true ∧
      labHost.hostSupported 0 0 .load (.mem 12 0) 8 = false ∧ labHost.claimed (dieKey 11 0x1000) 4096 = false ∧
      labHost.readCheck (dieKey 11 0x1000) 4096 = (labHost, none) ∧ (labWrite (demoWrite [] [] [])).host.inbound.map Inbound.port = [0]) ∧
    (labEarly.hostServed 0 = true ∧ labEarly.hostSupported 0 0 .load (.window 0) 8 = true ∧
      labEarly.hostSupported 0 0 .load (.config 0) 4 = true ∧ labEarly.fw.served = false) := by decide +kernel

/-! ### Management and injection -/

/-- Bank 0 holds a record; die 11's memory has failed. -/
def labMgmt : State :=
  (State.reset.setBank 0 { State.reset.bank 0 with recs := [(3, ⟨true, 1, false, 0, 0, 1, 0, 0, 1, 0, 0, 0⟩)] }).memChanged 11
    { State.reset.memSt 11 with mode := 5 }

theorem witness_ManagementAndInjection :
    ({ labMgmt.fw with session := true }.session = true ∧ labMgmt.fw.session = false ∧
      labMgmt.pow.st ≠ .off ∧ labMgmt.fe.housekeeper = true ∧ { State.reset.pow with st := .off }.st = .off ∧
      { FrontEnd.reset with housekeeper := false }.housekeeper = false) ∧
    (((Table.find? (labMgmt.bank 0).recs 3).any fun r => r.valid && r.cls != 0) = true ∧ Table.find? (labMgmt.bank 0).recs 4 = none ∧
      ((Table.find? ((labMgmt.setBank 0 ((labMgmt.bank 0).release 3)).bank 0).recs 3).any fun r => !r.valid) = true ∧ (0 < 728 ∧ 3 < 30) ∧ ¬ 728 < 728) ∧
    ((labMgmt.memSt 0).mode ≠ 5 ∧ (labMgmt.memSt 0).failmask.getLsbD 31 = false ∧ (labMgmt.memSt 11).mode = 5) ∧
    ((labMgmt.memSt 0).mode = 0 ∧ 720 ≤ 720 ∧ 65535 ≤ 65535 ∧ 6 ≤ 6 ∧ 255 < 256 ∧ labMgmt.cx.ctxs = [] ∧ 2 ^ 18 - 1 < 2 ^ 18) ∧
    (384 ≤ 384 ∧ 383 < 384 ∧ ¬ 384 < 384) := by decide +kernel

/-! ### Channels, patrol, ports, tests -/

/-- Die 0's memory in a mode, with a change. -/
def labDie (f : MemSt → MemSt) : State := State.reset.memChanged 0 (f (State.reset.memSt 0))

theorem witness_ChannelsPatrolPorts :
    ((State.reset.memSt 0).mode = 0 ∧ (State.reset.memSt 0).rsvheld = true ∧ (State.reset.memSt 0).failmask.getLsbD 31 = false ∧
      ((labDie fun m => { m with rsvheld := false }).memSt 0).rsvheld = false ∧ ((labDie fun m => { m with mode := 1 }).memSt 0).mode = 1 ∧
      ((labDie fun m => { m with mode := 4 }).memSt 0).mode = 4 ∧ ((labDie fun m => { m with mode := 2, spare := 7 }).memSt 0).spare ≠ 255 ∧
      ((labDie fun m => { m with mode := 2 }).memSt 0).spare = 255 ∧
      ((labDie fun m => { m with mode := 3, rebuilding := true }).memSt 0).rebuilding = true ∧
      ((labDie fun m => { m with mode := 3, spare := 7 }).memSt 0).mode = 3 ∧
      ((labDie fun m => { m with mode := 3, spare := 7 }).memSt 0).rebuilding = false) ∧
    (((labDie fun m => { m with mode := 2 }).memSt 0).mode = 2 ∧ ((labDie fun m => { m with mode := 2 }).memSt 0).relaypos + 1 < granules ∧
      (labDie fun m => { m with mode := 2 }).lost 0 0 = false ∧
      (labDie fun m => { m with mode := 2, failmask := BitVec.allOnes 32 }).lost 0 28 = true ∧ 28 % 29 = 28 ∧ 0 % 29 ≠ 28 ∧
      granules ≤ ((labDie fun m => { m with mode := 2, relaypos := granules }).memSt 0).relaypos) ∧
    ((labDie fun m => { m with replaced := some (1, 2), rebuilding := true }).memSt 0).replaced = some (1, 2) ∧
    (31744 ≤ 31744 ∧ 32767 < 32768 ∧ (State.reset.memSt 0).covered.contains 32767 = false ∧ State.reset.rel.latent = [] ∧ 8 ≤ 8 ∧ 7 < 8) ∧
    (State.reset.mayRetain .s1 0 0 = true ∧ State.reset.mayRetain .s1 288 0 = false ∧ State.reset.cx.resuming = 0 ∧
      arrayOf .s1 0 0 ∉ State.reset.rel.retention ∧
      arrayOf .s1 0 0 ∈ [arrayOf .s1 0 0] ∧ (([] : List Nat).filter fun a => a / 32 == arrayOf .s1 0 0 / 32).head? = none ∧
      ([arrayOf .s3 0 (2 ^ 21)].filter fun a => a / 32 == arrayOf .s3 0 0 / 32).head? = some (arrayOf .s3 0 (2 ^ 21)) ∧
      arrayOf .s3 0 (2 ^ 21) ≠ arrayOf .s3 0 0 ∧ arrayOf .s3 0 (2 ^ 21) / 32 = arrayOf .s3 0 0 / 32) ∧
    ((State.reset.bank 727).fenced = false ∧ 17 < 18 ∧ State.reset.host.down.contains 1 = false) := by decide +kernel

/-- A test of core 0 for a node, and by the housekeeper. -/
def labTested (keeper : Bool) : State :=
  { State.reset with rel := { State.reset.rel with tests := [(0, ⟨0, keeper, none⟩)] } }

theorem witness_SelfTestsAndChecks :
    (Table.find? State.reset.rel.tests 0 = none ∧ Table.find? (labTested false).rel.tests 0 = some ⟨0, false, none⟩ ∧
      (labTested false).coreIdle 0 = true ∧ State.coreIdle { labTested false with hart := lab.hart } 0 = false ∧
      Table.find? (labTested true).rel.tests 0 = some ⟨0, true, none⟩ ∧ { FrontEnd.reset with housekeeper := false }.housekeeper = false) ∧
    (lab.hart.st = .running ∧ lab.hart.num < 1152 ∧ (withH lab fun h => { h with mode := 0x1000 }).hart.mode.getLsbD 12 = true) ∧
    ((State.hartAt lab.waits 0).st = .waiting ∧ (State.hartAt lab.waits 0).num = 0 ∧ (lab.hartAt 0).st ≠ .waiting) := by decide +kernel

/-- The housekeeper's test of core 0, whose hart 0 a ready block waits for. -/
def labAbandon : State :=
  { labServe with
    rel := { labServe.rel with tests := [(0, ⟨0, true, none⟩)] }
    cx := ⟨[(0, { demoCtx 1 with live := { (demoCtx 1).live with cores := [0] } })], 0, 0, 0, []⟩ }

theorem witness_SelfTestsAndChecks_abandon :
    Table.find? labAbandon.rel.tests 0 = some ⟨0, true, none⟩ ∧
    State.serve { labAbandon with rel := { labAbandon.rel with tests := Table.erase labAbandon.rel.tests 0 } } (4 * 0) ≠ none ∧
    (∀ n, n / 96 = 0 / 24 → n / 4 ≠ 0 → (labAbandon.hartAt n).st = .idle → labAbandon.serve n = none) ∧
    State.serve { labTested true with rel := { (labTested true).rel with tests := Table.erase (labTested true).rel.tests 0 } } (4 * 0) =
      none :=
  ⟨by decide +kernel, by decide +kernel, fun n h =>
    (show ∀ n < 96, n / 4 ≠ 0 → (labAbandon.hartAt n).st = .idle → labAbandon.serve n = none by decide +kernel) n (by omega),
    by decide +kernel⟩

/-- The word that a state executes, with the prefix that repeats it. -/
def runs (s : State) (j : Nat) : Option (IWord × Option IWord) := (s.executing j).map Prod.snd

/-- The second repetition of a prefix over VADD, VADD alone, a scalar word, and none. -/
theorem witness_SelfTestsAndChecks_datapath :
    (labRep.hart.st = .running ∧ labRep.hart.num < 1152 ∧ runs labRep 1 = some (repWord (repPrefix 1 4 0) 0x42811000 1, some (repPrefix 1 4 0)) ∧
      runs (withH labRep fun h => { h with pc := 0x204004 }) 0 = some (0x42811000, none) ∧
      majorOf (repWord (repPrefix 1 4 0) 0x42811000 1) = 0x10 ∧ majorOf 0x42811000 = 0x10) ∧
    (runs (withH (withM labRep [(0x4008, 4, 0x09290001)]) fun h => { h with pc := 0x204008 }) 0 = some (0x09290001, none) ∧
      majorOf 0x09290001 < 0x10 ∧ runs labRep 2 = none ∧ labRep.hart.prot = false ∧
      (withH labRep fun h => { h with mode := 0x1000 }).hart.prot = true) := by decide +kernel

/-- VADD v20, v1, v2 alone in protected mode, which writes v20 back and not v3. -/
def labProt : State := withH labRep fun h => { h with pc := 0x204004, mode := 0x1000 }

theorem witness_SelfTestsAndChecks_mirror :
    labProt.hart.prot = true ∧
    (labProt.executing 0).map (fun x => (x.1.writesBack x.2.1 20, x.1.writesBack x.2.1 3)) = some (true, false) := by decide +kernel

/-- Of the cores, core 0 alone may be tested: the others are fenced. -/
def labOneCore : State :=
  { State.reset with rel := { State.reset.rel with fencedCores := (List.range 287).map (· + 1) } }

theorem witness_HousekeeperTest :
    labOneCore.fe.housekeeper = true ∧ labOneCore.tick.testable 0 = true ∧ ∀ k < 288, labOneCore.tick.testable k = true → k = 0 := by
  decide +kernel

/-! ### Power, resets -/

theorem witness_PowerAndTemperature :
    (State.reset.powered = true ∧ 4200 < 4201 ∧ 1000 < State.reset.pow.mhz ∧ { State.reset.pow with mhz := 1000 }.mhz ≤ 1000 ∧
      (labServe.cx.ctxs.map Prod.fst).Pairwise (· < ·) ∧ State.reset.pow.hot = [] ∧ 100 ≤ { State.reset.pow with below := 100 }.below ∧
      State.reset.pow.below < 100) ∧
    (State.reset.pow.st ≠ .off ∧ 11 < 12 ∧ 3 < 4 ∧
      (∀ hot ∈ [96, 98, 100, 109], hot = max hot ((List.range 4).foldl (fun m j => if j = 3 then m else
        max m (Table.get State.reset.pow.temps (4 * 11 + j) 0)) 0) ∧ hot < 110) ∧
      (List.range 4).foldl (fun m j => if j = 3 then m else max m (Table.get [(45, 99)] (4 * 11 + j) 0)) 0 = 99) ∧
    (State.powered { State.reset with pow := { State.reset.pow with st := .off } } = false ∧ State.reset.dieIdle 0 = true ∧
      labBlock.dieIdle 0 = false ∧ State.reset.cmds = [] ∧ State.reset.fe.running = 0 ∧
      (∀ k < 12, k ≠ 11 → k ∈ { State.reset.pow with idleDies := List.range 11 }.idleDies)) ∧
    ((∀ p ∈ State.reset.cx.ctxs, p.2.st ≠ 1) ∧ (∃ p ∈ labServe.cx.ctxs, p.2.st = 1)) ∧
    (State.reset.fw.updating = none ∧ { State.reset.fw with updating := some [] }.updating = some [] ∧ labHost.fw.served = true ∧
      State.reset.fw.recovery = false) ∧
    (State.reset.pow.st ≠ .standby ∧ { State.reset.pow with st := .standby }.st = .standby ∧ Memory.wf lab.mem = true ∧
      (∀ t ∈ (labWith .ready).tiles, t.lv = .s1 → t.inst < 288)) := by decide +kernel

/-- Stack 1 that does not train. -/
def demoTraining : Training := { badStacks := [1], partners := [] }

/-- A reset up to step 4 and through step 7; whether its firmware ends in recovery is a free function of the banks (log 17). -/
theorem witness_ResetsAndFirmware :
    (∀ x ∈ [none, some demoTraining], (∃ u, exec (.coldReset 1 x [3]) lab = .next u) ∧ ∃ u, exec (.warmReset x [3]) lab = .next u) ∧
    (lab.pow.st ≠ .off ∧ { State.reset.pow with st := .off }.st = .off ∧ lab.fw.recovery = false ∧ lab.fe.lost = false ∧
      lab.fw.advances < 64 ∧ { lab.fw with minSvn := 0 }.minSvn < { lab.fw with minSvn := 0, svn := 1 }.svn ∧
      lab.fw.svn ≤ lab.fw.minSvn ∧ 64 ≤ { lab.fw with advances := 64 }.advances) ∧
    (lab.fw.updating = none ∧ lab.fw.session = false ∧ { lab.fw with session := true }.session = true ∧
      { lab.fw with updating := some [1] }.updating = some [1] ∧ 1 ≤ 7 ∧ 7 < 8) :=
  ⟨fun _ _ => ⟨⟨_, rfl⟩, _, rfl⟩, by decide +kernel, by decide +kernel⟩

/-! ### Words and steps -/

theorem witness_DecodeOfEncode : encode (.vadd 31 31 (BitVec.ofInt 5 (-1)) 2) = some 0x43FFF810 ∧
    decode 0x43FFF810 = .instr (.vadd 31 31 (BitVec.ofInt 5 (-1)) 2) := ⟨rfl, rfl⟩

/-- The hart in paged code: a word that is an instruction, one that is none, and none. -/
theorem witness_StepRunsDecodedInstruction :
    labRep.agenda = [] ∧ labRep.powered = true ∧ labRep.hart.st = .running ∧ labRep.hart.yielded = false ∧
    labPair.agenda = [] ∧ labPair.hart.st = .running ∧ labPair.hart.yielded = true ∧
    (State.nextRunning { labPair with hart := { labPair.hart with yielded := false } } = some 1) ∧
    (State.nextRunning { labPair with hart := { labPair.hart with yielded := false }, parked := [] } = none) ∧
    fetchIs (labRep.fetch labRep.hart.pc) (repPrefix 1 4 0) labRep = true ∧
    fetchIs ((withH labRep fun h => { h with pc := 0x204008 }).fetch 0x204008) 0 (withH labRep fun h => { h with pc := 0x204008 }) = true ∧
    lab.fetch lab.hart.pc = .fault false 0x4000 ∧ State.reset.agenda = [] ∧ State.reset.hart.st = .idle ∧
    encode (.kick 0 1) = none ∧ encode (.clockRaise) = none ∧ State.reset.pow.st ≠ .off ∧ { State.reset.pow with st := .off }.st = .off ∧
    encode (.coldReset 0 none []) = none ∧ 1155 ≤ 1155 := by decide +kernel

theorem witness_StepDecodes : decode (repPrefix 1 4 0) = .instr (.rep 1 4 0) ∧ ∃ r, decode 0 = .reject r := ⟨rfl, _, rfl⟩

theorem witness_MemoryStaysCanonical :
    Memory.wf State.reset.mem = true ∧ did (step (State.reset.withFetchWord 32 0x09290001)) (fun _ => true) = true := by decide +kernel

end Sys2Proof.Machine.Tests
end

section
/-! PROOFS. Plain memory (00 R5; log 3): numbers and bytes little-endian, the canonical form as an extensional one, and what an
access of plain memory changes outside memory. -/

namespace Sys2Proof.Machine

namespace Memory

/-! ### Numbers and their bytes -/

/-- Writing the bytes of a number, lowest first, writes the number. -/
theorem writeBytes_leBytes (m : List Host.Cell) (k n v : Nat) : writeBytes m k (leBytes n v) = writeLE m k n v := by
  induction n generalizing m k v with
  | zero => rfl
  | succ n ih => exact ih (write m k (BitVec.ofNat 8 v)) (k + 1) (v / 256)

/-- The bytes read, lowest first, make up the number read. -/
theorem leNat_readBytes (m : List Host.Cell) (k n : Nat) : leNat (readBytes m k n) = readLE m k n := by
  induction n generalizing k with
  | zero => rfl
  | succ n ih =>
    show (read m k).toNat + 256 * leNat (readBytes m (k + 1) n) = (read m k).toNat + 256 * readLE m (k + 1) n
    rw [ih]

/-- A number that was written reads back, cut to its bytes. -/
theorem readLE_writeLE {m : List Host.Cell} (h : wf m = true) (k n v : Nat) :
    readLE (writeLE m k n v) k n = v % 256 ^ n := by
  induction n generalizing m k v with
  | zero => simp [readLE, Nat.mod_one]
  | succ n ih =>
    have hw : wf (write m k (BitVec.ofNat 8 v)) = true := wf_write h k _
    have low : read (writeLE m k (n + 1) v) k = BitVec.ofNat 8 v := by
      simpa using read_writeLE h k (n + 1) v (i := 0) (by omega)
    have high : readLE (writeLE m k (n + 1) v) (k + 1) n = v / 256 % 256 ^ n := ih hw (k + 1) (v / 256)
    calc (read (writeLE m k (n + 1) v) k).toNat + 256 * readLE (writeLE m k (n + 1) v) (k + 1) n
        = v % 256 + 256 * (v / 256 % 256 ^ n) := by rw [low, high, BitVec.toNat_ofNat]
      _ = v % 256 ^ (n + 1) := by rw [Nat.pow_succ', Nat.mod_mul]

/-! ### The canonical form is determined by what it reads as -/

@[simp] theorem read_cons_self (k : Nat) (b : Byte) (m : List Host.Cell) : read ((k, b) :: m) k = b := by simp [read]

theorem read_cons_above {k a : Nat} (h : k < a) (b : Byte) (m : List Host.Cell) : read ((k, b) :: m) a = read m a := by
  simp only [read]
  rw [if_neg (by omega), if_neg (by omega)]

/-- A listed lowest key is no lower than that of a canonical memory which reads the same there. -/
theorem key_le_of_read_eq {k k' : Nat} {b b' : Byte} {m m' : List Host.Cell} (hb : b ≠ unlisted) (ha : Above k' m')
    (e : read ((k, b) :: m) k = read ((k', b') :: m') k) : k' ≤ k := by
  refine Nat.le_of_not_lt fun hlt => ?_
  have above : Above k ((k', b') :: m') := fun c hc => by
    rcases List.mem_cons.1 hc with rfl | hc
    · omega
    · exact ha.mono (by omega) c hc
  rw [read_cons_self, read_above above] at e
  exact hb e

/-- Canonical memories that read the same are the same. -/
theorem ext_of_read {m m' : List Host.Cell} (h : wf m = true) (h' : wf m' = true) (e : ∀ a, read m a = read m' a) : m = m' := by
  induction m generalizing m' with
  | nil =>
    cases m' with
    | nil => rfl
    | cons c' t' =>
      obtain ⟨hb', -, -⟩ := wf_cons.1 h'
      exact absurd ((e c'.1).trans (read_cons_self ..)).symm hb'
  | cons c t ih =>
    obtain ⟨k, b⟩ := c
    obtain ⟨hb, ha, ht⟩ := wf_cons.1 h
    cases m' with
    | nil => exact absurd ((read_cons_self ..).symm.trans (e k)) hb
    | cons c' t' =>
      obtain ⟨k', b'⟩ := c'
      obtain ⟨hb', ha', ht'⟩ := wf_cons.1 h'
      obtain rfl : k = k' := Nat.le_antisymm (key_le_of_read_eq hb' ha (e k').symm) (key_le_of_read_eq hb ha' (e k))
      obtain rfl : b = b' := by simpa using e k
      have tails : ∀ a, read t a = read t' a := fun a => by
        rcases Nat.lt_or_ge k a with hlt | hle
        · rw [← read_cons_above hlt b t, e, read_cons_above hlt]
        · rw [read_above (ha.mono hle), read_above (ha'.mono hle)]
      rw [ih ht ht' tails]

end Memory

@[simp] theorem length_leBytes (n v : Nat) : (leBytes n v).length = n := by
  induction n generalizing v with
  | zero => rfl
  | succ n ih => simp [leBytes, ih]

/-! ### The frame of what the reliability service does about a block -/

/-- The states differ in the records of reliability and in the samples of the clock alone. -/
def State.SameButReliab (s t : State) : Prop := t = { s with clock := t.clock, ticks := t.ticks, rel := t.rel }

namespace State.SameButReliab

theorem refl (s : State) : s.SameButReliab s := rfl

theorem trans {s t u : State} (h : s.SameButReliab t) (h' : t.SameButReliab u) : s.SameButReliab u := by
  unfold State.SameButReliab at h h' ⊢
  rw [h', h]

theorem hart {s t : State} (h : s.SameButReliab t) : t.hart = s.hart := by rw [h]

theorem parked {s t : State} (h : s.SameButReliab t) : t.parked = s.parked := by rw [h]

theorem setRel (s : State) (r : Reliab) : s.SameButReliab { s with rel := r } := rfl

theorem report (s : State) (b : Nat) (i : McInfo) : s.SameButReliab (s.report b i).1 := rfl

theorem addPoison (s : State) (b : Nat) : s.SameButReliab (s.addPoison b) := by
  unfold State.addPoison
  split
  · exact refl s
  · rfl

theorem reportBlock (s : State) (b c x : Nat) (i : Bool) : s.SameButReliab (s.reportBlock b c x i) := by
  unfold State.reportBlock
  split
  · exact refl s
  · exact report s _ _

theorem parity (s : State) (b : Nat) (p : Bool) : s.SameButReliab (s.parity b p) := by
  unfold State.parity
  split
  · exact refl s
  · dsimp only
    split <;> rfl

/-- Injection takes one of its count away, and then poisons and reports the block or leaves a mask on it. -/
theorem inject (s : State) (b : Nat) : s.SameButReliab (s.inject b) := by
  unfold State.inject
  split
  · exact refl s
  · split
    · exact refl s
    · dsimp only
      split
      · split
        · split
          · exact .trans (.trans (setRel s _) (addPoison _ b)) (reportBlock _ b _ _ _)
          · exact .trans (.trans (setRel s _) (addPoison _ b)) (reportBlock _ b _ _ _)
        · rfl
      · exact refl s

theorem writeBlock (s : State) (k n : Nat) (p : Bool) (b : Nat) : s.SameButReliab (s.writeBlock k n p b) := by
  unfold State.writeBlock
  refine .trans (.trans ?_ (parity _ b p)) (inject _ b)
  split
  · rfl
  · exact refl s

theorem foldl {α : Type} {f : State → α → State} (hf : ∀ (s : State) (a : α), s.SameButReliab (f s a)) (xs : List α) (s : State) :
    s.SameButReliab (xs.foldl f s) := by
  induction xs generalizing s with
  | nil => exact refl s
  | cons x xs ih => exact (hf s x).trans (ih (f s x))

/-- A write of bytes changes memory, and beside it the records of reliability and the clock's samples alone. -/
theorem storeBytes (s : State) (k : Nat) (p : Bool) (bs : List Byte) :
    State.SameButReliab { s with mem := (s.storeBytes k p bs).mem } (s.storeBytes k p bs) := by
  rw [State.storeBytes_mem]
  unfold State.storeBytes
  split
  · exact refl s
  · exact foldl (fun s b => writeBlock s _ _ _ b) _ _

end State.SameButReliab

/-! ### Accesses of one part in plain memory -/

/-- An access of plain memory whose granules no claim covers passes its gates (03 R132). -/
theorem State.check_plain {s : State} {e : Env} {num : Nat} {acc : Acc} {va : Word} {n k : Nat} {h p : Bool}
    (ha : s.access e acc va n = .ok [⟨va, n, .mem k h p⟩]) (hc : s.claimed k n = false) :
    s.check e num acc va n = .ok [⟨va, n, .mem k h p⟩] := by
  have gate : s.partGate e num acc.writes ⟨va, n, .mem k h p⟩ = .go := by simp [State.partGate, hc]
  simp [State.check, ha, firstGate, gate, Gate.rank]

/-- A store to plain memory that no claim holds back and no fence discards: its bytes go to memory, and harts stay. -/
theorem State.storeN_plain_frame {s : State} {va : Word} {n k : Nat} {h p : Bool} (v : Nat)
    (ha : s.access s.hart.env .store va n = .ok [⟨va, n, .mem k h p⟩]) (hc : s.claimed k n = false) (hf : s.fenced k = false) :
    ∃ t, s.storeN va n v = .ok 0 t ∧ t.hart = s.hart ∧ t.parked = s.parked ∧ t.mem = Memory.writeLE s.mem k n v := by
  have frame := SameButReliab.storeBytes s k p (leBytes n v)
  refine ⟨s.storeBytes k p (leBytes n v), ?_, frame.hart, frame.parked, ?_⟩
  · have bytes : (leBytes n v).take n = leBytes n v := List.take_of_length_le (Nat.le_of_eq (length_leBytes n v))
    rw [State.storeN_plain v (check_plain ha hc), bytes]
  · rw [State.storeBytes_mem, hf, ← Memory.writeBytes_leBytes]
    rfl

/-- A load of plain memory that no claim, code or poison holds back gives the number there and changes nothing. -/
theorem State.loadN_plain_readLE {s : State} {va : Word} {n k : Nat} {h p : Bool}
    (ha : s.access s.hart.env .load va n = .ok [⟨va, n, .mem k h p⟩]) (hc : s.claimed k n = false)
    (hr : s.readCheck k n = (s, none)) : s.loadN va n = .ok (Memory.readLE s.mem k n) s := by
  rw [State.loadN_plain (check_plain ha hc) hr, Memory.leNat_readBytes]

/-- Settles O9, by the frame of a write on plain memory and the laws of memory as a canonical list. -/
theorem memoryReadsBack : Obligations.MemoryReadsBack := by
  refine ⟨fun s va n k h p hc hf => ⟨fun ha hr => State.loadN_plain_readLE ha hc hr, fun ha hw v => ?_⟩,
    fun m hm k => ⟨fun b => ?_, fun n v => ?_, fun m' hm' e => Memory.ext_of_read hm hm' e⟩⟩
  · obtain ⟨t, hs, hhart, hparked, hmem⟩ := State.storeN_plain_frame v ha hc hf
    refine ⟨t, hs, hhart, hparked, ?_, fun i hi => ?_, fun a ne => ?_⟩
    · rw [hmem]; exact Memory.wf_writeLE hw k n v
    · rw [hmem]; exact Memory.read_writeLE hw k n v hi
    · rw [hmem]; exact Memory.read_writeLE_ne hw v ne
  · exact ⟨Memory.wf_write hm k b, Memory.read_write_same hm k b, fun a ne => Memory.read_write_ne hm b ne⟩
  · exact ⟨Memory.wf_writeLE hm k n v, Memory.readLE_writeLE hm k n v⟩

end Sys2Proof.Machine
end

section
/-! PROOFS. The registers of a hart (01 R24, R40): what a read finds after a write. -/

namespace Sys2Proof.Machine

theorem Hart.readS_zero (h : Hart) : h.readS 0 = 0 := by simp [Hart.readS]

theorem Hart.writeS_zero (h : Hart) (v : Word) : h.writeS 0 v = h := by simp [Hart.writeS]

theorem Hart.readP_zero (h : Hart) : h.readP 0 = BitVec.allOnes 16384 := by simp [Hart.readP]

theorem Hart.writeP_zero (h : Hart) (v : PWord) : h.writeP 0 v = h := by simp [Hart.writeP]

/-- Entries of a vector of registers, numbered by bit vectors. -/
theorem getElem_set_toNat {α : Type} {k n : Nat} (v : Vector α n) (r q : BitVec k) (x : α) (hr : r.toNat < n) (hq : q.toNat < n) :
    (v.set r.toNat x)[q.toNat] = if q = r then x else v[q.toNat] := by
  by_cases e : q = r
  · subst e
    rw [if_pos rfl, Vector.getElem_set_self]
  · rw [if_neg e, Vector.getElem_set_ne _ _ fun same => e (BitVec.eq_of_toNat_eq same.symm)]

theorem Hart.readS_writeS (h : Hart) {r : SReg} (v : Word) (q : SReg) (hr : r ≠ 0) :
    (h.writeS r v).readS q = if q = r then v else h.readS q := by
  by_cases hq : q = 0
  · subst hq
    rw [Hart.readS_zero, Hart.readS_zero, if_neg hr.symm]
  · simp only [Hart.writeS, Hart.readS, if_neg hr, if_neg hq]
    exact getElem_set_toNat h.regs r q v r.isLt q.isLt

theorem Hart.readP_writeP (h : Hart) {p : PReg} (v : PWord) (q : PReg) (hp : p ≠ 0) :
    (h.writeP p v).readP q = if q = p then v else h.readP q := by
  by_cases hq : q = 0
  · subst hq
    rw [Hart.readP_zero, Hart.readP_zero, if_neg hp.symm]
  · simp only [Hart.writeP, Hart.readP, if_neg hp, if_neg hq]
    exact getElem_set_toNat h.preds p q v p.isLt q.isLt

/-- An entry of a vector after one within its bounds was set. -/
theorem getD_setIfInBounds {α : Type} {n : Nat} (v : Vector α n) {i : Nat} (hi : i < n) (r : Nat) (x d : α) :
    (v.setIfInBounds i x).getD r d = if r = i then x else v.getD r d := by
  by_cases e : r = i
  · subst e
    simp [Vector.getD, hi]
  · rw [if_neg e, getD_setIfInBounds_ne v x d e]

theorem Hart.readV_writeV (h : Hart) {r : Nat} (v : VWord) (q : Nat) (hr : r < 32) :
    (h.writeV r v).readV q = if q = r then v else h.readV q := getD_setIfInBounds h.vregs hr q v 0

theorem Hart.tag_setTag (h : Hart) {r : Nat} (t : BitVec 6) (q : Nat) (hr : r < 32) :
    (h.setTag r t).tag q = if q = r then t else h.tag q := getD_setIfInBounds h.tags hr q t 0

/-- Settles O5: each register file reads back what was written, and s0 and p0 are constants. -/
theorem registerFiles : Obligations.RegisterFiles := by
  refine ⟨fun h v => ⟨h.readS_zero, h.writeS_zero v⟩, fun h v i hi => ⟨?_, h.writeP_zero v⟩,
    fun h r v q hr => h.readS_writeS v q hr, fun h r v q hr => h.readP_writeP v q hr,
    fun h r v q hr _ => h.readV_writeV v q hr, fun h r t q hr _ => h.tag_setTag t q hr⟩
  rw [h.readP_zero, BitVec.getLsbD_allOnes, decide_eq_true hi]

end Sys2Proof.Machine
end

section
/-! PROOFS. Control and status registers (01 R27 to R30, R48 to R50; 05 R194): which numbers a hart may name, what CSRR, CSRW and CSRX
do with one that it may name, and the fields that a write changes. -/

namespace Sys2Proof.Machine

/-! ### Which numbers a hart may name (01 R28) -/

/-- Where the mode allows a number, it is denied only if it is not implemented. -/
theorem Hart.csrDenied_allowed {h : Hart} {n : Nat} (hx : 0x100 ≤ n → n ≤ 0x1FF → h.inX = true) :
    h.csrDenied n = if csrExists n then none else some .illegal :=
  if_neg fun ⟨lo, hi, user⟩ => by cases (hx lo hi).symm.trans user

theorem Hart.csrDenied_none {h : Hart} {n : Nat} (he : csrExists n = true) (hx : 0x100 ≤ n → h.inX = true) :
    h.csrDenied n = none := by
  rw [Hart.csrDenied_allowed fun lo _ => hx lo, if_pos he]

theorem Hart.csrDenied_illegal {h : Hart} {n : Nat} (he : csrExists n = false) (hx : 0x100 ≤ n → n ≤ 0x1FF → h.inX = true) :
    h.csrDenied n = some .illegal := by
  rw [Hart.csrDenied_allowed hx, he]
  rfl

theorem Hart.csrDenied_privCsr {h : Hart} {n : Nat} (lo : 0x100 ≤ n) (hi : n ≤ 0x1FF) (hx : h.inX = false) :
    h.csrDenied n = some (.privCsr n) := if_pos ⟨lo, hi, hx⟩

/-- The numbers that the rule lists as not implemented. -/
theorem csrExists_unassigned {n : Nat} (h : 9 ≤ n ∧ n ≤ 0x00B ∨ 0x01A ≤ n ∧ n ≤ 0x0FF ∨ 0x200 ≤ n) :
    csrExists n = false := by
  unfold csrExists
  simp only [Bool.or_eq_false_iff, Bool.and_eq_false_iff, decide_eq_false_iff_not]
  omega

/-! ### The three instructions (05 R194) -/

theorem exec_csrr {s : State} {d : SReg} {n : BitVec 12} (h : s.hart.csrDenied n.toNat = none) :
    exec (.csrr d n) s = .next ((s.sampleFor n.toNat).setS d ((s.sampleFor n.toNat).csr n.toNat)).past := by
  show execCsrr d n s = _
  rw [execCsrr, runScalar_eq, h]
  rfl

theorem exec_csrw {s : State} {a : SReg} {n : BitVec 12} (h : s.hart.csrDenied n.toNat = none) :
    exec (.csrw a n) s = .next (State.past { s with hart := s.hart.writeCsr n.toNat (s.hart.readS a) }) := by
  show execCsrw a n s = _
  rw [execCsrw, runScalar_eq, h]
  rfl

theorem exec_csrx {s t : State} {d a : SReg} {n : BitVec 12} (h : s.hart.csrDenied n.toNat = none) (ht : s.sampleFor n.toNat = t) :
    exec (.csrx d a n) s =
      .next (State.past { t with hart := (t.hart.writeCsr n.toNat (t.hart.readS a)).writeS d (t.csr n.toNat) }) := by
  show execCsrx d a n s = _
  rw [execCsrx, runScalar_eq, h, ← ht]
  rfl

/-- A CSR instruction whose number the hart may not name traps. -/
theorem exec_csr_denied {s : State} {d a : SReg} {n : BitVec 12} {c : Cause} {i : Instr}
    (hi : i ∈ [Instr.csrr d n, .csrw a n, .csrx d a n]) (h : s.hart.csrDenied n.toNat = some c) : exec i s = .next (s.trapOf i c) := by
  simp only [List.mem_cons, List.not_mem_nil, or_false] at hi
  obtain rfl | rfl | rfl := hi
  · show execCsrr d n s = _
    rw [execCsrr, runScalar_eq, h]
    rfl
  · show execCsrw a n s = _
    rw [execCsrw, runScalar_eq, h]
    rfl
  · show execCsrx d a n s = _
    rw [execCsrx, runScalar_eq, h]
    rfl

/-- Settles O14: each number the rule lists is denied, and a denied number traps. -/
theorem csrNotImplementedTraps : Obligations.CsrNotImplementedTraps := by
  intro s d a n i hi
  refine ⟨fun h => ?_, fun hx lo hu => ?_, fun hx lo hu he => ?_⟩
  · exact exec_csr_denied hi (Hart.csrDenied_illegal (csrExists_unassigned h) fun _ _ => by omega)
  · exact exec_csr_denied hi (Hart.csrDenied_privCsr lo hu hx)
  · exact exec_csr_denied hi (Hart.csrDenied_illegal he fun _ _ => hx)

/-! ### Reads -/

/-- A number other than CLOCK's takes no sample. -/
theorem State.sampleFor_ne {s : State} {n : Nat} (h : n ≠ 0x018) : s.sampleFor n = s := if_neg h

theorem State.reads_csr {s : State} {n : BitVec 12} (he : csrExists n.toNat = true) (hx : 0x100 ≤ n.toNat → s.hart.inX = true)
    (hc : n.toNat ≠ 0x018) : s.Reads n (s.csr n.toNat) := by
  intro d
  rw [exec_csrr (Hart.csrDenied_none he hx), State.sampleFor_ne hc]

/-- A number that either mode may name, but for CLOCK's. -/
def userCsr (n : Nat) : Bool := csrExists n && decide (n < 0x100) && n != 0x018

theorem State.reads_user {s : State} {n : BitVec 12} {v : Word} (hn : userCsr n.toNat = true) (hv : s.csr n.toNat = v) : s.Reads n v := by
  simp only [userCsr, Bool.and_eq_true, decide_eq_true_eq, bne_iff_ne] at hn
  obtain ⟨⟨he, hlt⟩, hc⟩ := hn
  exact hv ▸ State.reads_csr he (fun _ => by omega) hc

/-- A number that supervisor mode may name. -/
theorem State.reads_super {s : State} {n : BitVec 12} {v : Word} (hx : s.hart.inX = true)
    (hn : csrExists n.toNat = true ∧ n.toNat ≠ 0x018) (hv : s.csr n.toNat = v) : s.Reads n v :=
  hv ▸ State.reads_csr hn.1 (fun _ => hx) hn.2

/-- Digit `k` of a number that is written as a sum of digits of 8 bits. -/
theorem digit_sum (f : Nat → Nat) (hf : ∀ k, f k < 256) (m : Nat) :
    (List.range m).foldl (fun a k => a + f k * 256 ^ k) 0 < 256 ^ m ∧
    ∀ k < m, (List.range m).foldl (fun a k => a + f k * 256 ^ k) 0 / 256 ^ k % 256 = f k := by
  induction m with
  | zero => simp
  | succ m ih =>
    obtain ⟨bound, digits⟩ := ih
    rw [List.range_succ, List.foldl_append]
    simp only [List.foldl_cons, List.foldl_nil]
    generalize (List.range m).foldl (fun a k => a + f k * 256 ^ k) 0 = t at bound digits ⊢
    refine ⟨?_, fun k hk => ?_⟩
    · have top : f m * 256 ^ m ≤ 255 * 256 ^ m := Nat.mul_le_mul_right _ (by have := hf m; omega)
      rw [Nat.pow_succ']
      omega
    · rcases Nat.lt_or_ge k m with hlt | hge
      · have split : f m * 256 ^ m = 256 * (f m * 256 ^ (m - k - 1)) * 256 ^ k := by
          have places : 256 ^ m = 256 * 256 ^ (m - k - 1) * 256 ^ k := by
            rw [← Nat.pow_succ', ← Nat.pow_add, show m - k - 1 + 1 + k = m by omega]
          rw [places]
          ac_rfl
        rw [split, Nat.add_mul_div_right _ _ (Nat.pow_pos (by omega)), Nat.add_mul_mod_self_left, digits k hlt]
      · obtain rfl : k = m := by omega
        rw [Nat.add_mul_div_right _ _ (Nat.pow_pos (by omega)), Nat.div_eq_of_lt bound, Nat.zero_add, Nat.mod_eq_of_lt (hf k)]

/-- A byte of VTAGSn is the tag of its register (01 R38). -/
theorem Hart.vtags_byte (h : Hart) (n : Nat) {k : Nat} (hk : k < 8) :
    (BitVec.ofNat 64 (h.vtags n)).toNat / 2 ^ (8 * k) % 256 = (h.tag (8 * n + k)).toNat := by
  obtain ⟨bound, digits⟩ := digit_sum (fun k => (h.tag (8 * n + k)).toNat) (fun k => by have := (h.tag (8 * n + k)).isLt; omega) 8
  have fits : h.vtags n < 2 ^ 64 := bound
  rw [BitVec.toNat_ofNat, Nat.mod_eq_of_lt fits, Nat.pow_mul]
  exact digits k hk

theorem State.reads_vtags (s : State) {n : Nat} (hn : n < 4) :
    s.Reads (BitVec.ofNat 12 (0x00C + n)) (BitVec.ofNat 64 (s.hart.vtags n)) := by
  obtain rfl | rfl | rfl | rfl : n = 0 ∨ n = 1 ∨ n = 2 ∨ n = 3 := by omega
  all_goals exact State.reads_user (by decide) rfl

/-- A read of CLOCK samples it (01 R39; log 5). -/
theorem exec_csrr_clock (s : State) (d : SReg) : exec (.csrr d 0x018) s = .next (s.tick.setS d s.tick.clock).past :=
  exec_csrr (Hart.csrDenied_none (by decide) (fun h => absurd h (by decide)))

/-- Settles O12, number by number. -/
theorem csrReads : Obligations.CsrReads := by
  intro s
  refine ⟨?user, fun hc => ?ctl, fun hc => ?compute, fun n hn => ⟨_, s.reads_vtags hn, fun k hk => s.hart.vtags_byte n hk⟩,
    fun hx => ?super, fun d n hn => ?clock⟩
  case user =>
    refine ⟨?_, ?_, ?_, ?_, ?_, ?_, ?_, ?_, ?_, ?_, ?_, ?_, ?nodeid, ?_, ?_⟩
    case nodeid => exact State.reads_user (by decide) (congrArg (BitVec.ofNat 64) (Nat.add_comm _ _))
    all_goals exact State.reads_user (by decide) rfl
  case ctl =>
    have ctl : s.hart.isCtl = true := decide_eq_true hc
    refine ⟨?_, ?_, ?_⟩ <;> refine State.reads_user (by decide) (congrArg (BitVec.ofNat 64) ?_) <;> simp [ctl]
  case compute =>
    have compute : s.hart.isCtl = false := decide_eq_false (by omega)
    refine ⟨?_, ?_, ?_⟩ <;> refine State.reads_user (by decide) (congrArg (BitVec.ofNat 64) ?_) <;>
      simp [compute, Hart.core, Hart.die]
  case super =>
    refine ⟨?_, ?_, ?_, ?_, ?_, ?_, ?_, ?_, ?_, ?_, ?_, ?_, ?_, ?_, ?_⟩ <;> exact State.reads_super hx (by decide) rfl
  case clock =>
    subst hn
    exact exec_csrr_clock s d

end Sys2Proof.Machine
end

section
/-! PROOFS. Writes to MODE (01 R34, R35): the value that MODE takes, and what a change of PROT does. -/

namespace Sys2Proof.Machine

/-- The value that MODE takes: every assigned bit, and PROT also where PROTREQ keeps it set (01 R35). -/
def Hart.modeTaken (h : Hart) (v : Word) : Word :=
  if h.prot = true ∧ h.ctxcfg.getLsbD 0 = true then v &&& modeMask ||| 0x1000 else v &&& modeMask

theorem Hart.writeMode_kept {h : Hart} {v : Word} (same : (h.modeTaken v).getLsbD 12 = h.prot) :
    h.writeMode v = { h with mode := h.modeTaken v } := if_pos same

/-- Clearing PROT clears the configuration. -/
theorem Hart.writeMode_clears {h : Hart} {v : Word} (clear : (h.modeTaken v).getLsbD 12 = false) (hp : h.prot = true) :
    h.writeMode v = { h with mode := h.modeTaken v, vcfg := 0x8000000000000000, vl := 0, vlmax := 0 } :=
  (if_neg fun same => by cases clear.symm.trans (same.trans hp)).trans (if_pos hp)

/-- Setting PROT clears the configuration and mirrors the vector registers. -/
theorem Hart.writeMode_mirrors {h : Hart} {v : Word} (set : (h.modeTaken v).getLsbD 12 = true) (hp : h.prot = false) :
    h.writeMode v = { h with
      mode := h.modeTaken v, vcfg := 0x8000000000000000, vl := 0, vlmax := 0, vregs := h.vregs.map mirrored } :=
  (if_neg fun same => by cases set.symm.trans (same.trans hp)).trans (if_neg (by simp [hp]))

/-- A write to MODE keeps PROT, clears it, or sets it. -/
theorem Hart.writeMode_cases (h : Hart) (v : Word) :
    (h.modeTaken v).getLsbD 12 = h.prot ∨ ((h.modeTaken v).getLsbD 12 = false ∧ h.prot = true) ∨
      ((h.modeTaken v).getLsbD 12 = true ∧ h.prot = false) := by
  cases (h.modeTaken v).getLsbD 12 <;> cases h.prot <;> simp

theorem Hart.writeMode_mode (h : Hart) (v : Word) : (h.writeMode v).mode = h.modeTaken v := by
  rcases h.writeMode_cases v with same | ⟨clear, hp⟩ | ⟨set, hp⟩
  · rw [Hart.writeMode_kept same]
  · rw [Hart.writeMode_clears clear hp]
  · rw [Hart.writeMode_mirrors set hp]

theorem Hart.writeMode_prot (h : Hart) (v : Word) : (h.writeMode v).prot = (h.modeTaken v).getLsbD 12 := by
  rw [← Hart.writeMode_mode]; rfl

/-- A write to MODE changes MODE, the configuration and the vector registers alone. -/
theorem Hart.writeMode_frame (h : Hart) (v : Word) :
    { h.writeMode v with mode := h.mode, vcfg := h.vcfg, vlmax := h.vlmax, vl := h.vl, vregs := h.vregs } = h := by
  rcases h.writeMode_cases v with same | ⟨clear, hp⟩ | ⟨set, hp⟩
  · rw [Hart.writeMode_kept same]
  · rw [Hart.writeMode_clears clear hp]
  · rw [Hart.writeMode_mirrors set hp]

/-- A change of PROT leaves VCFG illegal. -/
theorem Hart.writeMode_unconfigured {h : Hart} {v : Word} (changed : (h.writeMode v).prot ≠ h.prot) :
    (h.writeMode v).vcfg = 0x8000000000000000 ∧ (h.writeMode v).vlmax = 0 ∧ (h.writeMode v).vl = 0 := by
  rw [Hart.writeMode_prot] at changed
  rcases h.writeMode_cases v with same | ⟨clear, hp⟩ | ⟨set, hp⟩
  · exact absurd same changed
  · rw [Hart.writeMode_clears clear hp]
    exact ⟨rfl, rfl, rfl⟩
  · rw [Hart.writeMode_mirrors set hp]
    exact ⟨rfl, rfl, rfl⟩

theorem modeMask_bit {k : Nat} (hk : k < 64) : modeMask.getLsbD k = decide (k < 20 ∧ k ≠ 15) := by
  revert k
  decide

theorem protBit {k : Nat} (hk : k < 64) : (0x1000 : Word).getLsbD k = (k == 12) := by
  revert k
  decide

theorem Hart.modeTaken_bit (h : Hart) (v : Word) {k : Nat} (hk : k < 64) :
    (h.modeTaken v).getLsbD k =
      (decide (k < 20 ∧ k ≠ 15) && v.getLsbD k || (k == 12 && h.prot && h.ctxcfg.getLsbD 0)) := by
  unfold Hart.modeTaken
  split
  case isTrue kept =>
    rw [BitVec.getLsbD_or, BitVec.getLsbD_and, modeMask_bit hk, protBit hk, kept.1, kept.2, Bool.and_comm (v.getLsbD k)]
    simp only [Bool.and_true]
  case isFalse free =>
    have unkept : (h.prot && h.ctxcfg.getLsbD 0) = false := by simpa [-BitVec.getLsbD_eq_getElem] using free
    rw [BitVec.getLsbD_and, modeMask_bit hk, Bool.and_comm (v.getLsbD k), Bool.and_assoc (k == 12), unkept, Bool.and_false,
      Bool.or_false]

/-- The bits of the low `n` places of a number, written twice. -/
theorem testBit_twice (x : Nat) {n k : Nat} (hk : k < n + n) :
    (x % 2 ^ n + x % 2 ^ n * 2 ^ n).testBit k = x.testBit (k % n) := by
  rw [Nat.add_comm, Nat.mul_comm, Nat.testBit_two_pow_mul_add _ (Nat.mod_lt _ (Nat.two_pow_pos n))]
  split
  case isTrue lower => rw [Nat.testBit_mod_two_pow, decide_eq_true lower, Bool.true_and, Nat.mod_eq_of_lt lower]
  case isFalse upper =>
    have above : k - n < n := by omega
    rw [Nat.testBit_mod_two_pow, decide_eq_true above, Bool.true_and, Nat.mod_eq_sub_mod (Nat.le_of_not_lt upper), Nat.mod_eq_of_lt above]

/-- The bits of a register whose lower half overwrites its upper half. -/
theorem mirrored_bit (v : VWord) {k : Nat} (hk : k < 8192) : (mirrored v).getLsbD k = v.getLsbD (k % 4096) := by
  unfold mirrored
  rw [BitVec.getLsbD_ofNat, decide_eq_true hk, Bool.true_and]
  exact testBit_twice v.toNat (n := 4096) hk

theorem getD_map_mirrored (v : Vector VWord 32) {n : Nat} (hn : n < 32) : (v.map mirrored).getD n 0 = mirrored (v.getD n 0) := by
  simp [Vector.getD, hn]

/-- The vector registers after a write to MODE. -/
theorem Hart.writeMode_readV (h : Hart) (v : Word) {n k : Nat} (hn : n < 32) (hk : k < 8192) :
    ((h.writeMode v).readV n).getLsbD k =
      (h.readV n).getLsbD (if (h.writeMode v).prot = true ∧ h.prot = false then k % 4096 else k) := by
  rw [Hart.writeMode_prot]
  rcases h.writeMode_cases v with same | ⟨clear, hp⟩ | ⟨set, hp⟩
  · rw [Hart.writeMode_kept same, same, if_neg (by simp)]
    rfl
  · rw [Hart.writeMode_clears clear hp, hp, if_neg (by simp)]
    rfl
  · rw [Hart.writeMode_mirrors set hp, if_pos ⟨set, hp⟩, ← mirrored_bit _ hk]
    exact congrArg (BitVec.getLsbD · k) (getD_map_mirrored h.vregs hn)

end Sys2Proof.Machine
end

section
/-! PROOFS. What CSRW and CSRX change (01 R27 to R50; 05 R194). -/

namespace Sys2Proof.Machine

theorem State.writes_csr {s : State} {n : BitVec 12} {f : Word → Hart} (he : csrExists n.toNat = true)
    (hx : 0x100 ≤ n.toNat → s.hart.inX = true) (hf : s.hart.writeCsr n.toNat = f) : s.Writes n f := by
  intro a
  rw [exec_csrw (Hart.csrDenied_none he hx), hf]

theorem State.writes_super {s : State} {n : BitVec 12} {f : Word → Hart} (hx : s.hart.inX = true) (hn : csrExists n.toNat = true)
    (hf : s.hart.writeCsr n.toNat = f) : s.Writes n f :=
  State.writes_csr hn (fun _ => hx) hf

theorem State.writes_user {s : State} {n : BitVec 12} {f : Word → Hart} (hn : csrExists n.toNat = true ∧ n.toNat < 0x100)
    (hf : s.hart.writeCsr n.toNat = f) : s.Writes n f :=
  State.writes_csr hn.1 (fun _ => by omega) hf

/-- The numbers of the registers that a write changes. -/
def csrWritable : List Nat :=
  [0x002, 0x004, 0x005, 0x007, 0x008, 0x00C, 0x00D, 0x00E, 0x00F, 0x100, 0x101, 0x102, 0x103, 0x104, 0x105]

/-- A write to any other register changes nothing. -/
theorem Hart.writeCsr_readOnly (h : Hart) {n : Nat} (hn : n ∉ csrWritable) : h.writeCsr n = fun _ => h := by
  funext v
  unfold Hart.writeCsr
  split
  case h_16 => rfl
  all_goals exact absurd (by decide) hn

/-- The bits outside and inside a mask make up a word. -/
theorem and_not_add_and {k : Nat} (v m : BitVec k) : (v &&& ~~~m) + (v &&& m) = v := by
  rw [BitVec.add_eq_or_of_and_eq_zero]
  · rw [← BitVec.and_or_distrib_left]
    simp
  · ext i
    simp +contextual

/-- An address cut to a multiple of 4. -/
theorem align4_eq (v : Word) : v &&& ~~~(3 : Word) = v - v % 4 := by
  have low : v % 4 = v &&& 3 := BitVec.eq_of_toNat_eq (by
    rw [BitVec.toNat_umod, BitVec.toNat_and]
    exact (Nat.and_two_pow_sub_one_eq_mod v.toNat 2).symm)
  rw [low, eq_comm, BitVec.sub_eq_iff_eq_add]
  exact (and_not_add_and v 3).symm

theorem Hart.writeCsr_xepc (h : Hart) (v : Word) : h.writeCsr 0x102 v = { h with xepc := v - v % 4 } := by
  rw [← align4_eq]; rfl

theorem Hart.writeCsr_xvec (h : Hart) (v : Word) : h.writeCsr 0x104 v = { h with xvec := v - v % 4 } := by
  rw [← align4_eq]; rfl

/-- Bits of a word that follow each other, one by one. -/
theorem extractLsb'_two {k : Nat} (v : BitVec k) (n : Nat) :
    v.extractLsb' n 2 = BitVec.ofBool (v.getLsbD (n + 1)) ++ BitVec.ofBool (v.getLsbD n) := by
  apply BitVec.eq_of_getLsbD_eq
  intro i hi
  rw [BitVec.getLsbD_append, BitVec.getLsbD_extractLsb', BitVec.getLsbD_ofBool, BitVec.getLsbD_ofBool]
  obtain rfl | rfl : i = 0 ∨ i = 1 := by omega
  all_goals simp

theorem extractLsb'_one {k : Nat} (v : BitVec k) (n : Nat) : v.extractLsb' n 1 = BitVec.ofBool (v.getLsbD n) := by
  apply BitVec.eq_of_getLsbD_eq
  intro i hi
  rw [BitVec.getLsbD_extractLsb', BitVec.getLsbD_ofBool]
  obtain rfl : i = 0 := by omega
  simp

/-- A write to XSTATUS leaves PRIV (01 R49). -/
theorem Hart.writeCsr_xstatus (h : Hart) (v : Word) : h.writeCsr 0x100 v = { h with
    xstatus := BitVec.ofBool (v.getLsbD 2) ++ BitVec.ofBool (v.getLsbD 1) ++ BitVec.ofBool (h.xstatus.getLsbD 0) } := by
  rw [← extractLsb'_two v 1, ← extractLsb'_one h.xstatus 0]; rfl

/-- The tags after tags of consecutive registers were set one after another. -/
theorem Hart.tag_foldl_setTag (h : Hart) (first : Nat) (f : Nat → BitVec 6) (m : Nat) (hm : first + m ≤ 32) (r : Nat) :
    ((List.range m).foldl (fun h k => h.setTag (first + k) (f k)) h).tag r =
      if first ≤ r ∧ r < first + m then f (r - first) else h.tag r := by
  induction m with
  | zero => rw [if_neg (by omega)]; rfl
  | succ m ih =>
    rw [List.range_succ, List.foldl_append, List.foldl_cons, List.foldl_nil, Hart.tag_setTag _ _ _ (by omega), ih (by omega)]
    by_cases top : r = first + m
    · rw [if_pos top, if_pos (by omega), show r - first = m by omega]
    · rw [if_neg top]
      exact ite_congr (propext (by omega)) (fun _ => rfl) fun _ => rfl

/-- Setting tags one after another leaves the rest of the hart. -/
theorem Hart.foldl_setTag_frame (h : Hart) (first : Nat) (f : Nat → BitVec 6) (ks : List Nat) :
    { ks.foldl (fun h k => h.setTag (first + k) (f k)) h with tags := h.tags } = h := by
  induction ks generalizing h with
  | nil => rfl
  | cons k ks ih => exact congrArg (fun g : Hart => { g with tags := h.tags }) (ih (h.setTag (first + k) (f k)))

theorem Hart.writeVtags_tag (h : Hart) {n : Nat} (hn : n < 4) (v : Word) (r : Nat) :
    (h.writeVtags n v).tag r = if r / 8 = n then v.extractLsb' (8 * (r % 8)) 6 else h.tag r := by
  refine (h.tag_foldl_setTag (8 * n) (fun k => v.extractLsb' (8 * k) 6) 8 (by omega) r).trans ?_
  by_cases e : r / 8 = n
  · rw [if_pos (by omega), if_pos e, show r - 8 * n = r % 8 by omega]
  · rw [if_neg (by omega), if_neg e]

theorem State.writes_vtags (s : State) {n : Nat} (hn : n < 4) : s.Writes (BitVec.ofNat 12 (0x00C + n)) (s.hart.writeVtags n) := by
  obtain rfl | rfl | rfl | rfl : n = 0 ∨ n = 1 ∨ n = 2 ∨ n = 3 := by omega
  all_goals exact State.writes_user (by decide) rfl

/-- The old value that CSRX answers is what CSRR would read, and its write is CSRW's. -/
theorem exec_csrw_csrx {s : State} {n : BitVec 12} (d a : SReg) (he : csrExists n.toNat = true)
    (hx : 0x100 ≤ n.toNat → s.hart.inX = true) (hc : n ≠ 0x018) :
    ∃ h : Hart, exec (.csrw a n) s = .next (State.past { s with hart := h }) ∧
      exec (.csrx d a n) s = .next (State.past { s with hart := h.writeS d (s.csr n.toNat) }) :=
  have allowed := Hart.csrDenied_none he hx
  ⟨_, exec_csrw allowed, exec_csrx allowed (State.sampleFor_ne fun e => hc (BitVec.eq_of_toNat_eq e))⟩

/-- Settles O13: register by register, with the laws of MODE and of the tags. -/
theorem csrWrites : Obligations.CsrWrites := by
  intro s
  refine ⟨⟨?_, ?_, ?_, ?_⟩,
    ⟨s.hart.writeMode, State.writes_user (by decide) rfl, fun v => ⟨fun k hk => ?bits, s.hart.writeMode_frame v, fun same => ?kept,
      Hart.writeMode_unconfigured, fun n hn k hk => s.hart.writeMode_readV v hn hk⟩⟩,
    fun n hn a => ⟨s.hart.writeVtags n _, s.writes_vtags hn a, Hart.foldl_setTag_frame _ _ _ _,
      fun r _ => s.hart.writeVtags_tag hn _ r⟩,
    fun n hn => ?readOnly, fun hx => ?super, fun d a n he hx hc => exec_csrw_csrx d a he hx hc, fun d a n hn => ?clock⟩
  case bits => rw [Hart.writeMode_mode, Hart.modeTaken_bit _ _ hk]
  case kept =>
    rw [Hart.writeMode_prot] at same
    rw [Hart.writeMode_kept same]
    exact ⟨rfl, rfl, rfl⟩
  case readOnly =>
    have listed : ∀ n ∈ [(0x000 : BitVec 12), 0x001, 0x003, 0x006, 0x010, 0x011, 0x012, 0x013, 0x014, 0x015, 0x016, 0x017, 0x018,
        0x019], (csrExists n.toNat = true ∧ n.toNat < 0x100) ∧ n.toNat ∉ csrWritable := by simp [csrExists, csrWritable]
    exact State.writes_user (listed n hn).1 (s.hart.writeCsr_readOnly (listed n hn).2)
  case super =>
    have listed : ∀ n ∈ [(0x110 : BitVec 12), 0x111, 0x112, 0x113, 0x114, 0x118, 0x119, 0x11A, 0x11B],
        csrExists n.toNat = true ∧ n.toNat ∉ csrWritable := by simp [csrExists, csrWritable]
    refine ⟨?_, ?_, ?_, ?_, ?_, ?_, fun n hn => State.writes_super hx (listed n hn).1 (s.hart.writeCsr_readOnly (listed n hn).2)⟩
    · exact State.writes_super hx (by decide) (funext s.hart.writeCsr_xstatus)
    · exact State.writes_super hx (by decide) rfl
    · exact State.writes_super hx (by decide) (funext s.hart.writeCsr_xepc)
    · exact State.writes_super hx (by decide) rfl
    · exact State.writes_super hx (by decide) (funext s.hart.writeCsr_xvec)
    · exact State.writes_super hx (by decide) rfl
  case clock =>
    subst hn
    exact exec_csrx (Hart.csrDenied_none (by decide) (fun h => absurd h (by decide))) rfl
  all_goals exact State.writes_user (by decide) rfl

end Sys2Proof.Machine
end

section
/-! PROOFS. The vector configuration and MODE (01 R33 to R35; 05 R200, R201): what VSETL, VSETLI, SETMODE and SETMODEV leave. -/

namespace Sys2Proof.Machine

/-! ### VSETL and VSETLI -/

/-- An element has at least 4 bits. -/
theorem four_le_ewBits (c : Nat) : 4 ≤ ewBits c := by
  unfold ewBits
  repeat' split
  all_goals omega

/-- VLMAX of a supported request fits in its register. -/
theorem Hart.vlmaxOf_lt (h : Hart) {g : Nat} (e : Nat) (hg : g < 7) : h.vlmaxOf g e < 2 ^ 15 := by
  have group : 2 ^ g ≤ 2 ^ 6 := Nat.pow_le_pow_right (by omega) (by omega)
  calc h.vlmaxOf g e ≤ 8192 * 2 ^ g / 8 / ewBits e := Nat.div_le_self _ _
    _ ≤ 8192 * 2 ^ g / 8 / 4 := Nat.div_le_div_left (four_le_ewBits e) (by omega)
    _ < 2 ^ 15 := by omega

theorem Hart.configure_supported {h : Hart} {g e2 e1 : Nat} (ok : configOk g e2 e1 = true) (avl : Nat) :
    h.configure avl g e2 e1 = { h with
      vcfg := BitVec.ofNat 64 (e1 + e2 * 8 + g * 64), vlmax := BitVec.ofNat 15 (h.vlmaxOf g e1)
      vl := BitVec.ofNat 15 (min avl (h.vlmaxOf g e1)) } := if_pos ok

theorem Hart.configure_unsupported {h : Hart} {g e2 e1 : Nat} (bad : configOk g e2 e1 = false) (avl : Nat) :
    h.configure avl g e2 e1 = { h with vcfg := 0x8000000000000000, vlmax := 0, vl := 0 } := if_neg (by simp [bad])

/-- A request configures the hart and answers VL. -/
theorem exec_configures {s : State} {d : SReg} {g e f : BitVec 3} {avl : Nat} {i : Instr} {h : Hart} (hc : s.hart.isCtl = false)
    (hi : (∃ a, i = Instr.vsetl d a g e f ∧ avl = (s.hart.readS a).toNat) ∨ ∃ v, i = Instr.vsetli d v g e f ∧ avl = v.toNat)
    (hh : s.hart.configure avl g.toNat e.toNat f.toNat = h) :
    exec i s = .next (State.past (State.setS { s with hart := h } d (h.vl.setWidth 64))) := by
  subst hh
  obtain ⟨a, rfl, rfl⟩ | ⟨v, rfl, rfl⟩ := hi
  · show execVsetl d a g e f s = _
    rw [execVsetl, runQueued_compute _ _ hc]
    rfl
  · show execVsetli d v g e f s = _
    rw [execVsetli, runQueued_compute _ _ hc]
    rfl

/-! ### SETMODE and SETMODEV -/

/-- The immediate of SETMODE, from its two fields. -/
theorem setmodeImmediate {v : Word} {l : BitVec 4} {m : BitVec 15} (hv : v.toNat = l.toNat * 2 ^ 16 + m.toNat) :
    l.setWidth 64 <<< 16 ||| m.setWidth 64 = v := by
  have hl := l.isLt
  have hm : m.toNat < 2 ^ 16 := Nat.lt_trans m.isLt (by omega)
  apply BitVec.eq_of_toNat_eq
  rw [hv, Nat.mul_comm, Nat.two_pow_add_eq_or_of_lt hm, BitVec.toNat_or, BitVec.toNat_shiftLeft, BitVec.toNat_setWidth,
    BitVec.toNat_setWidth, Nat.mod_eq_of_lt (by omega), Nat.mod_eq_of_lt (by omega : m.toNat < 2 ^ 64), Nat.shiftLeft_eq,
    Nat.mod_eq_of_lt (by omega), Nat.mul_comm]

/-- Either form writes MODE and answers its old value. -/
theorem exec_setsMode {s : State} {d : SReg} {v : Word} {i : Instr} {h : Hart} (hc : s.hart.isCtl = false)
    (hi : (∃ l m, i = Instr.setmode d l m ∧ v.toNat = l.toNat * 2 ^ 16 + m.toNat) ∨
      ∃ a, i = Instr.setmodev d a ∧ v = s.hart.readS a)
    (hh : s.hart.writeMode v = h) :
    exec i s = .next (State.past (State.setS { s with hart := h } d s.hart.mode)) := by
  subst hh
  obtain ⟨l, m, rfl, hv⟩ | ⟨a, rfl, rfl⟩ := hi
  · show execSetmode d l m s = _
    rw [execSetmode, runQueued_compute _ _ hc, setmodeImmediate hv]
    rfl
  · show execSetmodev d a s = _
    rw [execSetmodev, runQueued_compute _ _ hc]
    rfl

/-- PROT after a write to MODE (01 R35). -/
theorem Hart.modeTaken_prot (h : Hart) (v : Word) :
    (h.modeTaken v).getLsbD 12 = (v.getLsbD 12 || h.prot && h.ctxcfg.getLsbD 0) := by
  rw [Hart.modeTaken_bit h v (by omega)]
  simp

/-- Where PROTREQ keeps nothing, MODE takes the assigned bits alone. -/
theorem Hart.modeTaken_free {h : Hart} (v : Word) (free : ¬ (h.prot = true ∧ h.ctxcfg.getLsbD 0 = true)) :
    h.modeTaken v = v &&& modeMask := if_neg free

/-- A value that names PROT as it stands is taken as it is. -/
theorem Hart.modeTaken_same {h : Hart} {v : Word} (same : v.getLsbD 12 = h.prot) : h.modeTaken v = v &&& modeMask := by
  apply BitVec.eq_of_getLsbD_eq
  intro k hk
  rw [Hart.modeTaken_bit h v hk, BitVec.getLsbD_and, modeMask_bit hk, Bool.and_comm (v.getLsbD k)]
  by_cases e : k = 12
  · subst e
    rw [same]
    cases h.prot <;> simp
  · rw [beq_false_of_ne e, Bool.false_and, Bool.false_and, Bool.or_false]

/-- Settles O17: what a request configures, and the cases of a write to MODE. -/
theorem configurationAndMode : Obligations.ConfigurationAndMode := by
  refine ⟨fun s d g e f avl i hc hi => ⟨fun ok => ?supported, fun bad => ?unsupported⟩,
    fun s d v i hc hi => ⟨fun same => ?kept, fun set hp => ?sets, fun clear hp free => ?clears, fun clear hp req => ?required⟩⟩
  case supported =>
    have hg : g.toNat < 7 := by
      unfold configOk at ok
      simp only [Bool.and_eq_true, decide_eq_true_eq] at ok
      exact ok.1.2
    have fits := s.hart.vlmaxOf_lt f.toNat hg
    have hm : (BitVec.ofNat 15 (s.hart.vlmaxOf g.toNat f.toNat)).toNat = s.hart.vlmaxOf g.toNat f.toNat := by
      rw [BitVec.toNat_ofNat, Nat.mod_eq_of_lt fits]
    refine ⟨_, _, hm, ?_, exec_configures hc hi (Hart.configure_supported ok avl)⟩
    rw [hm, BitVec.toNat_ofNat, Nat.mod_eq_of_lt (Nat.lt_of_le_of_lt (Nat.min_le_right _ _) fits)]
  case unsupported => exact exec_configures hc hi (Hart.configure_unsupported bad avl)
  case kept =>
    have taken := Hart.modeTaken_same same
    have prot : (s.hart.modeTaken v).getLsbD 12 = s.hart.prot := by
      rw [Hart.modeTaken_prot, same]
      cases s.hart.prot <;> rfl
    exact exec_setsMode hc hi ((Hart.writeMode_kept prot).trans (by rw [taken]; rfl))
  case sets =>
    have taken : s.hart.modeTaken v = v &&& modeMask := Hart.modeTaken_free v (by simp [hp])
    have prot : (s.hart.modeTaken v).getLsbD 12 = true := by rw [Hart.modeTaken_prot, set, Bool.true_or]
    refine ⟨_, exec_setsMode hc hi ((Hart.writeMode_mirrors prot hp).trans (by rw [taken]; rfl)), fun n hn k hk => ?_⟩
    rw [getD_map_mirrored _ hn, mirrored_bit _ hk]
    rfl
  case clears =>
    have taken : s.hart.modeTaken v = v &&& modeMask := Hart.modeTaken_free v (by simp only [free]; simp)
    have prot : (s.hart.modeTaken v).getLsbD 12 = false := by rw [Hart.modeTaken_prot, clear, free, Bool.and_false]; rfl
    exact exec_setsMode hc hi ((Hart.writeMode_clears prot hp).trans (by rw [taken]; rfl))
  case required =>
    have taken : s.hart.modeTaken v = v &&& modeMask ||| 0x1000 := if_pos ⟨hp, req⟩
    have prot : (s.hart.modeTaken v).getLsbD 12 = s.hart.prot := by rw [Hart.modeTaken_prot, clear, hp, req]; rfl
    exact exec_setsMode hc hi ((Hart.writeMode_kept prot).trans (by rw [taken]; rfl))

end Sys2Proof.Machine
end

section
/-! PROOFS. Machine-check banks and contexts that fail (15 R406, R407; 01 R56): what a report makes of its bank, and what the failure
of a context leaves. -/

namespace Sys2Proof

namespace Table

theorem find?_map {α β : Type} (f : α → β) (t : List (Nat × α)) (k : Nat) :
    find? (t.map fun c => (c.1, f c.2)) k = (find? t k).map f := by
  induction t with
  | nil => rfl
  | cons c t ih =>
    simp only [List.map_cons, find?]
    split
    · rfl
    · exact ih

end Table

namespace Machine

/-! ### Reports -/

/-- The record that a report makes, from what it says and the clock. -/
def McInfo.made (i : McInfo) (time : Word) : McRec :=
  ⟨true, codeClass i.code, i.inj, BitVec.ofNat 8 i.unit, BitVec.ofNat 3 i.adrk, BitVec.ofNat 8 i.code,
    BitVec.ofNat 12 i.master, BitVec.ofNat 6 i.ctx, 1, i.addr, i.synd, time⟩

theorem State.report_bank (s : State) (b : Nat) (i : McInfo) :
    (s.report b i).1.bank b = ((s.bank b).record (i.made s.tick.clock)).1 := State.bank_setBank_same _ _ _

/-- The counters alone change where an error is counted. -/
theorem Bank.count_slot (k : Bank) (c : BitVec 2) : (k.count c).slot = k.slot := by
  unfold Bank.count
  split
  · rfl
  · split <;> rfl

/-- An error that is not CORRECTED takes the free slot. -/
theorem Bank.record_made {k : Bank} {r : McRec} {j : Nat} (hc : r.cls ≠ 0) (hs : k.slot = some j) :
    Table.find? (k.record r).1.recs j = some r := by
  have unmerged : (k.count r.cls).mergeSlot r = none := if_neg hc
  unfold Bank.record
  dsimp only
  rw [unmerged, Bank.count_slot, hs]
  exact Table.find?_set_same _ _ _

/-- An error of class CONTAINED counts as one. -/
theorem State.report_ncont (s : State) (b : Nat) {i : McInfo} (hc : codeClass i.code = 1) :
    ((s.report b i).1.bank b).ncont = (s.bank b).ncont + 1 := by
  have counts := Bank.record_counts (s.bank b) (i.made s.tick.clock)
  simp only [Prod.mk.injEq] at counts
  obtain ⟨-, ncont, -, -⟩ := counts
  rw [State.report_bank, ncont, show (i.made s.tick.clock).cls = 1 from hc]
  rfl

/-- An error of class FATAL counts as one. -/
theorem State.report_nfatal (s : State) (b : Nat) {i : McInfo} (hc : codeClass i.code = 2) :
    ((s.report b i).1.bank b).nfatal = (s.bank b).nfatal + 1 := by
  have counts := Bank.record_counts (s.bank b) (i.made s.tick.clock)
  simp only [Prod.mk.injEq] at counts
  obtain ⟨-, -, nfatal, -⟩ := counts
  rw [State.report_bank, nfatal, show (i.made s.tick.clock).cls = 2 from hc]
  rfl

/-- An error of class FATAL is recorded where a slot is free. -/
theorem State.report_fatal (s : State) (b : Nat) {i : McInfo} {j : Nat} (hc : codeClass i.code = 2) (hs : (s.bank b).slot = some j) :
    Table.find? ((s.report b i).1.bank b).recs j = some (i.made s.tick.clock) := by
  rw [State.report_bank]
  exact Bank.record_made (by rw [show (i.made s.tick.clock).cls = 2 from hc]; decide) hs

/-! ### A context that fails -/

theorem State.failContext_none {s : State} {c : Nat} (f : FaultRec) (h : Table.find? s.cx.ctxs c = none) : s.failContext c f = s := by
  unfold State.failContext
  rw [h]

theorem State.failContext_rel (s : State) (c : Nat) (f : FaultRec) : (s.failContext c f).rel = s.rel := by
  unfold State.failContext
  split <;> rfl

/-- A hart of a core that the failing context does not hold stays. -/
theorem State.failContext_parked {s : State} {c n : Nat} {h : Hart} (f : FaultRec) (hn : Table.find? s.parked n = some h)
    (other : ∀ x, Table.find? s.cx.ctxs c = some x → h.core ∉ x.live.cores) :
    Table.find? (s.failContext c f).parked n = some h := by
  cases hx : Table.find? s.cx.ctxs c with
  | none => rw [State.failContext_none f hx, hn]
  | some x =>
    unfold State.failContext
    rw [hx]
    dsimp only
    rw [Table.find?_map fun g : Hart => if (!g.isCtl && decide (g.core ∈ x.live.cores)) = true then g.drop else g, hn,
      Option.map_some, if_neg (by simp [other x hx])]

/-- A halted hart stays as it is (01 R20). -/
theorem State.failContext_hart {s : State} (c : Nat) (f : FaultRec) (halted : s.hart.st = .halted) :
    (s.failContext c f).hart = s.hart := by
  have stays : s.hart.drop = s.hart := if_pos halted
  unfold State.failContext
  split
  · rfl
  · dsimp only
    rw [stays, ite_self]

/-- The failing context has state 4. -/
theorem State.failContext_same {s : State} {c : Nat} {x : Ctx} (f : FaultRec) (hx : Table.find? s.cx.ctxs c = some x) :
    Table.find? (s.failContext c f).cx.ctxs c = some { x with st := 4, owed := [] } := by
  unfold State.failContext
  rw [hx]
  exact Table.find?_set_same _ _ _

/-- Every other context stays. -/
theorem State.failContext_ne {s : State} {c k : Nat} (f : FaultRec) (hk : k ≠ c) :
    Table.find? (s.failContext c f).cx.ctxs k = Table.find? s.cx.ctxs k := by
  unfold State.failContext
  split
  · rfl
  · exact Table.find?_set_ne _ _ hk

end Machine

end Sys2Proof
end

section
/-! PROOFS. Trap entry and the double trap (01 R50, R54 to R56; 14 R395). -/

namespace Sys2Proof.Machine

/-! ### XCAUSE -/

theorem Cause.code_lt (c : Cause) : c.code < 256 := by
  cases c with
  | page store va => cases store <;> exact of_decide_eq_true rfl
  | _ => exact of_decide_eq_true rfl

/-- The number that two strings of bits make. -/
theorem toNat_append_eq_add {m n : Nat} (x : BitVec m) (y : BitVec n) : (x ++ y).toNat = x.toNat * 2 ^ n + y.toNat := by
  rw [BitVec.toNat_append, Nat.shiftLeft_eq, Nat.mul_comm, Nat.two_pow_add_eq_or_of_lt y.isLt]

/-- XCAUSE: CODE, and above it VEC, MAT, REP and FETCH (01 R50). -/
theorem trapCause_toNat (i : TrapInfo) (c : Cause) : (trapCause i c).toNat =
    c.code + i.vec.toNat * 2 ^ 8 + i.mat.toNat * 2 ^ 9 + i.rep.toNat * 2 ^ 10 + i.fetch.toNat * 2 ^ 11 := by
  unfold trapCause
  simp only [toNat_append_eq_add, BitVec.toNat_ofBool, BitVec.toNat_ofNat, Nat.mod_eq_of_lt c.code_lt]
  omega

/-- XSTATUS after trap entry: XT, the mode before it, and supervisor mode (01 R49, R55). -/
theorem entered_xstatus (b : Bool) :
    (BitVec.ofBool true ++ BitVec.ofBool b ++ BitVec.ofBool true).getLsbD 2 = true ∧
    (BitVec.ofBool true ++ BitVec.ofBool b ++ BitVec.ofBool true).getLsbD 1 = b ∧
    (BitVec.ofBool true ++ BitVec.ofBool b ++ BitVec.ofBool true).getLsbD 0 = true := by
  cases b <;> exact ⟨rfl, rfl, rfl⟩

/-! ### The double trap -/

/-- The state in which the current hart has halted. -/
def State.halts (s : State) : State := { s with hart := { s.hart with st := .halted } }

/-- A compute hart that traps twice: the error in its core's bank, and the failure of its context. -/
theorem State.doubleTrap_compute {s : State} (i : TrapInfo) (c : Cause) (h : s.hart.isCtl = false) :
    ∃ (info : McInfo) (f : FaultRec), info.code = 0x06 ∧
      s.doubleTrap i c = (s.halts.report s.hart.core info).1.failContext s.hart.ctxid.toNat f := by
  refine ⟨{ code := 0x06, unit := s.hart.num % 4, master := s.hart.master, ctx := s.hart.ctxid.toNat
            synd := (trapCause i c).setWidth 64 },
    ⟨0, c.code, s.hart.node.toNat, s.hart.die, s.hart.core % 24, s.hart.num % 4, c.xtval i.word s.hart.mode s.hart.vcfg, s.hart.pc, 0⟩,
    rfl, ?_⟩
  unfold State.doubleTrap
  dsimp only
  rw [if_neg (by rw [h]; decide)]
  rfl

/-- A control hart that traps twice: the error in IOD0's bank, and what its loss begins. -/
theorem State.doubleTrap_control {s : State} (i : TrapInfo) (c : Cause) (h : s.hart.isCtl = true) :
    ∃ info : McInfo, info.code = 0x35 ∧ info.unit = s.hart.num - 1152 ∧
      info.synd = BitVec.ofNat 64 (s.hart.num - 1152 + c.code * 256) ∧
      s.doubleTrap i c = (s.halts.report 708 info).1.controlHalted (s.hart.num - 1152) := by
  refine ⟨{ code := 0x35, unit := s.hart.num - 1152, master := s.hart.master
            synd := BitVec.ofNat 64 (s.hart.num - 1152 + c.code * 256) }, rfl, rfl, rfl, ?_⟩
  unfold State.doubleTrap
  dsimp only
  rw [if_pos h]
  rfl

/-- The loss of a control hart, where a standby takes over from the primary and no take-over is under way: it changes the front end
alone, and with the primary the take-over begins (14 R395). -/
theorem State.controlHalted_frame {s : State} {n : Nat} (left : n = s.fe.primary → s.fe.standby ≠ 3)
    (calm : n = s.fe.primary ∨ n = s.fe.standby → s.fe.takeover = false) :
    ∃ fe : FrontEnd, s.controlHalted n = { s with fe := fe } ∧ (n = s.fe.primary → fe.takeover = true ∧ fe.hold = true) := by
  unfold State.controlHalted
  by_cases primary : n = s.fe.primary
  · rw [if_pos primary, State.beginTakeover, if_neg (by simp [left primary, calm (.inl primary)])]
    exact ⟨_, rfl, fun _ => ⟨rfl, rfl⟩⟩
  · rw [if_neg primary]
    by_cases standby : n = s.fe.standby
    · rw [if_pos standby, if_neg (by simp [calm (.inr standby)])]
      exact ⟨_, rfl, fun e => absurd e primary⟩
    · rw [if_neg standby]
      split
      · exact ⟨_, rfl, fun e => absurd e primary⟩
      · exact ⟨s.fe, rfl, fun e => absurd e primary⟩

/-- Settles O15: the entry, then the double trap of a compute hart and of a control hart. -/
theorem trapEntry : Obligations.TrapEntry := by
  refine ⟨fun s i c hx => ?entry, fun s i c hx hc => ?compute, fun s i c hx hc left calm => ?control⟩
  case entry =>
    obtain ⟨xt, ppriv, priv⟩ := entered_xstatus s.hart.inX
    exact ⟨_, s.takeTrap_clear i c hx, rfl, rfl, rfl, trapCause_toNat i c, priv, xt, ppriv, rfl, rfl, rfl, rfl, rfl⟩
  case compute =>
    obtain ⟨info, f, code, double⟩ := State.doubleTrap_compute i c hc
    have hart := State.failContext_hart (s := (s.halts.report s.hart.core info).1) s.hart.ctxid.toNat f rfl
    refine ⟨_, rfl, ?_⟩
    rw [State.takeTrap_set _ _ _ hx, double, hart, State.failContext_mem]
    refine ⟨rfl, rfl, rfl, rfl, rfl, rfl, ?_, fun x hs => ⟨_, State.failContext_same f hs, rfl⟩,
      fun k x hk hs => (State.failContext_ne f hk).trans hs, fun n h hn other => State.failContext_parked f hn other⟩
    unfold State.bank
    rw [State.failContext_rel]
    exact State.report_ncont _ _ (by rw [code]; rfl)
  case control =>
    have num : 1152 ≤ s.hart.num := of_decide_eq_true hc
    obtain ⟨info, code, unit, synd, double⟩ := State.doubleTrap_control i c hc
    have fatal : codeClass info.code = 2 := by rw [code]; rfl
    have isPrimary : s.hart.num - 1152 = s.fe.primary ↔ s.hart.num = 1152 + s.fe.primary := by omega
    have isStandby : s.hart.num - 1152 = s.fe.standby ↔ s.hart.num = 1152 + s.fe.standby := by omega
    obtain ⟨fe, halted, began⟩ := State.controlHalted_frame (s := (s.halts.report 708 info).1) (n := s.hart.num - 1152)
      (fun e => left (isPrimary.1 e)) (fun e => calm (e.imp isPrimary.1 isStandby.1))
    refine ⟨_, rfl, ?_⟩
    rw [State.takeTrap_set _ _ _ hx, double, halted]
    refine ⟨rfl, rfl, rfl, rfl, State.report_nfatal _ _ fatal,
      fun k hs => ⟨_, State.report_fatal _ _ fatal hs, rfl, fatal, ?_, ?_, synd⟩, fun e => began (isPrimary.2 e)⟩
    · exact congrArg (BitVec.ofNat 8) code
    · exact congrArg (BitVec.ofNat 8) unit

end Sys2Proof.Machine
end

section
/-! PROOFS. REP (01 R44 to R46): its fields, what the words that it repeats mean, and its repetitions. -/

namespace Sys2Proof.Laws.RoundTrip

/-- The decoder reads every instruction's word as the instruction, constructor by constructor. -/
theorem decode_encode (i : Instr) : Statement i :=
  Instr.casesOn i
    add sub mul mulh mulhu div divu rem remu and or xor andn shl shr sar rotr min max minu maxu seq sne slt sltu sel clz ctz popc
    brev sextB sextH sextW zextB zextH zextW shadd addi andi ori xori slti sltiu shli shri sari ldb ldbu ldh ldhu ldw ldwu ldd stb
    sth stw std beq bne blt bge bltu bgeu bpany bpall bpnone fadd fsub fmul fma fnma fdiv fsqrt fmin fmax feq flt fle fcvtFf
    fcvtFs fcvtFu fcvtSf fcvtUf fclass ldacq strel fence amoadd amoand amoor amoxor amomin amomax amominu amomaxu amoswap amocas
    amofadd amofmin amofmax csrr csrw csrx trap brk waitw vadd vsub vrsub vmul vmulh vmulhu vmadd vdiv vdivu vrem vmin vmax vminu
    vmaxu vand vor vxor vshl vshr vsar vsadd vsaddu vssub vssubu vabs vclz vpopc vcmp vsel vmv vid vext vins vwiden vnshr vfadd
    vfsub vfmul vfma vfnma vfms vfdiv vfsqrt vfmin vfmax vfsgn vfrcp vfrsq vfexp2 vflog2 vfcvt vfclass vfcmp vmulm vfmam vredsum
    vredmin vredmax vredminu vredmaxu vredand vredor vredxor vfredsum vfredmin vfredmax vslideup vslidedn vperm vcompress vexpand
    vscan vtopk pand por pxor pandn pcnt pfirst psetn pmovPp pmovPv pmovVp vquant vdeq vscale vld vlds vldg vldx vldff vst vsts
    vstg vstx vstxa vstxc pld pst sbind sunbind spos mzero mma mmam mdrain mpert tldef tlexp tlwait tlrel cpy cpyp cpyg cpys mshq
    mshgl mshref mshcrs mshren mshcut mshmig mshwait clrgen binapp binplay binwait tagset tagtest rget rput ratom cred cbcast
    vsetl vsetli setmode setmodev ldhi addpc jal jalr rep eret yield vsync tend rflush microOperationIssue vectorCommit
    heldInstructionRetire hartWake waitwRecheck blockDispatch commandClaimRegistration copyCommandRun tileWatchdogExpiry
    topologyCommandRun colouringCommandRun binAppendWrite binningCommandRun hodTileTransfer remoteRequestAtPeer peerAccessArrival
    collectiveComplete collectiveTimeout kick take slotTake kernelNodeLaunch launchPacket copyNode conditionalNode switchNode
    loopNode loopBodyEnd eventWaitNode eventSignalNode selfTestNode endNode nodeCompletion completionAcknowledge replayEnd
    heartbeatTimeout controlHartMemoryError takeoverTimeout ctxkick inval translationInvalidationComplete preempt
    preemptAcknowledge preemptTimeout resume inboundPostedWrite inboundGo inboundAcknowledgement hostReadRequest releaseRecord
    retireChannel releaseReserve setPatrol setSelftest setRelayshare readCoverage setDeviceNumber writeRoute spdmRequest
    firmwareUpdate svnAdvance injectCorrectable injectUncorrectable injectPoison injectFailChannel channelFailure relayGranuleMove
    spareRebuild patrolPeriodStart patrolRead alertBackoff retentionEntry retentionExit housekeeperSelfTest selfTestEnd
    selfTestLimit selfTestAbandon powerMeasurement clockRaise thermalLimit idleEntry standbyRequest powerLoss coldReset warmReset
    beydinPortDown pciePortDown registerWrite wordNotAnInstruction instructionFetchFault streamReadAhead peerReply
    controlHartReload standbyExit

end Sys2Proof.Laws.RoundTrip

namespace Sys2Proof.Machine

/-! ### What the words of majors 0x10 to 0x2B mean -/

/-- An instruction that the decoder reads from such a word ends as the effect that REP repeats. -/
theorem exec_decodeMost {n : Nat} {i : Instr} (lo : 0x10 ≤ n / 67108864 % 64) (hi : n / 67108864 % 64 ≤ 0x2B)
    (h : decodeMost n = .instr i) (s : State) : exec i s = runQueued (wordOf i) (vecEff i) s := by
  unfold decodeMost decode10 decode11 decode12 decode13 decode14 decode15 decode16 decode17 decode18 decode19 decode20 decode21 decode22
    decode23 decode24 decode25 decode26 decode28 decode29 decode2A decode2B ok at h
  split at h
  any_goals omega
  all_goals repeat' split at h
  all_goals cases h
  all_goals rfl

theorem decodeNat_eq_decodeMost {n : Nat} (lo : 0x10 ≤ n / 67108864 % 64) (hi : n / 67108864 % 64 ≤ 0x2B) :
    decodeNat n = decodeMost n := by
  unfold decodeNat
  split
  case h_6 => rfl
  all_goals omega

theorem majorOf_eq (w : IWord) : majorOf w = w.toNat / 67108864 % 64 := by
  have := w.isLt
  unfold majorOf
  omega

/-- The word of an instruction of these majors decodes to it without the five majors apart. -/
theorem decodeMost_encode {i : Instr} {w : IWord} (he : encode i = some w) (lo : 0x10 ≤ majorOf w) (hi : majorOf w ≤ 0x2B) :
    decodeMost w.toNat = .instr i := by
  rw [majorOf_eq] at lo hi
  rw [← decodeNat_eq_decodeMost lo hi]
  exact Laws.RoundTrip.decode_encode i w he

/-- An instruction of these majors does where it stands alone what REP repeats (01 R44). -/
theorem exec_eq_wordEff {i : Instr} {w : IWord} {s : State} (he : encode i = some w) (lo : 0x10 ≤ majorOf w) (hi : majorOf w ≤ 0x2B)
    (hc : s.hart.isCtl = false) : exec i s = .next (State.finish w (wordEff w s)) := by
  have decoded := decodeMost_encode he lo hi
  have word : wordOf i = w := by rw [wordOf, he]; rfl
  rw [exec_decodeMost (majorOf_eq w ▸ lo) (majorOf_eq w ▸ hi) decoded, runQueued_compute _ _ hc, word, wordEff, decoded]

/-! ### REP and its repetitions -/

theorem repCount_repPrefix (count : BitVec 6) (sel : BitVec 3) (step : BitVec 2) :
    repCount (repPrefix count sel step) = count.toNat + 1 := by
  have hcount := count.isLt
  have hsel := sel.isLt
  have hstep := step.isLt
  rw [repCount, repPrefix, Laws.RoundTrip.jFmt_toNat _ _ (by omega), bitsOf]
  omega

/-- REP traps on a control hart (14 R394). -/
theorem State.runRep_control {p : IWord} {s : State} (hc : s.hart.isCtl = true) :
    s.runRep p = s.takeTrap (wordInfo true p) .illegal := if_pos hc

/-- REP with the word after it on a compute hart: the checks, and the repetitions from REPIDX on. -/
theorem State.runRep_word {p x : IWord} {s t : State} (hc : s.hart.isCtl = false) (hf : s.fetch (s.hart.pc + 4) = .word x t) :
    s.runRep p = if repOk p x then State.repeats p x (repCount p - t.hart.repidx.toNat) t.hart.repidx.toNat t
      else t.takeTrap { word := repVal p x, vec := true } .illegal := by
  unfold State.runRep
  rw [if_neg (by rw [hc]; decide), hf]

theorem State.repeats_done {p x : IWord} {n j : Nat} {s u : State} (h : wordEff (repWord p x j) s = .done u) :
    State.repeats p x (n + 1) j s = State.repeats p x n (j + 1) (u.retire 1) := by
  rw [State.repeats]
  simp only [h]

theorem State.repeats_trap {p x : IWord} {n j : Nat} {c : Cause} {s u : State} (h : wordEff (repWord p x j) s = .trap c u) :
    State.repeats p x (n + 1) j s = u.trapInRep p (repWord p x j) j c := by
  rw [State.repeats]
  simp only [h]

/-- Repetitions that are done leave the rest of them (01 R44). -/
theorem State.repeats_of_repetitionsDone {p x : IWord} {f : Nat → State} (m : Nat) {j n : Nat}
    (done : RepetitionsDone p x j (j + m) f) :
    State.repeats p x (m + n) j (f j) = State.repeats p x n (j + m) (f (j + m)) := by
  induction m generalizing j with
  | zero => rw [Nat.zero_add]; rfl
  | succ m ih =>
    obtain ⟨u, hu, next⟩ := done j (Nat.le_refl j) (by omega)
    have rest : RepetitionsDone p x (j + 1) (j + 1 + m) f := fun k lo hi => done k (by omega) (by omega)
    rw [Nat.add_right_comm, State.repeats_done hu, ← next, ih rest, Nat.add_right_comm, Nat.add_assoc]

/-- Settles O42: the checks of REP, its repetitions one by one, and the instructions that it may repeat. -/
theorem repeatPrefix : Obligations.RepeatPrefix := by
  refine ⟨fun s t count sel step x => ⟨fun hc => ?control, fun hc hf => ⟨fun bad => ?refused, fun ok f hfirst => ?repeats⟩⟩,
    fun i w s he lo hi hc => exec_eq_wordEff he lo hi hc⟩
  case control => exact congrArg _ (State.runRep_control hc)
  case refused => exact congrArg _ ((State.runRep_word hc hf).trans (if_neg (by rw [bad]; decide)))
  case repeats =>
    have run : exec (.rep count sel step) s = .next (State.repeats (repPrefix count sel step) x
        (count.toNat + 1 - t.hart.repidx.toNat) t.hart.repidx.toNat (f t.hart.repidx.toNat)) := by
      rw [hfirst, ← repCount_repPrefix count sel step]
      exact congrArg _ ((State.runRep_word hc hf).trans (if_pos ok))
    refine ⟨fun within done => ?_, fun j c u reached last done trap => ?_⟩
    · obtain ⟨m, hm⟩ := Nat.exists_eq_add_of_le within
      rw [hm] at done ⊢
      rw [run, hm, Nat.add_sub_cancel_left]
      exact congrArg _ (State.repeats_of_repetitionsDone (n := 0) m done)
    · obtain ⟨m, rfl⟩ := Nat.exists_eq_add_of_le reached
      rw [run, show count.toNat + 1 - t.hart.repidx.toNat = m + (count.toNat - t.hart.repidx.toNat - m + 1) by omega,
        State.repeats_of_repetitionsDone m done, State.repeats_trap trap]

end Sys2Proof.Machine
end

section
/-! PROOFS. The turns of a step (01 R15, R20; 05 R198; 16 R431; log 2): what the party that takes a step does. -/

namespace Sys2Proof.Machine

/-! ### A hart's own turn -/

theorem State.ownTurn_running {s : State} (hp : s.powered = true) (hr : s.hart.st = .running) : s.ownTurn = s.runHart :=
  if_pos (by simp [State.canRun, hp, hr])

/-- A hart that is IDLE, STOPPED or HALTED executes nothing (01 R20). -/
theorem State.ownTurn_still {s : State} (hs : s.hart.st = .idle ∨ s.hart.st = .stopped ∨ s.hart.st = .halted) :
    s.ownTurn = .next s :=
  if_neg (by obtain h | h | h := hs <;> simp [State.canRun, h])

/-- A running hart is the hart that its turn begins with. -/
theorem State.setRunning_running {s : State} (hr : s.hart.st = .running) : { s with hart := { s.hart with st := .running } } = s := by
  rw [← hr]

theorem State.runHart_word {s t : State} {w : IWord} (hr : s.hart.st = .running) (hf : s.fetch s.hart.pc = .word w t) :
    s.runHart = t.runWord w := by
  unfold State.runHart
  rw [State.setRunning_running hr]
  simp only [hf]

theorem State.runHart_fault {s : State} {denied : Bool} {va : Word} (hr : s.hart.st = .running)
    (hf : s.fetch s.hart.pc = .fault denied va) : s.runHart = exec (.instructionFetchFault denied va) s := by
  unfold State.runHart
  rw [State.setRunning_running hr]
  simp only [hf]
  rfl

theorem State.runWord_instr {t : State} {w : IWord} {i : Instr} (hd : decode w = .instr i) : t.runWord w = exec i t := by
  unfold State.runWord
  rw [hd]
  rfl

theorem State.runWord_reject {t : State} {w : IWord} {r : DecodeError} (hd : decode w = .reject r) :
    t.runWord w = exec (.wordNotAnInstruction w) t := by
  unfold State.runWord
  rw [hd]
  rfl

/-- A hart that has not given its turn away runs in it. -/
theorem step_runHart {s : State} (ha : s.agenda = []) (hp : s.powered = true) (hr : s.hart.st = .running) (hy : s.hart.yielded = false) :
    step s = s.runHart := by
  rw [step_running ha hr, State.hartTurn_own hy, State.ownTurn_running hp hr]

theorem step_still {s : State} (ha : s.agenda = []) (hy : s.hart.yielded = false)
    (hs : s.hart.st = .idle ∨ s.hart.st = .stopped ∨ s.hart.st = .halted) : step s = .next s := by
  have free : step s = s.hartTurn := by
    unfold step State.freeTurn
    rw [ha]
    exact if_neg (by obtain h | h | h := hs <;> simp [h])
  rw [free, State.hartTurn_own hy, State.ownTurn_still hs]

/-- The turn that a hart has given away goes to the next running hart of its core (05 R198; log 68). -/
theorem State.hartTurn_yielded_some {s t : State} {n : Nat} (hy : s.hart.yielded = true)
    (ht : t = { s with hart := { s.hart with yielded := false } }) (hn : t.nextRunning = some n) :
    s.hartTurn = (t.switchTo n).ownTurn := by
  subst ht
  unfold State.hartTurn State.givenTurn
  simp only [hy, if_true, hn]

/-- Where no other hart of the core runs, the hart keeps it. -/
theorem State.hartTurn_yielded_none {s t : State} (hy : s.hart.yielded = true)
    (ht : t = { s with hart := { s.hart with yielded := false } }) (hn : t.nextRunning = none) : s.hartTurn = t.ownTurn := by
  subst ht
  unfold State.hartTurn State.givenTurn
  simp only [hy, if_true, hn]

/-! ### Turns that the agenda names -/

/-- A translation buffer that takes an entry changes nothing else (03 R106). -/
theorem State.buffer_frame (s : State) (e : Env) (va : Word) : s.buffer e va = { s with tlb := (s.buffer e va).tlb } := by
  unfold State.buffer
  dsimp only
  split <;> rfl

/-- A step of the device that is no row of a hart's own turn. -/
structure IsDeviceStep (i : Instr) : Prop where
  encode_none : encode i = none
  ne_word : ∀ w, i ≠ .wordNotAnInstruction w
  ne_fault : ∀ denied va, i ≠ .instructionFetchFault denied va

/-- It is made where the module has power, and a cold reset where it has none (16 R431). -/
theorem State.eventTurn_made {i : Instr} {s : State} (hi : IsDeviceStep i)
    (hp : s.pow.st ≠ .off ∨ ∃ strap t cores, i = .coldReset strap t cores) : s.eventTurn i = exec i s := by
  unfold State.eventTurn
  rw [if_neg (by simp [Instr.hasWord, hi.encode_none])]
  split
  · exact absurd rfl (hi.ne_word _)
  · exact absurd rfl (hi.ne_fault _ _)
  · rfl
  · next no_reset =>
    obtain on | ⟨strap, t, cores, e⟩ := hp
    · exact if_neg on
    · exact absurd e (no_reset strap t cores)

/-- Without power any other one changes nothing. -/
theorem State.eventTurn_off {i : Instr} {s : State} (hi : IsDeviceStep i) (hp : s.pow.st = .off)
    (hr : ∀ strap t cores, i ≠ .coldReset strap t cores) : s.eventTurn i = .next s := by
  unfold State.eventTurn
  rw [if_neg (by simp [Instr.hasWord, hi.encode_none])]
  split
  · rfl
  · rfl
  · exact absurd rfl (hr _ _ _)
  · exact if_pos hp

/-- Settles O57, party by party. -/
theorem stepRunsDecodedInstruction : Obligations.StepRunsDecodedInstruction := by
  refine ⟨fun s t w i ha hp hr hy hf hd => ?_, fun s t w r ha hp hr hy hf hd => ?_, fun s denied va ha hp hr hy hf => ?_,
    fun s ha hy hs => step_still ha hy hs, fun s t ha hr hy ht => ⟨fun n hn => ?_, fun hn => ?_⟩, fun s n va ts ha => ?_,
    fun s i ts ha he hw hf => ⟨fun hp => ?_, fun hp hr => ?_⟩, fun s n ts ha hn => ?_⟩
  · rw [step_runHart ha hp hr hy, State.runHart_word hr hf, State.runWord_instr hd]
  · rw [step_runHart ha hp hr hy, State.runHart_word hr hf, State.runWord_reject hd]
  · rw [step_runHart ha hp hr hy, State.runHart_fault hr hf]
  · rw [step_running ha hr, State.hartTurn_yielded_some hy ht hn]
  · rw [step_running ha hr, State.hartTurn_yielded_none hy ht hn]
  · exact ⟨_, step_agenda ha, State.buffer_frame _ _ _⟩
  · rw [step_agenda ha]
    exact State.eventTurn_made ⟨he, hw, hf⟩ hp
  · rw [step_agenda ha]
    exact State.eventTurn_off ⟨he, hw, hf⟩ hp hr
  · rw [step_agenda ha]
    exact if_neg (by omega)

end Sys2Proof.Machine
end

section
/-! PROOFS. The state after reset (01 R20, R27, R48; 13 R361 to R391; 15 R406 to R422; 16 R431, R432). -/

namespace Sys2Proof.Machine

/-- Every hart is as its own reset leaves it. -/
theorem State.reset_hartAt (n : Nat) : State.reset.hartAt n = Hart.reset n := by
  unfold State.hartAt
  split
  case isTrue current => rw [current]; rfl
  case isFalse => rfl

theorem Hart.reset_tag (n : Nat) {r : Nat} (hr : r < 32) : (Hart.reset n).tag r = 0 := by
  simp [Hart.tag, Hart.reset, Vector.getD, hr]

theorem Hart.reset_bound (n : Nat) {r : Nat} (hr : r < 4) : (Hart.reset n).bound r = false := by
  simp [Hart.bound, Hart.stream, Hart.reset, Vector.getD, hr, Stream.unbound]

/-- Settles O58: each field of a hart's reset, and the collections of the device empty. -/
theorem resetValues : Obligations.ResetValues := by
  refine ⟨fun n hn => ?_, rfl, rfl, rfl, fun c => ⟨rfl, rfl⟩, rfl, rfl, fun d => rfl, fun b => ⟨rfl, rfl, rfl⟩,
    fun d => ⟨rfl, rfl, rfl⟩, rfl, rfl, rfl⟩
  rw [State.reset_hartAt]
  exact ⟨if_pos hn, rfl, rfl, rfl, rfl, rfl, rfl, rfl, rfl, rfl, fun r hr => Hart.reset_tag n hr, if_pos hn, rfl, rfl, rfl,
    fun r hr => Hart.reset_bound n hr⟩

end Sys2Proof.Machine
end

section
/-! PROOFS. Rounding to an integer (02 R74), in bits and signed magnitudes. -/

namespace Sys2Proof.Machine

/-! ### Magnitudes and their number of bits -/

theorem bitLen_le_iff {m b : Nat} : bitLen m ≤ b ↔ m < 2 ^ b := by
  unfold bitLen
  split
  case isTrue zero => exact iff_of_true (Nat.zero_le b) (zero ▸ Nat.two_pow_pos b)
  case isFalse pos => exact Nat.log2_lt pos

theorem lt_bitLen_iff {m b : Nat} : b < bitLen m ↔ 2 ^ b ≤ m := by
  rw [← Nat.not_le, bitLen_le_iff, Nat.not_lt]

theorem lt_two_pow_bitLen (m : Nat) : m < 2 ^ bitLen m := bitLen_le_iff.1 (Nat.le_refl _)

theorem natAbs_signed (s : Bool) (m : Nat) : (signed s m).natAbs = m := by
  cases s <;> simp [signed]

theorem signed_eq_zero {s : Bool} {m : Nat} : signed s m = 0 ↔ m = 0 := by
  rw [← Int.natAbs_eq_zero, natAbs_signed]

theorem signed_mul_two_pow (s : Bool) (m k : Nat) : signed s m * 2 ^ k = signed s (m * 2 ^ k) := by
  have cast : ((m * 2 ^ k : Nat) : Int) = m * 2 ^ k := by rw [Int.natCast_mul, Int.natCast_pow]; rfl
  cases s
  · exact cast.symm
  · exact (Int.neg_mul _ _).trans (congrArg _ cast.symm)

theorem signed_add_signed (s : Bool) (m n : Nat) : signed s m + signed s n = signed s (m + n) := by
  cases s
  · exact (Int.natCast_add m n).symm
  · change -(m : Int) + -(n : Int) = -((m + n : Nat) : Int)
    omega

theorem signed_mod_two (s : Bool) (m : Nat) : signed s m % 2 = 0 ↔ m % 2 = 0 := by
  cases s <;> simp only [signed] <;> omega

theorem signed_lt_zero_natAbs (v : Int) : signed (v < 0) v.natAbs = v := by
  unfold signed
  split <;> simp_all only [decide_eq_true_eq] <;> omega

/-! ### Rounding to an integer (02 R74) -/

/-- The result is the quotient, or the next integer where there is a remainder. -/
theorem roundShift_cases (rm : RM) (s : Bool) (m k : Nat) :
    (roundShift rm s m k).1 = m / 2 ^ k ∨ (roundShift rm s m k).1 = m / 2 ^ k + 1 ∧ m % 2 ^ k ≠ 0 := by
  by_cases whole : m % 2 ^ k = 0
  · refine .inl ?_
    cases rm <;> simp [roundShift, whole, (Nat.ne_of_gt (Nat.two_pow_pos k)).symm]
  · have taken (up : Bool) (n : Nat) : (if up then n + 1 else n) = n ∨ (if up then n + 1 else n) = n + 1 := by
      cases up
      · exact .inl rfl
      · exact .inr rfl
    exact (taken _ _).imp id fun up => ⟨up, whole⟩

/-- The inexact flag says that the result is not the value. -/
theorem roundShift_inexact (rm : RM) (s : Bool) (m k : Nat) :
    (roundShift rm s m k).2 = decide ((roundShift rm s m k).1 * 2 ^ k ≠ m) := by
  have flag : (roundShift rm s m k).2 = decide (m % 2 ^ k ≠ 0) := (decide_not (p := m % 2 ^ k = 0)).symm
  rw [flag, decide_eq_decide]
  obtain h | ⟨h, inexact⟩ := roundShift_cases rm s m k
  · rw [h]
    have := Nat.div_add_mod' m (2 ^ k)
    omega
  · refine iff_of_true inexact fun e => inexact ?_
    rw [← e, Nat.mul_mod_left]

/-- The distance of two magnitudes of one sign, with one of the two differences zero. -/
theorem natAbs_signed_sub (s : Bool) (m n : Nat) : (signed s m - signed s n).natAbs = (m - n) + (n - m) := by
  cases s <;> simp [signed] <;> omega

/-- Rounding a negative value down rounds its magnitude up. -/
theorem neg_ediv_two_pow (m k : Nat) :
    -(m : Int) / 2 ^ k = -((if m % 2 ^ k = 0 then m / 2 ^ k else m / 2 ^ k + 1 : Nat) : Int) := by
  have quotient (p : Nat) (pos : 0 < p) : -(m : Int) / p = -((if m % p = 0 then m / p else m / p + 1 : Nat) : Int) := by
    rw [Int.neg_ediv, ← Int.natCast_ediv, Int.sign_eq_one_of_pos (Int.natCast_pos.2 pos)]
    by_cases whole : m % p = 0
    · rw [if_pos (Int.natCast_dvd_natCast.2 (Nat.dvd_of_mod_eq_zero whole)), if_pos whole, Int.sub_zero]
    · rw [if_neg fun divides => whole (Nat.mod_eq_zero_of_dvd (Int.natCast_dvd_natCast.1 divides)), if_neg whole,
        Int.natCast_succ, Int.neg_add]
      rfl
  have cast := quotient (2 ^ k) (Nat.two_pow_pos k)
  rwa [Int.natCast_pow] at cast

/-- To the nearer of the two integers; of a tie, to the even one. -/
theorem roundShift_rne (s : Bool) (m k : Nat) : (roundShift .rne s m k).1 =
    if 2 ^ k < 2 * (m % 2 ^ k) ∨ 2 * (m % 2 ^ k) = 2 ^ k ∧ m / 2 ^ k % 2 = 1 then m / 2 ^ k + 1 else m / 2 ^ k := by
  simp [roundShift]

/-- To the nearer of the two integers; of a tie, to the greater magnitude. -/
theorem roundShift_rmm (s : Bool) (m k : Nat) : (roundShift .rmm s m k).1 =
    if 2 ^ k ≤ 2 * (m % 2 ^ k) then m / 2 ^ k + 1 else m / 2 ^ k := by
  have pos : 0 < 2 ^ k := Nat.two_pow_pos k
  have condition : (m % 2 ^ k ≠ 0 ∧ 2 * (m % 2 ^ k) ≥ 2 ^ k) ↔ 2 ^ k ≤ 2 * (m % 2 ^ k) := by omega
  simp only [roundShift, decide_eq_true_eq, condition]

/-- How far a magnitude lies from its quotient and from the integer after that. -/
theorem dist_quotient (m p : Nat) (pos : 0 < p) : (m - m / p * p) + (m / p * p - m) = m % p ∧
    (m - (m / p + 1) * p) + ((m / p + 1) * p - m) = p - m % p ∧ m < (m / p + 1) * p := by
  have rest := Nat.mod_lt m pos
  have whole := Nat.div_add_mod' m p
  have next : (m / p + 1) * p = m / p * p + p := Nat.succ_mul _ _
  omega

/-- The magnitude that is rounded to, with its sign, is the signed value rounded as 02 R74 says. -/
theorem roundShift_rounded (rm : RM) (s : Bool) (m k : Nat) : Rounded rm (signed s m) k (signed s (roundShift rm s m k).1) := by
  obtain ⟨below, above, beyond⟩ := dist_quotient m (2 ^ k) (Nat.two_pow_pos k)
  cases rm
  case rne =>
    simp only [Rounded, signed_mul_two_pow, natAbs_signed_sub, signed_mod_two, roundShift_rne]
    split
    · omega
    · omega
  case rmm =>
    simp only [Rounded, signed_mul_two_pow, natAbs_signed_sub, natAbs_signed, roundShift_rmm]
    split
    · omega
    · omega
  case rtz =>
    cases s
    · simp [Rounded, roundShift, signed]
    · simp [Rounded, roundShift, signed]
  case rdn =>
    cases s
    · simp [Rounded, roundShift, signed]
    · simp [Rounded, roundShift, signed, neg_ediv_two_pow]
  case rup =>
    cases s
    · simp [Rounded, roundShift, signed, neg_ediv_two_pow]
    · simp [Rounded, roundShift, signed]

/-- A magnitude below b units rounds to b of them at most. -/
theorem roundShift_le {rm : RM} {s : Bool} {m k b : Nat} (h : m < b * 2 ^ k) : (roundShift rm s m k).1 ≤ b := by
  have down := (Nat.div_lt_iff_lt_mul (Nat.two_pow_pos k)).2 h
  obtain e | ⟨e, -⟩ := roundShift_cases rm s m k <;> omega

/-- A magnitude of b units or more rounds to no fewer. -/
theorem le_roundShift {rm : RM} {s : Bool} {m k b : Nat} (h : b * 2 ^ k ≤ m) : b ≤ (roundShift rm s m k).1 := by
  have down := (Nat.le_div_iff_mul_le (Nat.two_pow_pos k)).2 h
  obtain e | ⟨e, -⟩ := roundShift_cases rm s m k <;> omega

end Sys2Proof.Machine
end

section
/-! PROOFS. The codes of the floating formats (02 R66): the value of a sign and a magnitude, and the order of magnitudes. -/

namespace Sys2Proof.Machine

theorem FFmt.two_pow_frac_le_largest (f : FFmt) : 2 ^ f.frac ≤ f.largest := by cases f <;> decide

theorem FFmt.largest_lt (f : FFmt) : f.largest < 2 ^ (f.bits - 1) := by cases f <;> decide

theorem FFmt.infinity_lt {f : FFmt} (h : f.hasInf = true) : f.largest + 1 < 2 ^ (f.bits - 1) := by
  cases f with
  | e4m3 | e2m1 => cases h
  | fp64 | fp32 | fp16 | bf16 | e5m2 => decide

theorem FFmt.two_pow_bits (f : FFmt) : 2 ^ f.bits = 2 ^ (f.bits - 1) + 2 ^ (f.bits - 1) := by cases f <;> rfl

/-- A code is a sign bit and a magnitude. -/
theorem FFmt.exists_magnitude {f : FFmt} {w : Nat} (h : w < 2 ^ f.bits) :
    ∃ s a, a < 2 ^ (f.bits - 1) ∧ w = f.signBit s + a := by
  rw [f.two_pow_bits] at h
  by_cases sign : 2 ^ (f.bits - 1) ≤ w
  · exact ⟨true, w - 2 ^ (f.bits - 1), by omega, by simp [FFmt.signBit, sign]⟩
  · exact ⟨false, w, by omega, by simp [FFmt.signBit]⟩

theorem FFmt.signBit_add_mod (f : FFmt) (s : Bool) {a : Nat} (h : a < 2 ^ (f.bits - 1)) :
    (f.signBit s + a) % 2 ^ (f.bits - 1) = a := by
  cases s
  · simp [FFmt.signBit, Nat.mod_eq_of_lt h]
  · simp [FFmt.signBit, Nat.mod_eq_of_lt h]

theorem FFmt.le_signBit_add (f : FFmt) (s : Bool) {a : Nat} (h : a < 2 ^ (f.bits - 1)) :
    2 ^ (f.bits - 1) ≤ f.signBit s + a ↔ s = true := by
  cases s
  · simp [FFmt.signBit, h]
  · simp [FFmt.signBit]

theorem FFmt.signBit_add_lt (f : FFmt) (s : Bool) {a : Nat} (h : a < 2 ^ (f.bits - 1)) : f.signBit s + a < 2 ^ f.bits := by
  rw [f.two_pow_bits]
  cases s <;> simp only [FFmt.signBit, if_true, Bool.false_eq_true, if_false] <;> omega

/-- What the code of a sign and a magnitude stands for. -/
theorem FFmt.unpack_signBit_add (f : FFmt) (ftz s : Bool) {a : Nat} (h : a < 2 ^ (f.bits - 1)) :
    f.unpack ftz (f.signBit s + a) =
      if f.largest < a then (if f.hasInf = true ∧ a = f.largest + 1 then .inf s else
        .nan (f.hasInf && a % 2 ^ f.frac < 2 ^ (f.frac - 1)))
      else if a < 2 ^ f.frac then .fin s (if ftz && f.small then 0 else a) (if ftz && f.small then 0 else f.qmin)
      else .fin s (a % 2 ^ f.frac + 2 ^ f.frac) (f.qmin + (a / 2 ^ f.frac - 1 : Nat)) := by
  have sign : decide (f.signBit s + a ≥ 2 ^ (f.bits - 1)) = s := by
    rw [Bool.eq_iff_iff, decide_eq_true_eq]
    exact f.le_signBit_add s h
  have subnormal : a / 2 ^ f.frac = 0 ↔ a < 2 ^ f.frac := by simp [Nat.div_eq_zero_iff]
  unfold FFmt.unpack
  simp only [Nat.mod_eq_of_lt (f.signBit_add_lt s h), f.signBit_add_mod s h, sign, subnormal, gt_iff_lt]
  split
  · rfl
  · split
    · next small =>
      rw [Nat.mod_eq_of_lt small]
      split <;> rfl
    · rfl

/-- The magnitude `a` of a finite code in units of the last place of the smallest values. -/
def FFmt.units (f : FFmt) (a : Nat) : Nat := (a - (a / 2 ^ f.frac - 1) * 2 ^ f.frac) * 2 ^ (a / 2 ^ f.frac - 1)

/-- n units of place j, as rounding leaves them and as a format holds them: no more than the significand's bits, and all of them
but at the least place. -/
structure FFmt.Places (f : FFmt) (n j : Nat) : Prop where
  le : n ≤ 2 ^ (f.frac + 1)
  full : j = 0 ∨ 2 ^ f.frac ≤ n

/-- The magnitude that `FFmt.pack` forms stands for what it was formed from; a carry out of the significand goes to the exponent. -/
theorem FFmt.units_pack {f : FFmt} {n j : Nat} (h : f.Places n j) : f.units (j * 2 ^ f.frac + n) = n * 2 ^ j := by
  obtain ⟨le, full⟩ := h
  have pos : 0 < 2 ^ f.frac := Nat.two_pow_pos _
  rw [Nat.pow_succ] at le
  have quotient (d : Nat) (lo : d * 2 ^ f.frac ≤ n) (hi : n < (d + 1) * 2 ^ f.frac) :
      (j * 2 ^ f.frac + n) / 2 ^ f.frac = j + d := by
    rw [Nat.mul_comm, Nat.mul_add_div pos, Nat.div_eq_of_lt_le lo hi]
  unfold FFmt.units
  obtain small | normal | carry : n < 2 ^ f.frac ∨ (2 ^ f.frac ≤ n ∧ n < 2 * 2 ^ f.frac) ∨ n = 2 * 2 ^ f.frac := by omega
  · obtain rfl : j = 0 := full.resolve_right (by omega)
    rw [quotient 0 (by omega) (by omega)]
    simp
  · rw [quotient 1 (by omega) (by omega), Nat.add_sub_cancel, Nat.add_sub_cancel_left]
  · rw [quotient 2 (by omega) (by omega), carry, show j + 2 - 1 = j + 1 from rfl, Nat.succ_mul j, Nat.pow_succ,
      Nat.add_sub_add_left, show 2 * 2 ^ f.frac - 2 ^ f.frac = 2 ^ f.frac by omega,
      Nat.mul_comm (2 ^ j), ← Nat.mul_assoc, Nat.mul_comm (2 ^ f.frac)]

/-- Every magnitude has that form, with a significand that does not carry. -/
theorem FFmt.exists_places (f : FFmt) (a : Nat) :
    ∃ n j, a = j * 2 ^ f.frac + n ∧ n < 2 ^ (f.frac + 1) ∧ f.Places n j ∧ f.units a = n * 2 ^ j := by
  have rest := Nat.mod_lt a (Nat.two_pow_pos f.frac)
  have whole := Nat.div_add_mod' a (2 ^ f.frac)
  have double : 2 ^ (f.frac + 1) = 2 ^ f.frac * 2 := Nat.pow_succ ..
  refine ⟨a - (a / 2 ^ f.frac - 1) * 2 ^ f.frac, a / 2 ^ f.frac - 1, ?_⟩
  obtain small | ⟨j, hj⟩ : a / 2 ^ f.frac = 0 ∨ ∃ j, a / 2 ^ f.frac = j + 1 := by cases a / 2 ^ f.frac <;> simp
  · rw [small, Nat.zero_mul] at whole
    simp only [small, Nat.zero_sub, Nat.zero_mul]
    exact ⟨by omega, by omega, ⟨by omega, .inl rfl⟩, by simp [FFmt.units, small]⟩
  · rw [hj, Nat.succ_mul] at whole
    simp only [hj, Nat.add_sub_cancel]
    exact ⟨by omega, by omega, ⟨by omega, .inr (by omega)⟩, by simp [FFmt.units, hj]⟩

/-- The order of magnitudes is that of their values: the next magnitude is one unit of the same place more. -/
theorem FFmt.units_lt_succ (f : FFmt) (a : Nat) : f.units a < f.units (a + 1) := by
  obtain ⟨n, j, rfl, lt, ⟨-, full⟩, units⟩ := f.exists_places a
  rw [units, Nat.add_assoc, FFmt.units_pack ⟨lt, by omega⟩]
  exact Nat.mul_lt_mul_of_pos_right (Nat.lt_succ_self n) (Nat.two_pow_pos j)

theorem FFmt.units_lt (f : FFmt) {a b : Nat} (h : a < b) : f.units a < f.units b := by
  induction h with
  | refl => exact f.units_lt_succ a
  | step _ ih => exact Nat.lt_trans ih (f.units_lt_succ _)

theorem FFmt.units_lt_iff (f : FFmt) {a b : Nat} : f.units a < f.units b ↔ a < b := by
  refine ⟨fun h => Nat.not_le.1 fun le => ?_, f.units_lt⟩
  obtain lt | rfl := Nat.lt_or_eq_of_le le
  · exact Nat.lt_asymm h (f.units_lt lt)
  · exact Nat.lt_irrefl _ h

theorem FFmt.units_le_iff (f : FFmt) {a b : Nat} : f.units a ≤ f.units b ↔ a ≤ b := by
  rw [← Nat.not_lt, f.units_lt_iff, Nat.not_lt]

/-- The value of a finite code, where subnormals are not read as zero. -/
theorem FFmt.unpack_finite {f : FFmt} (s : Bool) {a : Nat} (h : a ≤ f.largest) :
    ∃ n j, f.unpack false (f.signBit s + a) = .fin s n (f.qmin + (j : Nat)) ∧
      a = j * 2 ^ f.frac + n ∧ n < 2 ^ (f.frac + 1) ∧ f.Places n j ∧ f.units a = n * 2 ^ j := by
  obtain ⟨n, j, ha, lt, places, units⟩ := f.exists_places a
  refine ⟨n, j, ?_, ha, lt, places, units⟩
  have double : 2 ^ (f.frac + 1) = 2 ^ f.frac * 2 := Nat.pow_succ ..
  rw [f.unpack_signBit_add false s (Nat.lt_of_le_of_lt h f.largest_lt), if_neg (by omega)]
  by_cases small : a < 2 ^ f.frac
  · obtain rfl : j = 0 := Nat.eq_zero_of_not_pos fun pos => by have := Nat.le_mul_of_pos_left (2 ^ f.frac) pos; omega
    simp [small]
    omega
  · have normal : 2 ^ f.frac ≤ n := places.full.elim (fun zero => by rw [zero] at ha; omega) id
    have ⟨quotient, rest⟩ : a / 2 ^ f.frac = j + 1 ∧ a % 2 ^ f.frac = n - 2 ^ f.frac :=
      (Nat.div_mod_unique (Nat.two_pow_pos _)).2 ⟨by rw [Nat.mul_succ, Nat.mul_comm]; omega, by omega⟩
    rw [if_neg small, quotient, rest, Nat.add_sub_cancel, Nat.sub_add_cancel normal]

/-- The infinity, in a format that has one. -/
theorem FFmt.unpack_infinity {f : FFmt} (ftz s : Bool) (h : f.hasInf = true) :
    f.unpack ftz (f.signBit s + (f.largest + 1)) = .inf s := by
  rw [f.unpack_signBit_add ftz s (f.infinity_lt h), if_pos (by omega), if_pos ⟨h, rfl⟩]

/-- A code that is no NaN is finite or an infinity. -/
theorem FFmt.magnitude_of_not_nan {f : FFmt} {ftz s : Bool} {a : Nat} (ha : a < 2 ^ (f.bits - 1))
    (h : (f.unpack ftz (f.signBit s + a)).isNan = false) : a ≤ f.largest ∨ f.hasInf = true ∧ a = f.largest + 1 := by
  rw [f.unpack_signBit_add ftz s ha] at h
  refine Decidable.byContradiction fun special => ?_
  rw [if_pos (by omega), if_neg fun infinite => special (.inr infinite)] at h
  cases h

theorem FFmt.le_largest_of_isFin {f : FFmt} {ftz s : Bool} {a : Nat} (ha : a < 2 ^ (f.bits - 1))
    (h : (f.unpack ftz (f.signBit s + a)).isFin = true) : a ≤ f.largest := by
  rw [f.unpack_signBit_add ftz s ha] at h
  refine Decidable.byContradiction fun special => ?_
  rw [if_pos (by omega)] at h
  split at h <;> cases h

end Sys2Proof.Machine
end

section
/-! PROOFS. Rounding to a floating format (02 R74, R76): the last place, the code and the overflow. -/

namespace Sys2Proof.Machine

theorem roundAt_up {e q : Int} (rm : RM) (s : Bool) (m : Nat) (h : q ≤ e) :
    roundAt rm s m e q = (m * 2 ^ (e - q).toNat, false) := if_pos h

theorem roundAt_down {e q : Int} (rm : RM) (s : Bool) (m : Nat) (h : e < q) :
    roundAt rm s m e q = roundShift rm s m (q - e).toNat := if_neg (by omega)

theorem roundAt_inexact (rm : RM) (s : Bool) (m : Nat) (e q : Int) :
    (roundAt rm s m e q).2 = decide (e < q ∧ (roundAt rm s m e q).1 * 2 ^ (q - e).toNat ≠ m) := by
  by_cases h : e < q
  · simp [roundAt_down rm s m h, roundShift_inexact, h]
  · simp [roundAt_up rm s m (by omega : q ≤ e), h]

/-- The places between an exponent and a greater one. -/
theorem toNat_add_sub (q : Int) (j : Nat) : (q + j - q).toNat = j := by omega

theorem FFmt.lastPlace_eq (f : FFmt) (m : Nat) (e : Int) :
    f.lastPlace m e = max f.qmin (e + bitLen m - (f.frac + 1)) := by
  simp only [FFmt.lastPlace]
  split <;> omega

/-- Rounding at the last place leaves no more than the format's significand, or the carry out of it. -/
theorem FFmt.roundAt_places (f : FFmt) (rm : RM) (s : Bool) {m : Nat} (hm : 0 < m) (e : Int) :
    f.Places (roundAt rm s m e (f.lastPlace m e)).1 (f.lastPlace m e - f.qmin).toNat := by
  have place := f.lastPlace_eq m e
  have bits : 0 < bitLen m := lt_bitLen_iff.2 hm
  generalize f.lastPlace m e = q at place ⊢
  by_cases up : q ≤ e
  · rw [roundAt_up rm s m up]
    constructor
    · calc m * 2 ^ (e - q).toNat ≤ 2 ^ bitLen m * 2 ^ (e - q).toNat := Nat.mul_le_mul_right _ (Nat.le_of_lt (lt_two_pow_bitLen m))
        _ = 2 ^ (bitLen m + (e - q).toNat) := (Nat.pow_add ..).symm
        _ ≤ 2 ^ (f.frac + 1) := Nat.pow_le_pow_right (by omega) (by omega)
    · by_cases least : q = f.qmin
      · exact .inl (by omega)
      · refine .inr ?_
        calc 2 ^ f.frac = 2 ^ (bitLen m - 1 + (e - q).toNat) := by congr 1; omega
          _ = 2 ^ (bitLen m - 1) * 2 ^ (e - q).toNat := Nat.pow_add ..
          _ ≤ m * 2 ^ (e - q).toNat := Nat.mul_le_mul_right _ (lt_bitLen_iff.1 (by omega))
  · rw [roundAt_down rm s m (by omega)]
    constructor
    · exact roundShift_le (by rw [← Nat.pow_add]; exact bitLen_le_iff.1 (by omega))
    · by_cases least : q = f.qmin
      · exact .inl (by omega)
      · exact .inr (le_roundShift (by rw [← Nat.pow_add]; exact lt_bitLen_iff.1 (by omega)))

/-- A rounded magnitude fits where its value is no more than the largest finite one. -/
theorem FFmt.pack_le_iff {f : FFmt} {n j : Nat} (h : f.Places n j) :
    j * 2 ^ f.frac + n ≤ f.largest ↔ n * 2 ^ j ≤ f.units f.largest := by
  rw [← FFmt.units_pack h, f.units_le_iff]

/-- The code and the flags of a finite value that is not zero, without FTZ16. -/
theorem FFmt.round_finite (f : FFmt) {c : FEnv} (hc : c.ftz = false) (s : Bool) {m : Nat} (hm : 0 < m) (e : Int) :
    let q := f.lastPlace m e
    let r := roundAt c.rm s m e q
    let a := (q - f.qmin).toNat * 2 ^ f.frac + r.1
    f.round c (.fin s m e) = if f.largest < a then f.overflow c s else
      (f.signBit s + a, { nx := r.2, uf := r.2 && f.isTiny c.rm s m e }) := by
  simp only [FFmt.round, FFmt.roundFin, FFmt.pack, if_neg (Nat.ne_of_gt hm), hc, gt_iff_lt, Bool.and_false, Bool.false_and, Bool.false_eq_true,
    if_false]

/-- A value that a format holds gives its own code and no flag, in every mode. -/
theorem FFmt.round_unpack {f : FFmt} {c : FEnv} (hc : c.ftz = false) (s : Bool) {a : Nat} (h : a ≤ f.largest) :
    f.round c (f.unpack false (f.signBit s + a)) = (f.signBit s + a, {}) := by
  obtain ⟨n, j, value, ha, lt, ⟨-, full⟩, -⟩ := FFmt.unpack_finite s h
  rw [value]
  obtain rfl | pos := n.eq_zero_or_pos
  · obtain rfl : j = 0 := full.resolve_right (by simp)
    simp [ha, FFmt.round, FFmt.roundFin]
  · have place : f.lastPlace n (f.qmin + j) = f.qmin + j := by
      have upper := bitLen_le_iff.2 lt
      rw [f.lastPlace_eq]
      obtain rfl | normal := full
      · omega
      · have lower := lt_bitLen_iff.2 normal; omega
    have kept := roundAt_up c.rm s n (Int.le_refl (f.qmin + (j : Int)))
    simp only [f.round_finite hc s pos, place, kept, toNat_add_sub]
    simp [← ha, Nat.not_lt.2 h]

theorem FFmt.units_largest (f : FFmt) :
    f.units f.largest = (f.largest % 2 ^ f.frac + 2 ^ f.frac) * 2 ^ (f.largest / 2 ^ f.frac - 1) := by
  have whole := Nat.div_add_mod' f.largest (2 ^ f.frac)
  obtain ⟨j, hj⟩ := Nat.exists_eq_add_of_le' (Nat.div_pos f.two_pow_frac_le_largest (Nat.two_pow_pos _))
  rw [hj, Nat.succ_mul] at whole
  rw [FFmt.units, hj, Nat.add_sub_cancel, show f.largest - j * 2 ^ f.frac = f.largest % 2 ^ f.frac + 2 ^ f.frac by omega]

theorem FFmt.overflow_saturates {f : FFmt} {c : FEnv} (s : Bool) (h : f = .e2m1 ∨ c.sat = true) :
    f.overflow c s = (f.signBit s + f.largest, { of := true, nx := true, sat := true }) := by
  unfold FFmt.overflow
  by_cases e2m1 : f = .e2m1
  · simp [e2m1]
  · simp [e2m1, h.resolve_left e2m1]

/-- By the mode: toward zero and away from the infinity of the sign, the largest finite value. -/
theorem FFmt.overflow_by_mode {f : FFmt} {c : FEnv} (s : Bool) (h : ¬ (f = .e2m1 ∨ c.sat = true)) :
    f.overflow c s = (if c.rm = .rtz ∨ c.rm = (if s then .rup else .rdn) then f.signBit s + f.largest
      else if f.hasInf then f.signBit s + f.largest + 1 else f.nan, { of := true, nx := true }) := by
  obtain ⟨e2m1, sat⟩ := not_or.1 h
  unfold FFmt.overflow
  cases rm : c.rm <;> cases s <;> simp [e2m1, sat]

/-- What rounding gives, by the rounded value in units: its code within the largest finite value, and an overflow beyond it. -/
theorem FFmt.round_finite_spec (f : FFmt) {c : FEnv} (hc : c.ftz = false) (s : Bool) {m : Nat} (hm : 0 < m) (e : Int) :
    let q := f.lastPlace m e
    let n := (roundAt c.rm s m e q).1
    let r := f.round c (.fin s m e)
    let units := n * 2 ^ (q - f.qmin).toNat
    (units ≤ f.units f.largest → r.2.nx = decide (e < q ∧ n * 2 ^ (q - e).toNat ≠ m) ∧ r.2.of = false ∧
      ∃ (k : Nat) (x : Int), f.unpack false r.1 = .fin s k x ∧ f.qmin ≤ x ∧ k * 2 ^ (x - f.qmin).toNat = units) ∧
    (f.units f.largest < units → r = f.overflow c s) := by
  intro q n r units
  have places : f.Places n (q - f.qmin).toNat := f.roundAt_places c.rm s hm e
  have result : r = _ := f.round_finite hc s hm e
  refine ⟨fun fits => ?_, fun past => ?_⟩
  · have le := (FFmt.pack_le_iff places).2 fits
    rw [if_neg (Nat.not_lt.2 le)] at result
    rw [result]
    obtain ⟨k, j, value, -, -, -, same⟩ := FFmt.unpack_finite s le
    refine ⟨roundAt_inexact .., rfl, k, _, value, by omega, ?_⟩
    rw [toNat_add_sub, ← same, FFmt.units_pack places]
  · rw [result, if_pos (Nat.not_le.1 fun le => Nat.not_lt.2 ((FFmt.pack_le_iff places).1 le) past)]


end Sys2Proof.Machine
end

section
/-! PROOFS. Floating values before their rounding (02 R67 to R69): sums, quotients and roots. -/

namespace Sys2Proof.Machine

/-- An exact sum, in units of any place that is not above the addends'. -/
theorem sumDyadic_units (a b : Int) {e f q : Int} (he : q ≤ e) (hf : q ≤ f) :
    (sumDyadic a e b f).1 * 2 ^ ((sumDyadic a e b f).2 - q).toNat = a * 2 ^ (e - q).toNat + b * 2 ^ (f - q).toNat := by
  unfold sumDyadic
  split
  · rw [show (f - q).toNat = (f - e).toNat + (e - q).toNat by omega, Int.pow_add, Int.add_mul, Int.mul_assoc]
  · rw [show (e - q).toNat = (e - f).toNat + (f - q).toNat by omega, Int.pow_add, Int.add_mul, Int.mul_assoc]

theorem nansAndInfinities : NaNsAndInfinities := by
  refine ⟨fun rm x y nan => ?_, fun b => rfl, fun rm s t m e => ⟨rfl, rfl, rfl, rfl, rfl, ?_, rfl, rfl, ?_, rfl⟩⟩
  · cases x with
    | nan => cases y <;> exact ⟨rfl, rfl, rfl⟩
    | inf | fin =>
      cases y with
      | nan => exact ⟨rfl, rfl, rfl⟩
      | inf | fin => cases nan
  · rw [bne_comm]; rfl
  · rw [bne_comm]; rfl

theorem unitsOf_zero (s : Bool) (e q : Int) : unitsOf s 0 e q = 0 := by simp [unitsOf]

theorem finiteSums : FiniteSums := by
  intro rm s m e t n f
  by_cases hm : m = 0
  · by_cases hn : n = 0
    · refine ⟨_, 0, 0, ?_, fun q _ _ _ => by simp [hm, hn, unitsOf_zero], fun _ => rfl⟩
      simp only [FVal.add, hm, hn, if_true]
    · refine ⟨t, n, f, ?_, fun q _ _ _ => by simp [hm, unitsOf_zero], fun h => absurd h hn⟩
      simp only [FVal.add, hm, hn, if_true, if_false]
  · by_cases hn : n = 0
    · refine ⟨s, m, e, ?_, fun q _ _ _ => by simp [hn, unitsOf_zero], fun h => absurd h hm⟩
      simp only [FVal.add, hm, hn, if_true, if_false]
    · have units (q : Int) (he : q ≤ e) (hf : q ≤ f) := sumDyadic_units (signed s m) (signed t n) he hf
      generalize sum : sumDyadic (signed s m) e (signed t n) f = p at units
      by_cases cancels : p.1 = 0
      · refine ⟨decide (rm = .rdn), 0, 0, ?_, fun q he hf _ => ?_, fun _ => ?_⟩
        · simp only [FVal.add, hm, hn, sum, cancels, if_true, if_false]
        · rw [unitsOf_zero]
          exact (Int.zero_mul _).symm.trans (cancels ▸ units q he hf)
        · rw [if_neg]
          rintro rfl
          have zero := units (min e f) (Int.min_le_left ..) (Int.min_le_right ..)
          rw [cancels, Int.zero_mul, signed_mul_two_pow, signed_mul_two_pow, signed_add_signed, eq_comm, signed_eq_zero] at zero
          have pos : 0 < m * 2 ^ (e - min e f).toNat := Nat.mul_pos (Nat.pos_of_ne_zero hm) (Nat.two_pow_pos _)
          omega
      · refine ⟨decide (p.1 < 0), p.1.natAbs, p.2, ?_, fun q he hf _ => ?_, fun h => absurd (Int.natAbs_eq_zero.1 h) cancels⟩
        · simp only [FVal.add, hm, hn, sum, cancels, if_false]
        · exact (congrArg (· * _) (signed_lt_zero_natAbs _)).trans (units q he hf)

/-- The added bit is 0 where the magnitude is the value itself (P), and 1 elsewhere. -/
theorem jam_eq {above : Bool} {P : Prop} [Decidable P] (a : Nat) (h : above = true ↔ ¬ P) :
    jam a above = 2 * a + if P then 0 else 1 := by
  by_cases dyadic : P
  · simp [jam, dyadic, Bool.eq_false_iff.2 fun t => h.1 t dyadic]
  · simp [jam, dyadic, h.2 dyadic]

theorem finiteQuotients : FiniteQuotients := by
  intro s m e t n f
  refine ⟨fun hn => ?_, fun hn hm => ⟨0, ?_⟩, fun hn hm => ?_⟩
  · simp only [FVal.div, hn, if_true]; rfl
  · simp only [FVal.div, hn, hm, if_true, if_false]
  · have pos : 0 < n := Nat.pos_of_ne_zero hn
    have whole (a : Nat) : (a % n != 0) = true ↔ ¬ a / n * n = a := by
      have := Nat.div_add_mod' a n
      simp only [bne_iff_ne]
      omega
    generalize hj : 140 + bitLen n = j
    refine ⟨m * 2 ^ j / n, _, j, ?_, ?_, Nat.div_mul_le_self .., Nat.lt_mul_of_div_lt (Nat.lt_succ_self _) pos, rfl⟩
    · simp only [FVal.div, hn, hm, if_false, hj, jam_eq _ (whole _)]
    · refine (Nat.le_div_iff_mul_le pos).2 ?_
      calc 2 ^ 139 * n ≤ 2 ^ 140 * 2 ^ bitLen n := Nat.mul_le_mul (by decide) (Nat.le_of_lt (lt_two_pow_bitLen n))
        _ = 1 * 2 ^ j := by rw [← hj, Nat.pow_add, Nat.one_mul]
        _ ≤ m * 2 ^ j := Nat.mul_le_mul_right _ (Nat.pos_of_ne_zero hm)

/-- Each bit that is decided leaves the root between the number so far and the next of the place. -/
theorem sqrtBits_spec {n k r : Nat} (lo : r * r ≤ n) (hi : n < (r + 2 ^ k) * (r + 2 ^ k)) :
    sqrtBits n k r * sqrtBits n k r ≤ n ∧ n < (sqrtBits n k r + 1) * (sqrtBits n k r + 1) := by
  induction k generalizing r with
  | zero => exact ⟨lo, hi⟩
  | succ k ih =>
    rw [sqrtBits]
    split
    case isTrue fits => exact ih fits (by rwa [Nat.add_assoc, ← Nat.mul_two, ← Nat.pow_succ])
    case isFalse above => exact ih lo (Nat.not_le.1 above)

theorem isqrt_spec (n : Nat) : isqrt n * isqrt n ≤ n ∧ n < (isqrt n + 1) * (isqrt n + 1) := by
  refine sqrtBits_spec (Nat.zero_le n) ?_
  rw [Nat.zero_add, ← Nat.pow_add]
  exact bitLen_le_iff.1 (by omega)

/-- The root before rounding, of a magnitude made to have an even exponent. -/
theorem FVal.sqrt_pos (m : Nat) (e : Int) (hm : m ≠ 0) :
    ∃ (d : Nat) (h : Int), 140 ≤ d ∧ 2 * h + d = e ∧ FVal.sqrt (.fin false m e) =
      (.fin false (jam (isqrt (m * 2 ^ d)) (isqrt (m * 2 ^ d) * isqrt (m * 2 ^ d) != m * 2 ^ d)) (h - 1), {}) := by
  by_cases even : e % 2 = 0
  · refine ⟨140, e / 2 - 70, Nat.le_refl _, by omega, ?_⟩
    simp only [FVal.sqrt, hm, even, if_true, if_false, Bool.false_eq_true, show e / 2 - 70 - 1 = e / 2 - 71 by omega]
  · refine ⟨141, (e - 1) / 2 - 70, by decide, by omega, ?_⟩
    simp only [FVal.sqrt, hm, even, if_false, Bool.false_eq_true, show (e - 1) / 2 - 70 - 1 = (e - 1) / 2 - 71 by omega,
      show 2 * m * 2 ^ 140 = m * 2 ^ 141 by omega]

theorem finiteRoots : FiniteRoots := by
  intro s m e
  refine ⟨fun hm => ⟨0, ?_⟩, fun hm hs => ?_, fun hm hs => ?_⟩
  · simp only [FVal.sqrt, hm, if_true]
  · simp only [FVal.sqrt, hm, hs, if_true, if_false]; rfl
  · obtain ⟨d, h, hd, place, root⟩ := FVal.sqrt_pos m e hm
    obtain ⟨lo, hi⟩ := isqrt_spec (m * 2 ^ d)
    refine ⟨isqrt (m * 2 ^ d), _, d, h, ?_, place, ?_, lo, hi, rfl⟩
    · rw [hs, root, jam_eq _ bne_iff_ne]
    · have large : 2 ^ 69 * 2 ^ 69 ≤ m * 2 ^ d :=
        calc 2 ^ 69 * 2 ^ 69 ≤ 1 * 2 ^ 140 := by decide
          _ ≤ m * 2 ^ d := Nat.mul_le_mul (Nat.pos_of_ne_zero hm) (Nat.pow_le_pow_right (by decide) hd)
      exact Nat.le_of_lt_succ (Nat.mul_self_lt_mul_self_iff.1 (Nat.lt_of_le_of_lt large hi))

end Sys2Proof.Machine
end

section
/-! PROOFS. The order of codes and their classes (02 R66, R67, R75), and the settlement of O7. -/

namespace Sys2Proof.Machine

/-- A code that is no NaN is given back, an infinity too. -/
theorem FFmt.exact_unpack {f : FFmt} {w : Nat} (hw : w < 2 ^ f.bits) (h : (f.unpack false w).isNan = false) :
    f.exact (f.unpack false w) = w := by
  obtain ⟨s, a, ha, rfl⟩ := FFmt.exists_magnitude hw
  obtain finite | ⟨infinite, rfl⟩ := FFmt.magnitude_of_not_nan ha h
  · exact congrArg Prod.fst (FFmt.round_unpack rfl s finite)
  · rw [FFmt.unpack_infinity false s infinite, FFmt.exact, FFmt.round, if_pos infinite]
    rfl

theorem FFmt.exact_nan {f : FFmt} {v : FVal} (h : v.isNan = true) : f.exact v = f.nan := by
  cases v with
  | nan => rfl
  | inf | fin => cases h

theorem FFmt.place_signBit_add (f : FFmt) (s : Bool) {a : Nat} (ha : a < 2 ^ (f.bits - 1)) :
    f.place (f.signBit s + a) = if s then -1 - (a : Int) else a := by
  have cast : ((2 : Nat) ^ (f.bits - 1) : Nat) = ((2 : Int) ^ (f.bits - 1)) := Int.natCast_pow ..
  unfold FFmt.place
  cases s
  · rw [if_pos (by simpa [FFmt.signBit] using ha)]
    simp [FFmt.signBit]
  · rw [if_neg (by simp [FFmt.signBit]), ← cast]
    simp only [FFmt.signBit, if_true]
    omega

/-- Two finite values of a common least place compare as their units of it. -/
theorem FVal.cmp_fin (s t : Bool) (m n i j : Nat) (q : Int) :
    (FVal.cmp (.fin s m (q + i)) (.fin t n (q + j))) = (signed s (m * 2 ^ i) - signed t (n * 2 ^ j)).sign := by
  have units := sumDyadic_units (signed s m) (-(signed t n)) (show q ≤ q + i by omega) (show q ≤ q + j by omega)
  rw [toNat_add_sub, toNat_add_sub, Int.neg_mul, signed_mul_two_pow,
    signed_mul_two_pow, ← Int.sub_eq_add_neg] at units
  rw [← units, Int.sign_mul, Int.sign_eq_one_of_pos (Int.pow_pos (by decide)), Int.mul_one]
  rfl

theorem FVal.below_fin (s t : Bool) (m n i j : Nat) (q : Int) :
    FVal.below (.fin s m (q + i)) (.fin t n (q + j)) = true ↔ signed s (m * 2 ^ i) < signed t (n * 2 ^ j) ∨
      signed s (m * 2 ^ i) = signed t (n * 2 ^ j) ∧ s = true ∧ t = false := by
  have less (x y : Int) : x - y < 0 ↔ x < y := by omega
  simp [FVal.below, FVal.cmp_fin, FVal.neg, and_assoc, less, Int.sub_eq_zero]

/-- The order of two values that are no NaN is that of their codes' places: among finite ones of one sign, that of the magnitudes. -/
theorem FFmt.below_iff_place {f : FFmt} {v w : Nat} (hv : v < 2 ^ f.bits) (hw : w < 2 ^ f.bits)
    (nv : (f.unpack false v).isNan = false) (nw : (f.unpack false w).isNan = false) :
    (f.unpack false v).below (f.unpack false w) = true ↔ f.place v < f.place w := by
  obtain ⟨s, a, ha, rfl⟩ := FFmt.exists_magnitude hv
  obtain ⟨t, b, hb, rfl⟩ := FFmt.exists_magnitude hw
  rw [f.place_signBit_add s ha, f.place_signBit_add t hb]
  obtain finA | ⟨infinite, rfl⟩ := FFmt.magnitude_of_not_nan ha nv
  · obtain ⟨m, i, va, -, -, -, ua⟩ := FFmt.unpack_finite s finA
    obtain finB | ⟨infinite, rfl⟩ := FFmt.magnitude_of_not_nan hb nw
    · obtain ⟨n, j, vb, -, -, -, ub⟩ := FFmt.unpack_finite t finB
      have lt : f.units a < f.units b ↔ a < b := f.units_lt_iff
      have gt : f.units b < f.units a ↔ b < a := f.units_lt_iff
      rw [va, vb, FVal.below_fin, ← ua, ← ub]
      cases s <;> cases t <;> simp [signed] <;> omega
    · rw [va, FFmt.unpack_infinity false t infinite]
      cases s <;> cases t <;> simp [FVal.below, FVal.cmp, FVal.neg] <;> omega
  · rw [FFmt.unpack_infinity false s infinite]
    obtain finB | ⟨infinite, rfl⟩ := FFmt.magnitude_of_not_nan hb nw
    · obtain ⟨n, j, vb, -, -, -, ub⟩ := FFmt.unpack_finite t finB
      rw [vb]
      cases s <;> cases t <;> simp [FVal.below, FVal.cmp, FVal.neg] <;> omega
    · rw [FFmt.unpack_infinity false t infinite]
      cases s <;> cases t <;> simp [FVal.below, FVal.cmp, FVal.neg] <;> omega

/-- Which of two values is the minimum or the maximum: the other operand where one is a NaN. -/
theorem FVal.minmax_cases (most : Bool) (x y : FVal) :
    (FVal.minmax most x y).2 = { nv := x.isSig || y.isSig } ∧
      (FVal.minmax most x y).1 = if x.isNan then y else if y.isNan then x else
        if (if most then x.below y else y.below x) then y else x := by
  unfold FVal.minmax
  split
  · exact ⟨rfl, rfl⟩
  · split <;> exact ⟨rfl, rfl⟩

theorem FFmt.minmax_spec (f : FFmt) (most : Bool) {a b : Nat} (ha : a < 2 ^ f.bits) (hb : b < 2 ^ f.bits) :
    let r := f.minmax false most a b
    let x := f.unpack false a
    let y := f.unpack false b
    r.2 = { nv := x.isSig || y.isSig } ∧ (x.isNan = true → y.isNan = true → r.1 = f.nan) ∧
    (x.isNan = true → y.isNan = false → r.1 = b) ∧ (x.isNan = false → y.isNan = true → r.1 = a) ∧
    (x.isNan = false → y.isNan = false → (r.1 = a ∨ r.1 = b) ∧
      f.place r.1 = if most then max (f.place a) (f.place b) else min (f.place a) (f.place b)) := by
  intro r x y
  obtain ⟨flags, value⟩ := FVal.minmax_cases most x y
  have code : r.1 = f.exact (FVal.minmax most x y).1 := rfl
  rw [code, value]
  refine ⟨flags, fun nx ny => ?_, fun nx ny => ?_, fun nx ny => ?_, fun nx ny => ?_⟩
  · rw [if_pos nx, FFmt.exact_nan ny]
  · rw [if_pos nx, FFmt.exact_unpack hb ny]
  · rw [if_neg (by simp [nx]), if_pos ny, FFmt.exact_unpack ha nx]
  · rw [if_neg (by simp [nx]), if_neg (by simp [ny]), apply_ite f.exact, FFmt.exact_unpack ha nx, FFmt.exact_unpack hb ny]
    cases most
    · have below : y.below x = true ↔ f.place b < f.place a := FFmt.below_iff_place hb ha ny nx
      simp only [Bool.false_eq_true, if_false, below]
      split
      · exact ⟨.inr rfl, by omega⟩
      · exact ⟨.inl rfl, by omega⟩
    · have below : x.below y = true ↔ f.place a < f.place b := FFmt.below_iff_place ha hb nx ny
      simp only [if_true, below]
      split
      · exact ⟨.inr rfl, by omega⟩
      · exact ⟨.inl rfl, by omega⟩

/-- The class by the sign and the magnitude of a code. -/
theorem FFmt.cls_signBit_add (f : FFmt) (ftz s : Bool) {a : Nat} (h : a < 2 ^ (f.bits - 1)) :
    f.cls ftz (f.signBit s + a) =
      if f.largest < a then
        (if f.hasInf = true ∧ a = f.largest + 1 then (if s then 0 else 7)
         else if f.hasInf = true ∧ a % 2 ^ f.frac < 2 ^ (f.frac - 1) then 8 else 9)
      else if a = 0 ∨ (a < 2 ^ f.frac ∧ ftz = true ∧ f.bits ≤ 16) then (if s then 3 else 4)
      else if a < 2 ^ f.frac then (if s then 2 else 5)
      else if s then 1 else 6 := by
  have pos : 0 < 2 ^ f.frac := Nat.two_pow_pos _
  unfold FFmt.cls
  rw [f.unpack_signBit_add ftz s h, f.signBit_add_mod s h]
  by_cases special : f.largest < a
  · rw [if_pos special, if_pos special]
    by_cases infinite : f.hasInf = true ∧ a = f.largest + 1
    · rw [if_pos infinite, if_pos infinite]
    · rw [if_neg infinite, if_neg infinite]
      simp
  · rw [if_neg special, if_neg special]
    by_cases small : a < 2 ^ f.frac
    · by_cases flushed : ftz = true ∧ f.bits ≤ 16
      · simp [small, flushed, FFmt.small]
      · have kept : (ftz && f.small) = false := by simpa [FFmt.small] using flushed
        simp [small, flushed, kept]
    · have nonzero : a ≠ 0 := by omega
      simp [small, nonzero]

/-- An infinity in the formats that have none overflows (02 R76). -/
theorem FFmt.round_infinity {f : FFmt} (c : FEnv) (s : Bool) (h : f.hasInf = false) :
    f.round c (.inf s) = f.overflow { c with sat := false } s := if_neg (by simp [h])

/-- Settles O7: representable values by their own codes, finite ones by their units of the least place, then the values before
rounding, the order of codes and the classes. -/
theorem roundingKeepsRepresentable : Obligations.RoundingKeepsRepresentable := by
  refine ⟨fun f rm sat w hw fin => ?representable, fun f c s m e hm hc => ?finite, fun f c s b => ⟨?nan, ?infinite, ?e2m1, ?e4m3⟩,
    ⟨nansAndInfinities, finiteSums, finiteQuotients, finiteRoots, fun _ _ _ _ _ _ => rfl, fun _ _ _ _ => rfl⟩,
    fun f most a b ha hb => f.minmax_spec most ha hb, fun f ftz w hw => ?classes⟩
  case representable =>
    obtain ⟨s, a, ha, rfl⟩ := FFmt.exists_magnitude hw
    exact FFmt.round_unpack rfl s (FFmt.le_largest_of_isFin ha fin)
  case finite =>
    obtain ⟨within, beyond⟩ := f.round_finite_spec hc s hm e
    rw [f.units_largest] at within beyond
    refine ⟨(roundAt c.rm s m e (f.lastPlace m e)).1, f.lastPlace m e, f.lastPlace_eq m e, fun up => ?_, fun down => ?_,
      within, fun past => ?_⟩
    · rw [roundAt_up c.rm s m up]
    · rw [roundAt_down c.rm s m down]
      exact roundShift_rounded ..
    · rw [beyond past]
      by_cases saturates : f = .e2m1 ∨ c.sat = true
      · rw [FFmt.overflow_saturates s saturates, if_pos saturates]
        exact ⟨by simpa using saturates, rfl⟩
      · rw [FFmt.overflow_by_mode s saturates, if_neg saturates]
        refine ⟨by simpa using saturates, ?_⟩
        cases c.rm <;> cases s <;> rfl
  case nan => rfl
  case infinite => exact fun h => if_pos h
  case e2m1 =>
    rw [FFmt.round_infinity c s rfl, FFmt.overflow_saturates s (.inl rfl)]
    cases s <;> rfl
  case e4m3 =>
    rw [FFmt.round_infinity c s rfl, FFmt.overflow_by_mode s (by simp)]
    cases c.rm <;> cases s <;> rfl
  case classes =>
    obtain ⟨s, a, ha, rfl⟩ := FFmt.exists_magnitude hw
    have sign : decide (2 ^ (f.bits - 1) ≤ f.signBit s + a) = s := by
      rw [Bool.eq_iff_iff, decide_eq_true_eq, f.le_signBit_add s ha]
    simp only [sign, f.signBit_add_mod s ha]
    exact f.cls_signBit_add ftz s ha

end Sys2Proof.Machine
end

section
/-! PROOFS. Encoding and decoding (04 R141 to R157): the word of an instruction decodes to it, and a word that decodes is the word of
its instruction. The second goes format by format (04 R142): a word is that of its format whose fields are the word's own. -/

namespace Sys2Proof.Laws.RoundTrip

open Machine (majorOf majorOf_eq)

/-! ### The fields of a word (04 R142) -/

theorem toNat_fD (n : Nat) : (fD n).toNat = n / 2097152 % 32 := rfl
theorem toNat_fA (n : Nat) : (fA n).toNat = n / 65536 % 32 := rfl
theorem toNat_fB (n : Nat) : (fB n).toNat = n / 2048 % 32 := rfl
theorem toNat_pD (n : Nat) : (pD n).toNat = n / 2097152 % 8 := rfl
theorem toNat_pA (n : Nat) : (pA n).toNat = n / 65536 % 8 := rfl
theorem toNat_pB (n : Nat) : (pB n).toNat = n / 2048 % 8 := rfl
theorem toNat_fld (lo k n : Nat) : (fld lo k n).toNat = n / 2 ^ lo % 2 ^ k := BitVec.toNat_ofNat ..

section
variable {w : IWord} {op d a b low : Nat} (major : w.toNat / 67108864 % 64 = op)
include major

theorem rFmt_of_fields (hd : w.toNat / 2097152 % 32 = d) (ha : w.toNat / 65536 % 32 = a) (hb : w.toNat / 2048 % 32 = b)
    (hfn : w.toNat % 2048 = low) : rFmt op d a b low = w := by
  have := w.isLt
  apply BitVec.eq_of_toNat_eq
  rw [rFmt_toNat _ _ _ _ _ (by omega)]
  omega

theorem iFmt_of_fields (hd : w.toNat / 2097152 % 32 = d) (ha : w.toNat / 65536 % 32 = a) (himm : w.toNat % 65536 = low) :
    iFmt op d a low = w := by
  have := w.isLt
  apply BitVec.eq_of_toNat_eq
  rw [iFmt_toNat _ _ _ _ (by omega)]
  omega

theorem jFmt_of_fields (hlow : w.toNat % 67108864 = low) : jFmt op low = w := by
  have := w.isLt
  apply BitVec.eq_of_toNat_eq
  rw [jFmt_toNat _ _ (by omega)]
  omega

theorem cFmt_of_fields (hd : w.toNat / 2097152 % 32 = d) (hsub : w.toNat / 524288 % 4 = a) (hlow : w.toNat % 524288 = low) :
    cFmt op d a low = w := by
  have := w.isLt
  apply BitVec.eq_of_toNat_eq
  rw [cFmt_toNat _ _ _ _ (by omega)]
  omega

end

/-! ### What the decoder reads, format by format (04 R144)

In each row a field is an operand of the instruction, or the bits that the row fixes settle it. -/

section
variable {w : IWord} {i : Instr}

/-- Format R: majors 0x01 and 0x0C to 0x0E. -/
theorem encode_of_decodeR (op : majorOf w = 0x01 ∨ 0x0C ≤ majorOf w ∧ majorOf w ≤ 0x0E) (h : decodeMost w.toNat = .instr i) :
    encode i = some w := by
  rw [majorOf_eq] at op
  unfold decodeMost decode01 decode0C decode0D decode0E ok at h
  split at h
  any_goals omega
  all_goals
    rename_i major
    repeat' split at h
  all_goals cases h
  all_goals
    refine congrArg some (rFmt_of_fields major ?_ ?_ ?_ ?_)
    all_goals simp -failIfUnchanged only [toNat_fD, toNat_fA, toNat_fB, toNat_fld, BitVec.toNat_ofNat] <;> omega

/-- Formats I and S: majors 0x02, 0x03, 0x06 to 0x09 and 0x0F. -/
theorem encode_of_decodeI (op : majorOf w = 0x02 ∨ majorOf w = 0x03 ∨ 0x06 ≤ majorOf w ∧ majorOf w ≤ 0x09 ∨ majorOf w = 0x0F)
    (h : decodeMost w.toNat = .instr i) : encode i = some w := by
  rw [majorOf_eq] at op
  unfold decodeMost decode02 decode03 decode06 decode07 decode08 decode09 decode0F ok at h
  split at h
  any_goals omega
  all_goals
    rename_i major
    repeat' split at h
  all_goals cases h
  all_goals
    refine congrArg some (iFmt_of_fields major ?_ ?_ ?_)
    all_goals simp -failIfUnchanged only [toNat_fD, toNat_fA, toNat_pD, BitVec.toNat_ofNat] <;> omega

/-- Format V: majors 0x10 to 0x19. -/
theorem encode_of_decodeV (op : 0x10 ≤ majorOf w ∧ majorOf w ≤ 0x19) (h : decodeMost w.toNat = .instr i) : encode i = some w := by
  rw [majorOf_eq] at op
  unfold decodeMost decode10 decode11 decode12 decode13 decode14 decode15 decode16 decode17 decode18 decode19 ok at h
  split at h
  any_goals omega
  all_goals
    rename_i major
    repeat' split at h
  all_goals cases h
  all_goals
    refine congrArg some (rFmt_of_fields major ?_ ?_ ?_ ?_)
    all_goals simp -failIfUnchanged only [toNat_fD, toNat_fA, toNat_fB, toNat_pD, toNat_pA, toNat_pB, toNat_fld, BitVec.toNat_ofNat] <;> omega

/-- Formats M and X: majors 0x20 to 0x35. -/
theorem encode_of_decodeMX (op : 0x20 ≤ majorOf w ∧ majorOf w ≤ 0x35) (h : decodeMost w.toNat = .instr i) : encode i = some w := by
  rw [majorOf_eq] at op
  unfold decodeMost decode20 decode21 decode22 decode23 decode24 decode25 decode26 decode28 decode29 decode2A decode2B decode2C decode2D
    decode30 decode31 decode34 decode35 ok at h
  split at h
  any_goals omega
  all_goals
    rename_i major
    repeat' split at h
  all_goals cases h
  all_goals
    refine congrArg some (rFmt_of_fields major ?_ ?_ ?_ ?_)
    all_goals simp -failIfUnchanged only [toNat_fD, toNat_fA, toNat_fB, toNat_pD, toNat_fld, BitVec.toNat_ofNat] <;> omega

/-- Format C: major 0x39. -/
theorem encode_of_decodeC (op : majorOf w = 0x39) (h : decodeMost w.toNat = .instr i) : encode i = some w := by
  rw [majorOf_eq] at op
  unfold decodeMost decode39 ok at h
  split at h
  any_goals omega
  rename_i major
  repeat' split at h
  all_goals cases h
  all_goals
    refine congrArg some (cFmt_of_fields major ?_ ?_ ?_)
    all_goals simp -failIfUnchanged only [toNat_fD, toNat_fld, BitVec.toNat_ofNat] <;> omega

theorem encode_of_decodeMost (h : decodeMost w.toNat = .instr i) : encode i = some w := by
  by_cases r : majorOf w = 0x01 ∨ 0x0C ≤ majorOf w ∧ majorOf w ≤ 0x0E
  · exact encode_of_decodeR r h
  by_cases s : majorOf w = 0x02 ∨ majorOf w = 0x03 ∨ 0x06 ≤ majorOf w ∧ majorOf w ≤ 0x09 ∨ majorOf w = 0x0F
  · exact encode_of_decodeI s h
  by_cases v : 0x10 ≤ majorOf w ∧ majorOf w ≤ 0x19
  · exact encode_of_decodeV v h
  by_cases x : 0x20 ≤ majorOf w ∧ majorOf w ≤ 0x35
  · exact encode_of_decodeMX x h
  by_cases c : majorOf w = 0x39
  · exact encode_of_decodeC c h
  rw [majorOf_eq] at r s v x c
  unfold decodeMost at h
  split at h
  any_goals omega
  cases h

/-- The five majors that the decoder takes apart (log 16) are of formats I, J and P. -/
theorem encode_of_decode (h : decode w = .instr i) : encode i = some w := by
  unfold decode decodeNat decode04 decode05 decode0A decode0B decode38 ok at h
  split at h
  case h_1 major =>
    split at h <;> cases h
    exact congrArg some (iFmt_of_fields major rfl (by rw [toNat_fld]; omega) rfl)
  case h_2 major =>
    split at h <;> cases h
    exact congrArg some (iFmt_of_fields major rfl ‹_› rfl)
  case h_3 major =>
    cases h
    exact congrArg some (jFmt_of_fields major rfl)
  case h_4 major =>
    cases h
    exact congrArg some (iFmt_of_fields major rfl rfl rfl)
  case h_5 major =>
    split at h <;> cases h
    exact congrArg some (jFmt_of_fields major (by rw [toNat_fld, toNat_fld, toNat_fld]; omega))
  case h_6 => exact encode_of_decodeMost h

end

end Sys2Proof.Laws.RoundTrip

namespace Sys2Proof

/-- Settles O54, constructor by constructor. -/
theorem decodeOfEncode : Obligations.DecodeOfEncode := Laws.RoundTrip.decode_encode

/-- Settles O55, format by format. -/
theorem encodeOfDecode : Obligations.EncodeOfDecode := fun _ _ => Laws.RoundTrip.encode_of_decode

/-- Settles O56: the decoder computes on each word. -/
theorem decodeSpecWords : Obligations.DecodeSpecWords := by
  refine ⟨rfl, rfl, rfl, rfl, rfl, rfl, fun i h => ?_⟩
  have zero : decode 0 = .reject .major := rfl
  rw [zero] at h
  cases h

end Sys2Proof
end

section
/-! PROOFS. Words of the vector queue that do not run (04 R160 to R162; 01 R30, R33; 14 R394): on a control hart, while ILL is set,
and without an active element. -/

namespace Sys2Proof.Machine

/-! ### Words of the vector queue -/

theorem decodeMost_of_queued {i : Instr} {w : IWord} (he : encode i = some w)
    (op : 0x10 ≤ majorOf w ∧ majorOf w ≤ 0x37 ∨ majorOf w = 0x39) : decodeMost w.toNat = .instr i := by
  have decoded : decodeNat w.toNat = .instr i := Laws.RoundTrip.decode_encode i w he
  rw [majorOf_eq] at op
  unfold decodeNat at decoded
  split at decoded
  case h_6 => exact decoded
  all_goals omega

/-- A word of majors 0x2C to 0x39 but REP enters the vector queue, as those of 0x10 to 0x2B do. -/
theorem exec_command {n : Nat} {i : Instr} (op : 0x2C ≤ n / 67108864 % 64) (h : decodeMost n = .instr i) (s : State) :
    ∃ f, exec i s = runQueued (wordOf i) f s := by
  unfold decodeMost decode2C decode2D decode30 decode31 decode34 decode35 decode39 ok at h
  split at h
  any_goals omega
  all_goals repeat' split at h
  all_goals cases h
  all_goals
    unfold exec
    exact ⟨_, rfl⟩

/-- An instruction of the vector queue traps on a control hart (14 R394). -/
theorem exec_control {i : Instr} {w : IWord} {s : State} (he : encode i = some w) (hc : s.hart.isCtl = true)
    (op : 0x10 ≤ majorOf w ∧ majorOf w ≤ 0x37 ∨ majorOf w = 0x39) : exec i s = .next (s.takeTrap (wordInfo true w) .illegal) := by
  have decoded := decodeMost_of_queued he op
  have word : wordOf i = w := by rw [wordOf, he]; rfl
  have queued : ∃ f, exec i s = runQueued (wordOf i) f s := by
    rw [majorOf_eq] at op
    by_cases vector : w.toNat / 67108864 % 64 ≤ 0x2B
    · exact ⟨_, exec_decodeMost (by omega) vector decoded s⟩
    · exact exec_command (by omega) decoded s
  obtain ⟨f, queued⟩ := queued
  rw [queued, runQueued_ctl _ _ hc, word]

/-! ### The frame of the lane-governed words (04 R160, R161) -/

/-- VEXT and VINS have no lane where no element is active (06 R215). -/
theorem indexLanes_none {h : Hart} (shape : BitVec 2) (b : BitVec 5) (inactive : h.anyActive = false) : indexLanes shape b h = false := by
  unfold indexLanes
  split
  · next i _ =>
    rw [Bool.eq_false_iff]
    intro active
    have below : i < h.vl.toNat := by
      simp only [Hart.active, Bool.and_eq_true, decide_eq_true_eq] at active
      exact active.1.2
    rw [Hart.anyActive, List.any_eq_false] at inactive
    exact inactive i (List.mem_range.2 below) active
  · exact inactive

/-- VFSGN is element-wise, also where its variant is not assigned. -/
theorem effVfsgn_governed (d a : VReg) (b : BitVec 5) (h : BitVec 2) (k : BitVec 3) (s : State) :
    ∃ body, effVfsgn d a b h k s = laneGoverned Hart.anyActive body s := by
  unfold effVfsgn
  dsimp only
  split <;> exact ⟨_, rfl⟩

/-- The words of majors 0x10 to 0x19, 0x20 to 0x25 and 0x28 to 0x2A are lane-governed (04 R145). -/
theorem vecEff_governed {n : Nat} {i : Instr} (h : decodeMost n = .instr i)
    (lo : 0x10 ≤ n / 67108864 % 64) (hi : n / 67108864 % 64 ≤ 0x2A) (stream : n / 67108864 % 64 ≠ 0x26) (s : State) :
    ∃ lanes body, vecEff i s = laneGoverned lanes body s := by
  unfold decodeMost decode10 decode11 decode12 decode13 decode14 decode15 decode16 decode17 decode18 decode19 decode20 decode21 decode22
    decode23 decode24 decode25 decode28 decode29 decode2A ok at h
  split at h
  any_goals omega
  all_goals repeat' split at h
  all_goals cases h
  any_goals exact ⟨_, _, rfl⟩
  -- VFSGN takes its effect by its variant.
  exact ⟨_, effVfsgn_governed ..⟩

/-- The lanes of the words of majors 0x10 to 0x15 are elements. -/
theorem vecEff_elementwise {n : Nat} {i : Instr} (h : decodeMost n = .instr i)
    (op : 0x10 ≤ n / 67108864 % 64 ∧ n / 67108864 % 64 ≤ 0x15) (s : State) :
    ∃ lanes body, vecEff i s = laneGoverned lanes body s ∧ (s.hart.anyActive = false → lanes s.hart = false) := by
  unfold decodeMost decode10 decode11 decode12 decode13 decode14 decode15 ok at h
  split at h
  any_goals omega
  all_goals repeat' split at h
  all_goals cases h
  any_goals exact ⟨Hart.anyActive, _, rfl, id⟩
  · exact ⟨_, _, rfl, indexLanes_none _ _⟩
  · exact ⟨_, _, rfl, indexLanes_none _ _⟩
  · obtain ⟨body, governed⟩ := effVfsgn_governed ..
    exact ⟨_, body, governed, id⟩

theorem wordEff_encode {i : Instr} {w : IWord} (he : encode i = some w) (lo : 0x10 ≤ majorOf w) (hi : majorOf w ≤ 0x2B) :
    wordEff w = vecEff i := by
  rw [wordEff, decodeMost_encode he lo hi]

/-- A lane-governed word traps VCFG_ILL while ILL is set (04 R161). -/
theorem exec_ill {i : Instr} {w : IWord} {s : State} (he : encode i = some w) (hc : s.hart.isCtl = false) (ill : s.hart.ill = true)
    (op : 0x10 ≤ majorOf w ∧ majorOf w ≤ 0x19 ∨ 0x20 ≤ majorOf w ∧ majorOf w ≤ 0x25 ∨ 0x28 ≤ majorOf w ∧ majorOf w ≤ 0x2A) :
    exec i s = .next (s.takeTrap (wordInfo false w) .vcfgIll) := by
  have lo : 0x10 ≤ majorOf w := by omega
  have hi : majorOf w ≤ 0x2B := by omega
  obtain ⟨lanes, body, governed⟩ : ∃ lanes body, vecEff i s = laneGoverned lanes body s := by
    rw [majorOf_eq] at op
    exact vecEff_governed (decodeMost_encode he lo hi) (by omega) (by omega) (by omega) s
  rw [exec_eq_wordEff he lo hi hc, wordEff_encode he lo hi, governed, laneGoverned_ill _ _ ill, State.finish_trap, hc]

/-- An element-wise word without an active element restarts VSTART and MSTART (01 R30; 04 R160). -/
theorem exec_inactive {i : Instr} {w : IWord} {s : State} (he : encode i = some w) (hc : s.hart.isCtl = false)
    (configured : s.hart.ill = false) (inactive : s.hart.anyActive = false) (op : 0x10 ≤ majorOf w ∧ majorOf w ≤ 0x15) :
    exec i s = .next (State.past { s with hart := s.hart.restart }) := by
  have lo : 0x10 ≤ majorOf w := op.1
  have hi : majorOf w ≤ 0x2B := by omega
  obtain ⟨lanes, body, governed, noLane⟩ := vecEff_elementwise (decodeMost_encode he lo hi) (majorOf_eq w ▸ op) s
  rw [exec_eq_wordEff he lo hi hc, wordEff_encode he lo hi, governed, laneGoverned_none _ _ configured (noLane inactive)]
  rfl

/-! ### Words that are no instruction (04 R158 to R162) -/

/-- The words that are no instruction and are lane-governed: those of the lane-governed majors, and BINAPP's (04 R145). -/
def StrayLane (w : IWord) : Prop :=
  (0x10 ≤ majorOf w ∧ majorOf w ≤ 0x19) ∨ (0x20 ≤ majorOf w ∧ majorOf w ≤ 0x25) ∨ (0x28 ≤ majorOf w ∧ majorOf w ≤ 0x2A) ∨
    (majorOf w = 0x31 ∧ bitsOf w.toNat 5 6 = 1)

theorem StrayLane.not_rep {w : IWord} (lane : StrayLane w) : majorOf w ≠ 0x38 := by
  obtain h | h | h | ⟨h, -⟩ := lane <;> omega

theorem effWord_governed {w : IWord} (plain : isWiden w.toNat = false) (lane : StrayLane w) :
    effWord w = laneGoverned (strayLanes w.toNat) (Act.trap .illegal) :=
  (if_neg (by rw [plain]; decide)).trans (if_pos lane)

theorem effWord_illegal {w : IWord} (plain : isWiden w.toNat = false) (lane : ¬ StrayLane w)
    (remote : ¬ (majorOf w = 0x35 ∧ bitsOf w.toNat 5 6 < 2)) (vsetl : ¬ (majorOf w = 0x39 ∧ bitsOf w.toNat 19 2 = 0)) (s : State) :
    effWord w s = .trap .illegal s :=
  congrFun ((if_neg (by rw [plain]; decide)).trans ((if_neg lane).trans ((if_neg remote).trans (if_neg vsetl)))) s

/-- On a compute hart such a word ends as its class says, but for one of major 0x38 (01 R45). -/
theorem exec_stray {w : IWord} {s : State} (hc : s.hart.isCtl = false) (rep : majorOf w ≠ 0x38) :
    exec (.wordNotAnInstruction w) s = .next (State.finish w (effWord w s)) :=
  (if_neg rep).trans (runQueued_compute _ _ hc)

theorem exec_stray_control {w : IWord} {s : State} (hc : s.hart.isCtl = true) (rep : majorOf w ≠ 0x38) :
    exec (.wordNotAnInstruction w) s = .next (s.takeTrap (wordInfo true w) .illegal) :=
  (if_neg rep).trans (runQueued_ctl _ _ hc)

end Sys2Proof.Machine
end

section
/-! PROOFS. Instructions that hold a reserved code (04 R159, R160, R162). -/

namespace Sys2Proof.Machine

/-! ### The check of legality, which comes first -/

/-- A computation that begins with the check of legality traps where the check fails. -/
theorem Act.legal_illegal {ok rounds : State → Bool} {rest : State → Unit → Act Unit} {s : State} (bad : ok s = false) :
    ((do let t ← get; let u ← Act.legal (ok t) (rounds t); rest t u) : Act Unit) s = (.error (.trap .illegal), s) := by
  rw [Act.bind_apply]
  simp only [Act.get_apply]
  rw [Act.bind_apply, bad]
  rfl

theorem Hart.srcOk_three (h : Hart) (b : VReg) (w : Nat) : h.srcOk 3 b w = false := rfl

/-- A reserved shape (04 R153). -/
theorem shape_three {h : BitVec 2} (bad : (h != 3) = false) : h = 3 := bne_eq_false_iff_eq.1 bad

theorem shape_or_variant {h : BitVec 2} {p : Bool} (bad : (h != 3 && p) = false) : h = 3 ∨ p = false := by
  rw [Bool.and_eq_false_iff] at bad
  exact bad.imp_left shape_three

/-- VEXT and VINS of another shape than 01 and 10 name no index (06 R215). -/
theorem Hart.index?_reserved {shape : BitVec 2} (bad : decide (shape = 1 ∨ shape = 2) = false) (h : Hart) (b : BitVec 5) :
    h.index? shape b = none := by
  rw [decide_eq_false_iff_not, not_or] at bad
  rw [Hart.index?, if_neg bad.1, if_neg bad.2]

theorem indexLanes_of_index?_none {h : Hart} {shape : BitVec 2} {b : BitVec 5} (noIndex : h.index? shape b = none) :
    indexLanes shape b h = h.anyActive := by
  rw [indexLanes, noIndex]

/-- The lane of PLD and PST is there where an element is active (07 R246). -/
theorem predLanes_of_anyActive {h : Hart} (active : h.anyActive = true) : predLanes h = true := by
  obtain ⟨i, -, hi⟩ := List.any_eq_true.1 active
  simp only [Hart.active, Bool.and_eq_true, decide_eq_true_eq] at hi
  exact decide_eq_true (by omega)

section
variable {s : State} (configured : s.hart.ill = false) (active : s.hart.anyActive = true)
include configured active

/-- An element-wise instruction whose checks fail traps. -/
theorem laneGoverned_illegal {ok rounds : State → Bool} {rest : State → Unit → Act Unit} (bad : ok s = false) :
    laneGoverned Hart.anyActive (do let t ← get; let u ← Act.legal (ok t) (rounds t); rest t u) s = .trap .illegal s :=
  laneGoverned_traps _ configured active (Act.legal_illegal bad)

/-- So does one whose second source has shape 11. -/
theorem laneGoverned_shape_three {ok rounds : State → Bool} {b : State → VReg} {w : State → Nat} {rest : State → Unit → Act Unit} :
    laneGoverned Hart.anyActive
      (do let t ← get; let u ← Act.legal (ok t && t.hart.srcOk 3 (b t) (w t)) (rounds t); rest t u) s = .trap .illegal s :=
  laneGoverned_illegal configured active (by rw [Hart.srcOk_three, Bool.and_false])

theorem VOp.eff_shape_three (v : VOp) (d a : VReg) (b : BitVec 5) : v.eff d a 3 b s = .trap .illegal s :=
  laneGoverned_shape_three configured active

theorem effCompare_shape_three (u : Use) (d : PReg) (a : VReg) (b : BitVec 5) (test : Hart → Nat → Nat → Nat → Bool × Flags) :
    effCompare u d a b 3 test s = .trap .illegal s :=
  laneGoverned_shape_three configured active

theorem effVmv_shape_three (d : VReg) (b : BitVec 5) : effVmv d b 3 s = .trap .illegal s :=
  laneGoverned_shape_three configured active

/-- VEXT and VINS of a shape that names no index trap, by the lane of every element. -/
theorem laneGoverned_index_illegal {shape : BitVec 2} (bad : decide (shape = 1 ∨ shape = 2) = false) {b : BitVec 5}
    {body : State → Act Unit} (first : s.hart.index? shape b = none → body s = Act.trap .illegal) :
    laneGoverned (indexLanes shape b) (do let t ← get; body t) s = .trap .illegal s := by
  have noIndex := Hart.index?_reserved bad s.hart b
  refine laneGoverned_traps _ configured ((indexLanes_of_index?_none noIndex).trans active) ?_
  rw [Act.bind_apply]
  simp only [Act.get_apply, first noIndex]
  rfl

theorem effVext_shape {shape : BitVec 2} (bad : decide (shape = 1 ∨ shape = 2) = false) (d : SReg) (a : VReg) (b : BitVec 5) :
    effVext d a b shape s = .trap .illegal s :=
  laneGoverned_index_illegal configured active bad fun noIndex => by simp only [noIndex]

theorem effVins_shape {shape : BitVec 2} (bad : decide (shape = 1 ∨ shape = 2) = false) (d : VReg) (a : SReg) (b : BitVec 5) :
    effVins d a b shape s = .trap .illegal s :=
  laneGoverned_index_illegal configured active bad fun noIndex => by simp only [noIndex]

theorem effVwiden_variant {k : BitVec 3} (bad : decide (k.toNat < 3) = false) (d : VReg) (b : BitVec 5) :
    effVwiden d b k s = .trap .illegal s :=
  laneGoverned_illegal configured active (by simp only [bad, Bool.false_and])

theorem effVnshr_reserved {h : BitVec 2} {k : BitVec 3} (bad : h = 3 ∨ decide (k.toNat < 2) = false) (d a : VReg) (b : BitVec 5) :
    effVnshr d a b h k s = .trap .illegal s :=
  bad.elim (fun shape => shape ▸ laneGoverned_shape_three configured active)
    fun variant => laneGoverned_illegal configured active (by simp only [variant, Bool.false_and])

theorem effVfsgn_reserved {h : BitVec 2} {k : BitVec 3} (bad : h = 3 ∨ decide (k.toNat < 3) = false) (d a : VReg) (b : BitVec 5) :
    effVfsgn d a b h k s = .trap .illegal s := by
  unfold effVfsgn
  dsimp only
  split
  · next variant =>
    obtain rfl := bad.resolve_right (by simp [variant])
    exact VOp.eff_shape_three configured active _ _ _ _
  · exact laneGoverned_traps _ configured active rfl

theorem effVfcvt_variant {k : BitVec 3} (bad : decide (k.toNat < 5) = false) (d a : VReg) : effVfcvt d a k s = .trap .illegal s :=
  laneGoverned_illegal configured active (by simp only [bad, Bool.false_and])

theorem effVmulm_reserved {h : BitVec 2} {k : BitVec 3} (bad : h = 3 ∨ decide (k.toNat < 3) = false) (d a : VReg) (b : BitVec 5) :
    effVmulm d a b h k s = .trap .illegal s :=
  bad.elim (fun shape => shape ▸ laneGoverned_shape_three configured active)
    fun variant => laneGoverned_illegal configured active (by simp only [variant, Bool.false_and])

theorem effVfmam_shape_three (d a : VReg) (b : BitVec 5) : effVfmam d a b 3 s = .trap .illegal s :=
  laneGoverned_shape_three configured active

theorem effSlide_shape_three (d a : VReg) (b : BitVec 5) (f : Nat → Nat → (Nat → Nat) → (Nat → Nat) → Nat → Nat) :
    effSlide d a b 3 f s = .trap .illegal s :=
  laneGoverned_shape_three configured active

/-! ### Ordering and scope of vector memory (04 R155) -/

section
variable {r : BitVec 2} {c : BitVec 3}

theorem effLoadV_order (bad : orderOk r c = false) (legal : Hart → Bool) (d : VReg) (idx : Option VReg)
    (addr : Hart → (Nat → Nat) → Nat → Word) (trim : Cause → Bool) : effLoadV legal d idx addr trim r c s = .trap .illegal s :=
  laneGoverned_illegal configured active (by simp only [bad, Bool.false_and])

theorem effStoreV_order (bad : orderOk r c = false) (legal : Hart → Bool) (d : VReg) (idx : Option VReg)
    (addr : Hart → (Nat → Nat) → Nat → Word) : effStoreV legal d idx addr r c s = .trap .illegal s :=
  laneGoverned_illegal configured active (by simp only [bad, Bool.false_and])

theorem effVldg_reserved {f : BitVec 3} (bad : (orderOk r c && f != 0) = false) (d : VReg) (a : SReg) (o : BitVec 5) :
    effVldg d a o f r c s = .trap .illegal s :=
  laneGoverned_illegal configured active (by simp only [Hart.segOk, bad, Bool.false_and])

theorem effVstg_reserved {f : BitVec 3} (bad : (orderOk r c && f != 0) = false) (d : VReg) (a : SReg) (o : BitVec 5) :
    effVstg d a o f r c s = .trap .illegal s :=
  laneGoverned_illegal configured active (by simp only [Hart.segOk, bad, Bool.false_and])

theorem effScatter_order (bad : orderOk r c = false) (aligned : Bool) (accs : List Acc) (d : VReg) (a : SReg) (b : VReg)
    (one : Hart → Nat → (Nat → Word) → (Nat → Nat) → Bool → State → Nat → Step1) :
    effScatter aligned accs d a b r c one s = .trap .illegal s :=
  laneGoverned_illegal configured active (by simp only [bad, Bool.false_and])

theorem effPld_order (bad : orderOk r c = false) (d : PReg) (a : SReg) (o : BitVec 5) : effPld d a o r c s = .trap .illegal s :=
  laneGoverned_traps _ configured (predLanes_of_anyActive active) (Act.legal_illegal bad)

theorem effPst_order (bad : orderOk r c = false) (d : PReg) (a : SReg) (o : BitVec 5) : effPst d a o r c s = .trap .illegal s :=
  laneGoverned_traps _ configured (predLanes_of_anyActive active) (Act.legal_illegal bad)

end

end

/-! ### Scalar memory and RATOM (04 R150, R151, R155, R156) -/

section
variable {s : State} {w : BitVec 2} {c : BitVec 3}

/-- The check of an integer atomic's width and scope fails. -/
theorem amoInt_reserved (bad : (decide (w.toNat < 2) && decide (c.toNat < 6)) = false) : 2 ≤ w.toNat ∨ scopeOk c = false := by
  simp only [Bool.and_eq_false_iff, decide_eq_false_iff_not, scopeOk] at bad ⊢
  omega

theorem effAmoInt_reserved (bad : (decide (w.toNat < 2) && decide (c.toNat < 6)) = false) (d a b : SReg) (o : BitVec 2)
    (op : Nat → Nat → Nat → Nat) : effAmoInt d a b w o c op s = .trap .illegal s := if_pos (amoInt_reserved bad)

theorem effAmoFp_reserved (bad : (decide (w.toNat < 3) && decide (c.toNat < 6)) = false) (rounds : Bool) (d a b : SReg) (o : BitVec 2)
    (op : FFmt → FEnv → Nat → Nat → Nat) : effAmoFp rounds d a b w o c op s = .trap .illegal s := by
  refine if_pos ?_
  simp only [Bool.and_eq_false_iff, decide_eq_false_iff_not, scopeOk] at bad ⊢
  bv_omega

theorem effRatom_operation {c : BitVec 4} (bad : decide (c.toNat < 10) = false) (d a b : SReg) (w : BitVec 1) :
    effRatom d a b c w s = .trap .illegal s := by
  unfold effRatom
  dsimp only
  refine Act.effect_trap (t := s) ?_
  rw [Act.bind_apply, bad]
  rfl

end

/-! ### Every instruction with a reserved code -/

theorem runScalar_illegal {s : State} {i : Instr} {f : State → Eff} (h : f s = .trap .illegal s) :
    runScalar (wordOf i) f s = .next (s.trapOf i .illegal) := by
  rw [runScalar_eq, h]
  rfl

theorem runQueued_illegal {s : State} {i : Instr} {f : State → Eff} (hc : s.hart.isCtl = false) (h : f s = .trap .illegal s) :
    runQueued (wordOf i) f s = .next (s.trapOf i .illegal) := by
  rw [runQueued_compute _ _ hc, h]
  rfl

/-- The check of the code comes before every other check of its instruction. -/
theorem exec_of_not_wf {i : Instr} {s : State} (bad : i.wf = false) (hc : s.hart.isCtl = false) (configured : s.hart.ill = false)
    (active : s.hart.anyActive = true) : exec i s = .next (s.trapOf i .illegal) := by
  cases i with
  | ldacq d a w c | strel d a w c =>
    unfold exec
    exact runScalar_illegal (if_pos bad)
  | fence k c =>
    unfold exec
    exact runScalar_illegal (if_pos bad)
  | amoadd d a b w o c | amoand d a b w o c | amoor d a b w o c | amoxor d a b w o c | amomin d a b w o c | amomax d a b w o c
  | amominu d a b w o c | amomaxu d a b w o c | amoswap d a b w o c =>
    exact runScalar_illegal (effAmoInt_reserved bad ..)
  | amocas d a b w o c =>
    unfold exec
    exact runScalar_illegal (if_pos (amoInt_reserved bad))
  | amofadd d a b w o c | amofmin d a b w o c | amofmax d a b w o c =>
    exact runScalar_illegal (effAmoFp_reserved bad ..)
  | vadd d a b h | vsub d a b h | vrsub d a b h | vmul d a b h | vmulh d a b h | vmulhu d a b h | vmadd d a b h | vdiv d a b h
  | vdivu d a b h | vrem d a b h | vmin d a b h | vmax d a b h | vminu d a b h | vmaxu d a b h | vand d a b h | vor d a b h
  | vxor d a b h | vshl d a b h | vshr d a b h | vsar d a b h | vsadd d a b h | vsaddu d a b h | vssub d a b h | vssubu d a b h
  | vfadd d a b h | vfsub d a b h | vfmul d a b h | vfma d a b h | vfnma d a b h | vfms d a b h | vfdiv d a b h | vfmin d a b h
  | vfmax d a b h =>
    obtain rfl := shape_three bad
    exact runQueued_illegal hc (VOp.eff_shape_three configured active ..)
  | vsel d a b h p =>
    obtain rfl := shape_three bad
    exact runQueued_illegal hc (VOp.eff_shape_three configured active ..)
  | vcmp d a b h c | vfcmp d a b h c =>
    obtain rfl := shape_three bad
    exact runQueued_illegal hc (effCompare_shape_three configured active ..)
  | vmv d b h =>
    obtain rfl := shape_three bad
    exact runQueued_illegal hc (effVmv_shape_three configured active ..)
  | vfmam d a b h =>
    obtain rfl := shape_three bad
    exact runQueued_illegal hc (effVfmam_shape_three configured active ..)
  | vslideup d a b h | vslidedn d a b h =>
    obtain rfl := shape_three bad
    exact runQueued_illegal hc (effSlide_shape_three configured active ..)
  | vext d a b h => exact runQueued_illegal hc (effVext_shape configured active bad ..)
  | vins d a b h => exact runQueued_illegal hc (effVins_shape configured active bad ..)
  | vwiden d b k => exact runQueued_illegal hc (effVwiden_variant configured active bad ..)
  | vfcvt d a k => exact runQueued_illegal hc (effVfcvt_variant configured active bad ..)
  | vnshr d a b h k => exact runQueued_illegal hc (effVnshr_reserved configured active (shape_or_variant bad) ..)
  | vfsgn d a b h k => exact runQueued_illegal hc (effVfsgn_reserved configured active (shape_or_variant bad) ..)
  | vmulm d a b h k => exact runQueued_illegal hc (effVmulm_reserved configured active (shape_or_variant bad) ..)
  | vld d a o r c | vlds d a o r c | vldx d a o r c | vldff d a o r c =>
    exact runQueued_illegal hc (effLoadV_order configured active bad ..)
  | vst d a o r c | vsts d a o r c | vstx d a o r c =>
    exact runQueued_illegal hc (effStoreV_order configured active bad ..)
  | vstxa d a b r c | vstxc d a b r c => exact runQueued_illegal hc (effScatter_order configured active bad ..)
  | vldg d a o f r c => exact runQueued_illegal hc (effVldg_reserved configured active bad ..)
  | vstg d a o f r c => exact runQueued_illegal hc (effVstg_reserved configured active bad ..)
  | pld d a o r c => exact runQueued_illegal hc (effPld_order configured active bad ..)
  | pst d a o r c => exact runQueued_illegal hc (effPst_order configured active bad ..)
  | ratom d a b c w => exact runQueued_illegal hc (effRatom_operation bad ..)
  | _ => cases bad

/-- Settles O18, class by class. -/
theorem wordsThatDoNotRun : Obligations.WordsThatDoNotRun := by
  refine ⟨fun s i w he hc op => exec_control he hc op,
    fun s i w he hc => ⟨fun ill op => exec_ill he hc ill op, fun configured inactive op => exec_inactive he hc configured inactive op⟩,
    fun s i bad hc configured active => exec_of_not_wf bad hc configured active,
    fun s w hc plain => ?_, fun s w hc rep => exec_stray_control hc rep, fun s va => ⟨rfl, rfl⟩⟩
  refine ⟨fun (lane : StrayLane w) ill => ?ill, fun (lane : StrayLane w) configured inactive => ?inactive,
    fun (lane : StrayLane w) configured active => ?illegal, fun noLane remote vsetl rep => ?other⟩
  case ill =>
    rw [exec_stray hc lane.not_rep, effWord_governed plain lane, laneGoverned_ill _ _ ill, State.finish_trap, hc]
  case inactive =>
    rw [exec_stray hc lane.not_rep, effWord_governed plain lane, laneGoverned_none _ _ configured inactive]
    rfl
  case illegal =>
    rw [exec_stray hc lane.not_rep, effWord_governed plain lane,
      laneGoverned_traps _ configured active (Act.trap_apply .illegal s), State.finish_trap, hc]
  case other =>
    rw [exec_stray hc rep, effWord_illegal plain noLane remote vsetl, State.finish_trap, hc]

end Sys2Proof.Machine
end
